-- ==== Sys2Proof/Word.lean ====
section
/-! DEFINITION. The widths of the part: samples and bytes, supervision codes, and the 16-bit counts. -/

namespace Sys2Proof

/-- A byte of a cell, or one companded sample (R27). -/
abbrev Byte := BitVec 8

/-- A supervision code, 0..15 (R27). -/
abbrev Code := BitVec 4

/-- A frame count, a sample sequence number or an offset: sums and differences wrap at 65536 (00, section 4.3). -/
abbrev Word := BitVec 16

end Sys2Proof
end

