-- ==== Sys2Proof/Syntax.lean ====
section
/-! DEFINITION. The commands of the part: one constructor per row of spec/opcode_table.json, with its operands. -/

namespace Sys2Proof

/-- What one slot of a highway carries in one direction in one frame (R27). -/
structure Signal where
  sample : Byte
  code   : Code
deriving DecidableEq, Repr

/-- The 256 slots of one highway in one direction in one frame, listed by slot number. A slot that is not listed
carries the code 255 with supervision 0. DESIGN CHOICE (log 17): a way of writing the operand. -/
abbrev Highway := List (Nat × Signal)

/-- A work that a frame does by itself: the boundary counts (R4), the idle-qualify test of a circuit (R70), the path
selection of a slot with its quiet-run update (R34, R76), the build of the frame's row (R111), the filling of the service
place (R118). -/
inductive Work where
  | boundary
  | idle (circuit : Nat)
  | slot (circuit : Nat)
  | build
  | service
deriving DecidableEq, Repr

/-- Which of a frame's own works come before (or, for the boundary, after) the frame's other commands.
The manual lets either be taken first (R52, R70, R78, R88, R113, R118, R125), so the sender says (log 4).
With every flag clear the boundary is counted when the frame begins and the rest is done when the frame is closed. A work
that comes between two commands of the frame is one of `between`. -/
structure FrameOrder where
  /-- The cycle boundary is counted after the frame's other commands (R52, R125). -/
  boundaryLast : Bool
  /-- The idle-qualify test is made before them (R70). -/
  idleFirst    : Bool
  /-- The path selection and the quiet-run update are made before them (R78), but for the slots that play fibre, whose
  read finds the frame's cells in the buffer (R47). -/
  selectFirst  : Bool
  /-- The bearer cells are built before them (R113). -/
  buildFirst   : Bool
  /-- The service place is filled before them (R118). -/
  serviceFirst : Bool
  /-- The due events and the waiting orders that no command takes come after the path selection, not before it
  (R78, R88). -/
  eventsLast   : Bool
  /-- Works done among the frame's other commands, in this order: one at each step that finds no command waiting
  (log 39). -/
  between      : List Work
deriving DecidableEq, Repr

/-- The frame's works in their usual order. -/
def FrameOrder.usual : FrameOrder := ⟨false, false, false, false, false, false, []⟩

/-- The commands. An order that is taken has no operand here: it is the order at the head of the order queue (R141). -/
inductive Instr where
  /-- POWER_ON (R132). -/
  | powerOn
  /-- RESET_PIN (R132): the pin is asserted. -/
  | resetPin
  /-- FRAME_MARKER (R28): the signals from the switch and from the copper carrier in the frame that begins, and the
  straps as they read in it (R133). -/
  | frameMarker (switchIn legacyIn : Highway) (straps : BitVec 4) (order : FrameOrder)
  /-- MISSED_FRAME_MARKER (R29): the signals in the flywheel frame that begins. -/
  | missedFrameMarker (switchIn legacyIn : Highway) (order : FrameOrder)
  /-- TIMING_LOSS (R29). -/
  | timingLoss
  /-- BOOT_READ_COMPLETE (R134): the bytes the boot memory holds from address 0. -/
  | bootReadComplete (record : List Byte)
  /-- LISTENING_END (R138). -/
  | listeningEnd
  /-- BEARER_CELL (R128): the lane it came on and the bytes of its place. -/
  | bearerCell (lane : Nat) (place : List Byte)
  /-- BEACON (R124). -/
  | beacon (lane : Nat) (place : List Byte)
  /-- ORDER_CELL (R121). -/
  | orderCell (lane : Nat) (place : List Byte)
  /-- REPLY_CELL (R119). -/
  | replyCell (lane : Nat) (place : List Byte)
  /-- WINDOW_JUDGEMENT (R61): the circuit whose window has reached its judging frame. -/
  | windowJudgement (circuit : Nat)
  /-- ALIGNMENT_TIMEOUT (R14). -/
  | alignmentTimeout (circuit : Nat)
  /-- BRIDGE_IDLE_WATCHDOG (R15). -/
  | bridgeIdleWatchdog (circuit : Nat)
  /-- STREAM_LOSS (R21). -/
  | streamLoss (circuit : Nat)
  /-- PEER_HOLD_EXPIRY (R26). -/
  | peerHoldExpiry (circuit : Nat)
  /-- HOLD_EXPIRY (R97). -/
  | holdExpiry (circuit : Nat)
  /-- SETTLE_EXPIRY (R97). -/
  | settleExpiry (circuit : Nat)
  /-- GUARD_END (R40). -/
  | guardEnd (circuit : Nat)
  /-- FILL_END (R36). -/
  | fillEnd (circuit : Nat)
  /-- PEER_LOSS (R125): the peer station. -/
  | peerLoss (station : Nat)
  /-- QUIET_RUN_SPLICE (R78). -/
  | quietRunSplice (circuit : Nat)
  /-- QUIET_RUN_REVERSE_SPLICE (R88). -/
  | quietRunReverseSplice (circuit : Nat)
  /-- LAST_RELEASE_CELL (R114). -/
  | lastReleaseCell (circuit : Nat)
  /-- CUT (R145): the order at the head of the order queue is taken, and it is a CUT. -/
  | cut
  /-- REVERT (R146), naming a circuit, a window or all. -/
  | revert
  /-- REVERT_LAST (R104). -/
  | revertLast
  /-- FORCE (R147). -/
  | force
  /-- COMMIT (R147). -/
  | commit
  /-- PAUSE (R148). -/
  | pause
  /-- RESUME (R148). -/
  | resume
  /-- QUERY_CIRCUIT (R150). -/
  | queryCircuit
  /-- QUERY_STATION (R151). -/
  | queryStation
  /-- TAKE_REPORTS (R156). -/
  | takeReports
  /-- RESTART (R149). -/
  | restart
  /-- ORDER_START (R149): the lane frame with the RESTART reply has been sent. -/
  | orderStart
  /-- RESET_PIN_RELEASE (R132). -/
  | resetPinRelease
deriving DecidableEq, Repr

end Sys2Proof
end

