-- ==== Sys2Proof/WellFormed.lean ====
section
/-! DEFINITION. Which operands the spec admits. The meanings are total: a command outside these checks names a circuit,
a station or a slot that the part does not have, and changes nothing there. -/

namespace Sys2Proof

/-- The circuits are numbered 0..255 (R2). -/
def circuitOk (c : Nat) : Bool := decide (c < 256)

/-- The stations on a star are numbered 0..14, and so are the lanes (R117). -/
def stationOk (p : Nat) : Bool := decide (p < 15)

/-- A highway has slots 0..255, each listed at most once (R27). -/
def Highway.ok (h : Highway) : Bool :=
  h.all (fun e => decide (e.1 < 256)) && decide ((h.map Prod.fst).Nodup)

/-- A bearer place has 46 bytes (12, section 12.1). -/
def bearerPlaceOk (bs : List Byte) : Bool := decide (bs.length = 46)

/-- The service place has 68 bytes (12, section 12.1). -/
def servicePlaceOk (bs : List Byte) : Bool := decide (bs.length = 68)

/-- The boot record is 68 bytes; the read may stop earlier (R134). -/
def bootRecordOk (bs : List Byte) : Bool := decide (bs.length ≤ 68)

/-- A work that belongs to a circuit names one of the 256 (R2). -/
def Work.ok : Work → Bool
  | .boundary => true
  | .idle c => circuitOk c
  | .slot c => circuitOk c
  | .build => true
  | .service => true

/-- The works a frame order puts among the commands are works of circuits that the part has. -/
def FrameOrder.ok (o : FrameOrder) : Bool := o.between.all Work.ok

/-- The checks on a command's operands. -/
def Instr.wellFormed : Instr → Bool
  | .powerOn => true
  | .resetPin => true
  | .frameMarker sw lg _ o => Highway.ok sw && Highway.ok lg && o.ok
  | .missedFrameMarker sw lg o => Highway.ok sw && Highway.ok lg && o.ok
  | .timingLoss => true
  | .bootReadComplete r => bootRecordOk r
  | .listeningEnd => true
  | .bearerCell l p => stationOk l && bearerPlaceOk p
  | .beacon l p => stationOk l && servicePlaceOk p
  | .orderCell l p => stationOk l && servicePlaceOk p
  | .replyCell l p => stationOk l && servicePlaceOk p
  | .windowJudgement c => circuitOk c
  | .alignmentTimeout c => circuitOk c
  | .bridgeIdleWatchdog c => circuitOk c
  | .streamLoss c => circuitOk c
  | .peerHoldExpiry c => circuitOk c
  | .holdExpiry c => circuitOk c
  | .settleExpiry c => circuitOk c
  | .guardEnd c => circuitOk c
  | .fillEnd c => circuitOk c
  | .peerLoss p => stationOk p
  | .quietRunSplice c => circuitOk c
  | .quietRunReverseSplice c => circuitOk c
  | .lastReleaseCell c => circuitOk c
  | .cut => true
  | .revert => true
  | .revertLast => true
  | .force => true
  | .commit => true
  | .pause => true
  | .resume => true
  | .queryCircuit => true
  | .queryStation => true
  | .takeReports => true
  | .restart => true
  | .orderStart => true
  | .resetPinRelease => true

end Sys2Proof
end

