-- ==== Sys2Proof/Decode.lean ====
section
/-! DEFINITION. The words of the opcode table. spec/opcode_table.json gives its rows no bits (every "fields" list is
empty), so no word spells a command (log 25). -/

namespace Sys2Proof

/-- The command that the low `nbits` bits of a word spell: none, for every word. -/
def decodeTableWord (_nbits _w : Nat) : Option Instr := none

end Sys2Proof
end

