-- ==== Sys2Proof/Machine/Bits.lean ====
section
/-! DEFINITION. Bytes and fields of the layouts (R157), the check codes (R158), modular differences and counts that stop at
their largest value. -/

namespace Sys2Proof.Machine

/-- Byte `i` of a place; the bytes after the listed ones are zeros (12, section 12.1). -/
def byteAt (bs : List Byte) (i : Nat) : Byte := bs.getD i 0

/-- A multi-byte field, most significant byte first (R157). -/
def be : Nat → Nat → List Byte
  | 0, _ => []
  | n + 1, v => BitVec.ofNat 8 (v / 256 ^ n) :: be n v

/-- The `n`-byte field that starts at byte `i` (R157). -/
def fieldAt (bs : List Byte) (i n : Nat) : Nat :=
  (List.range n).foldl (fun v k => v * 256 + (byteAt bs (i + k)).toNat) 0

/-- Bits 3..0 and bits 7..4 of a byte. -/
def lowNibble (b : Byte) : Nat := b.toNat % 16
def highNibble (b : Byte) : Nat := b.toNat / 16

/-- Bit `i` of a byte. -/
def bitOf (b : Byte) (i : Nat) : Bool := b.getLsbD i

/-- A byte with one bit for each listed flag, from bit 7 downward (R160). -/
def flagByte (fs : List Bool) : Byte :=
  (fs.take 8).zipIdx.foldl (fun b f => if f.1 then b ||| (0x80#8 >>> f.2) else b) 0

/-- `n` presence bytes, one bit for each optional item in item order (R160). -/
def presenceBytes : Nat → List Bool → List Byte
  | 0, _ => []
  | n + 1, fs => flagByte fs :: presenceBytes n (fs.drop 8)

/-- Followed by zeros up to `n` bytes (12, section 12.1). -/
def padTo (n : Nat) (bs : List Byte) : List Byte := bs ++ List.replicate (n - bs.length) 0

/-- One bit of the CRC-8 with generator x^8 + x^2 + x + 1 (R158). -/
def crc8Bit (c : Byte) : Byte := if c.msb then (c <<< 1) ^^^ 0x07 else c <<< 1

/-- One bit of the CRC-16 with generator x^16 + x^12 + x^5 + 1 (R158). -/
def crc16Bit (c : Word) : Word := if c.msb then (c <<< 1) ^^^ 0x1021 else c <<< 1

/-- `f` applied `n` times. -/
def repeatN {α : Type} (f : α → α) : Nat → α → α
  | 0, a => a
  | n + 1, a => repeatN f n (f a)

/-- R158: initial value 0, most significant bit first, no inversion. -/
def crc8 (bs : List Byte) : Byte := bs.foldl (fun c b => repeatN crc8Bit 8 (c ^^^ b)) 0

/-- R158: initial value all ones, most significant bit first, no inversion. -/
def crc16 (bs : List Byte) : Word :=
  bs.foldl (fun (c : Word) (b : Byte) => repeatN crc16Bit 8 (c ^^^ BitVec.ofNat 16 (b.toNat * 256))) 0xFFFF

/-- `n` bytes of `bs` from byte `i`, with zeros after the listed ones. -/
def bytesFrom (bs : List Byte) (i n : Nat) : List Byte := (List.range n).map (fun k => byteAt bs (i + k))

/-- A difference of two counts or offsets, read as a signed value (00, section 4.3). -/
def diff (a b : Word) : Int := (a - b).toInt

/-- One more, stopping at `limit` (00, section 4.5). -/
def countUp (limit n : Nat) : Nat := min (n + 1) limit

/-- Cycle position of a frame (R28). -/
def cyclePos (f : Word) : Nat := f.toNat % 40

end Sys2Proof.Machine
end

