-- ==== Sys2Proof/Config.lean ====
section
/-! DEFINITION. The sizes the part fixes (00, Table 4.1) and the values the manual leaves open. -/

namespace Sys2Proof.Config

/-- FREE VALUE (log 10): the payload of a reply that refuses an order with NOT_CONFIGURED or BAD_OPERAND, which the manual
does not state. It is applied to the count of free values used so far, so nothing ties two of them together. -/
opaque freePayload : Nat → List Byte

/-- FREE VALUE (log 11): a one-byte count of 256 circuits in a group reply, which the manual does not state. -/
opaque freeByte : Nat → Byte

/-- Each implementation's own, and a FREE VALUE (log 38): whether the cell that returns a circuit from HELD to COMMITTED is
itself taken as a probe window. R60 takes it and R68 begins with the next cell. -/
opaque returningCellIsWindow : Bool

/-- Circuits, one per slot. -/
abbrev circuits : Nat := 256
/-- Rows of the emission calendar. -/
abbrev calendarRows : Nat := 40
/-- Places in a row. -/
abbrev rowPlaces : Nat := 6
/-- Samples of a bearer cell. -/
abbrev cellSamples : Nat := 40
/-- Entries of the arrival-offset ring. -/
abbrev ringEntries : Nat := 16
/-- Entries of a judging list. -/
abbrev judgingEntries : Nat := 16
/-- Records of the fallback list. -/
abbrev fallbackRecords : Nat := 8
/-- Orders of the order queue. -/
abbrev orderPlaces : Nat := 4
/-- Replies of the reply queue. -/
abbrev replyPlaces : Nat := 8
/-- Reports of the report queue. -/
abbrev reportPlaces : Nat := 64
/-- Release cells after leaving fibre. -/
abbrev releaseCount : Nat := 4
/-- Concealed frames in which the last sample is repeated. -/
abbrev concealLimit : Nat := 40
/-- Missed beacons to declare a peer lost. -/
abbrev missedBeacons : Nat := 4
/-- Missing markers to declare timing loss. -/
abbrev missedMarkers : Nat := 16
/-- Positions of the search domain. -/
abbrev domainSize : Nat := 449

end Sys2Proof.Config
end

