-- ==== Sys2Proof/Machine/Table.lean ====
section
/-! DEFINITION. Sparse stores: a list of (address, entry) pairs in one canonical form, addresses strictly rising and no
entry equal to what an unlisted address reads as. The sample stores, the circuit table, the peer table and the calendar
are held so, each with the start value the spec gives as what an unlisted address reads as. -/

namespace Sys2Proof.Machine

abbrev Table (α : Type) := List (Nat × α)

/-- The entry at address `j`; `d` is what an unlisted address reads as. -/
def Table.read {α : Type} (d : α) : Table α → Nat → α
  | [], _ => d
  | e :: r, j => if j = e.1 then e.2 else Table.read d r j

/-- Without the entry at `k`. -/
def Table.erase {α : Type} (t : Table α) (k : Nat) : Table α := t.filter (fun e => !decide (e.1 = k))

/-- An entry put in its place by address. -/
def Table.place {α : Type} (k : Nat) (v : α) : Table α → Table α
  | [] => [(k, v)]
  | e :: r => if k < e.1 then (k, v) :: e :: r else e :: Table.place k v r

/-- The store with `v` written at `k`; writing what an unlisted address reads as removes the entry. -/
def Table.write {α : Type} [DecidableEq α] (d : α) (t : Table α) (k : Nat) (v : α) : Table α :=
  if v = d then Table.erase t k else Table.place k v (Table.erase t k)

/-- The store that holds `f k` at each address below `n`. -/
def Table.build {α : Type} [DecidableEq α] (d : α) (n : Nat) (f : Nat → α) : Table α :=
  (List.range n).filterMap (fun k => let v := f k; if v = d then none else some (k, v))

/-- The store with every listed entry changed by `f`. -/
def Table.mapEntries {α : Type} [DecidableEq α] (d : α) (f : α → α) (t : Table α) : Table α :=
  t.filterMap (fun e => let v := f e.2; if v = d then none else some (e.1, v))

/-- Addresses strictly rising. -/
def Table.rising {α : Type} : Table α → Bool
  | [] => true
  | [_] => true
  | e :: e' :: r => decide (e.1 < e'.1) && Table.rising (e' :: r)

/-- The canonical form. -/
def Table.wf {α : Type} [DecidableEq α] (d : α) (t : Table α) : Bool :=
  Table.rising t && t.all (fun e => !decide (e.2 = d))

end Sys2Proof.Machine
end

