-- ==== Sys2Proof/Machine/Records.lean ====
section
/-! DEFINITION. The names and records the manual gives: states, phases, kinds, the circuit record, the fallback record,
the peer entry, the window, orders, replies and reports. -/

namespace Sys2Proof.Machine

/-- Station states (Table 9.1). -/
inductive StationState where
  | reset | loading | offStar | configBad | listening | operating
deriving DecidableEq, Repr

/-- Start causes (R132). -/
inductive StartCause where
  | power | pin | order | timing
deriving DecidableEq, Repr

/-- Configuration faults (R134). -/
inductive ConfigFault where
  | noMemory | unknownVersion | checkFailed
deriving DecidableEq, Repr

/-- Circuit states (Table 1.2). -/
inductive CircuitState where
  | vacant | copper | bridging | aligned | splicePending | spliceWait | spliced | revertWait | committed | held | down
deriving DecidableEq, Repr

/-- Cutover phases a cell announces (R7); NONE is an absent phase. -/
inductive Phase where
  | bridging | aligned | spliced | reverting | committed | release
deriving DecidableEq, Repr

/-- Splice kinds (Table 5.1). -/
inductive SpliceKind where
  | seamless | quiet | forced | idle
deriving DecidableEq, Repr

/-- Reverse splice kinds (R20). -/
inductive ReverseKind where
  | planned | forced | urgent
deriving DecidableEq, Repr

/-- The last splice kind field (R2). -/
inductive LastKind where
  | splice (k : SpliceKind)
  | reverse (k : ReverseKind)
deriving DecidableEq, Repr

/-- Companding laws (R30). -/
inductive Law where
  | mu | a
deriving DecidableEq, Repr

/-- Fallback policies (R92). -/
inductive Policy where
  | hold | roll
deriving DecidableEq, Repr

/-- Sources of the receive sample (02, section 2.4). FIBRE carries the playout offset of the frame, so that a change of
state within the frame does not move the frame's source (R6, R34). -/
inductive Source where
  | copper
  | fibre (offset : Word)
  | fill
  | holdover
  | outOfService
deriving DecidableEq, Repr

/-- Report kinds, in the order of Table 11.1. -/
inductive ReportKind where
  | started | peerLost | peerBack | peerRestart | aligned | alignTimeout | alignLost | bridgeIdle | delayExcess
  | spliced | reverted | committed | forcedCommit | legacyReleased | held | down | laneFull | mismatch
deriving DecidableEq, Repr

/-- The variant of a report (R152). -/
inductive ReportVariant where
  | start (c : StartCause)
  | splice (k : SpliceKind)
  | reverse (k : ReverseKind)
deriving DecidableEq, Repr

/-- The flags of the last splice or reverse splice (R77, R86, R87). -/
structure SpliceFlags where
  lostActivity : Bool
  blind        : Bool
  activityGap  : Bool
deriving DecidableEq, Repr

/-- A report (R152). `time` is the low 32 bits of the cycle count. -/
structure Report where
  kind    : ReportKind
  circuit : Option Nat
  station : Option Nat
  time    : Nat
  variant : Option ReportVariant
  detail  : Option Nat
  flags   : SpliceFlags
deriving DecidableEq, Repr

/-- The binding of a circuit (R1). -/
structure Binding where
  window  : Nat
  peer    : Nat
  circuit : Nat
deriving DecidableEq, Repr

/-- A candidate set: all 449 domain positions, or the listed ones in rising order (R59). A list of all 449 is written
`whole` (`Candidates.ofList`), so that equal sets are equal data. -/
inductive Candidates where
  | whole
  | positions (ks : List Nat)
deriving DecidableEq, Repr

/-- An entry of the judging list (R57). -/
structure JudgeEntry where
  ssn   : Word
  frame : Word
deriving DecidableEq, Repr

/-- What the alignment unit holds for a circuit (R57). -/
structure AlignItems where
  obase        : Option Word
  candidates   : Candidates
  contributing : Nat
  /-- The alignment offset O. -/
  offset       : Option Word
  verifyMiss   : Nat
  idleQualify  : Nat
  judging      : List JudgeEntry
deriving DecidableEq, Repr

/-- The fill frames of a splice: `count` frames from frame `start`, which is P (R36). -/
structure FillRun where
  start : Word
  count : Nat
deriving DecidableEq, Repr

/-- What the splice unit holds for a circuit (R77, R82). -/
structure SpliceItems where
  /-- The playout offset O′. -/
  playOffset  : Option Word
  /-- The deficit D. -/
  deficit     : Option Nat
  lastKind    : Option LastKind
  flags       : SpliceFlags
  quietRun    : Nat
  /-- The fill frames handed to the path selector, until FILL_END. -/
  fill        : Option FillRun
  /-- The next frame is a splice frame P or a reverse splice frame Q. -/
  switchPoint : Bool
  /-- An entry to DOWN has cancelled the guard that the next frame would start (R41; log 33). -/
  guardOff    : Bool
  /-- This frame's update of the quiet-run count found Qmin in SPLICE_WAIT or REVERT_WAIT (R78, R88). -/
  ripe        : Bool
deriving DecidableEq, Repr

/-- A signalling guard that runs (R39): guard remaining and the frozen code. -/
structure Guard where
  left   : Nat
  frozen : Code
deriving DecidableEq, Repr

/-- The six per-circuit counters (R2, R56). -/
structure Counters where
  received   : Nat
  late       : Nat
  early      : Nat
  concealed  : Nat
  mismatches : Nat
  fills      : Nat
deriving DecidableEq, Repr

/-- What the path selector and the legacy port hold for a slot (R53). -/
structure PathItems where
  lastSample : Byte
  runCount   : Nat
  /-- The source of the open frame. -/
  source     : Source
  /-- The slot's sample of the open frame has been given. -/
  given      : Bool
  /-- The receive signal last given to the switch. -/
  rx         : Signal
  /-- The signal last sent on the copper carrier. -/
  tx         : Signal
deriving DecidableEq, Repr

/-- A playout position (R46). -/
structure PlayoutEntry where
  sample : Byte
  tag    : Option Word
  code   : Code
deriving DecidableEq, Repr

/-- A circuit record (Table 1.1) with the items the units keep for the circuit's slot. Its number is its place in the
circuit table. -/
structure Circuit where
  state          : CircuitState
  binding        : Option Binding
  legacyReleased : Bool
  peerPhase      : Option Phase
  align          : AlignItems
  ring           : List Word
  splice         : SpliceItems
  copperCode     : Code
  fibreCode      : Code
  deliveredCode  : Code
  guard          : Option Guard
  stateTimer     : Nat
  silence        : Nat
  deferredRevert : Bool
  releaseCells   : Nat
  calendarRow    : Option Nat
  lastReported   : Option ReportKind
  counters       : Counters
  path           : PathItems
  /-- The capture line, oldest sample first (R110). -/
  capture        : List Byte
  captureCode    : Code
  /-- The copper history, by frame modulo 512 (R55). -/
  history        : Table Byte
  /-- The playout buffer, by SSN modulo 512 (R46). -/
  playout        : Table PlayoutEntry
deriving DecidableEq, Repr

/-- What a LIVE record holds (R92). `fresh` says that it became LIVE in the open frame, whose boundary it does not count
(R97). -/
structure LiveFields where
  frame  : Word
  settle : Nat
  hold   : Option Nat
  fresh  : Bool
deriving DecidableEq, Repr

/-- A fallback record: PENDING while `live` is absent (R92). -/
structure FallbackRecord where
  circuit : Nat
  live    : Option LiveFields
deriving DecidableEq, Repr

/-- Peer-table states (R123). -/
inductive PeerState where
  | absent | present | lost
deriving DecidableEq, Repr

/-- An entry of a window digest (R122). -/
structure DigestEntry where
  valid     : Bool
  peer      : Nat
  localBase : Nat
  peerBase  : Nat
  length    : Nat
deriving DecidableEq, Repr

/-- A peer-table entry (R123). -/
structure PeerEntry where
  state        : PeerState
  miss         : Nat
  heard        : Bool
  cycles       : Option Nat
  digest       : Option (List DigestEntry)
  unbound      : Nat
  headerErrors : Nat
deriving DecidableEq, Repr

/-- A window's validity, with its reason (R136). -/
inductive Validity where
  | valid | notLoaded | notEnabled | localRange | peerRange | peerNumber | localOverlap | peerOverlap
deriving DecidableEq, Repr

/-- A window (R131, R136). -/
structure Window where
  enabled   : Bool
  peer      : Nat
  localBase : Nat
  peerBase  : Nat
  length    : Nat
  validity  : Validity
  matched   : Bool
deriving DecidableEq, Repr

/-- The twelve timing parameters (Table 4.2). -/
inductive Param where
  | guard | dmax | qmin | threshold | alignTimeout | bridgeIdle | streamLoss | spliceHold | settle | sigGuard
  | idleQualify | peerHold
deriving DecidableEq, Repr

/-- An item of the list of clamped items (R135, Table 12.10). -/
inductive ClampItem where
  | param (p : Param)
  | settleRaised
  | policyCode
  | lawCode
deriving DecidableEq, Repr

/-- The parameters in force: samples, an index, or whole cycles (R135). -/
structure Params where
  guard        : Nat
  dmax         : Nat
  qmin         : Nat
  threshold    : Nat
  alignTimeout : Nat
  bridgeIdle   : Nat
  streamLoss   : Nat
  spliceHold   : Nat
  settle       : Nat
  sigGuard     : Nat
  idleQualify  : Nat
  peerHold     : Nat
deriving DecidableEq, Repr

/-- The boot-record settings in force (Table 9.2). -/
structure Settings where
  law        : Law
  idleCode   : Code
  oosCode    : Code
  acceptMask : Word
  policy     : Policy
  params     : Params
deriving DecidableEq, Repr

/-- An order as its cell carries it (R140, 12 section 12.1). -/
structure Order where
  source  : Nat
  tag     : Byte
  value   : Nat
  kind    : Nat
  operand : Nat
  segment : Nat
deriving DecidableEq, Repr

/-- Reply outcomes (R142). -/
inductive ReplyOutcome where
  | done | partialDone | refused
deriving DecidableEq, Repr

/-- Reply reasons, in the order of the reason table (R142). -/
inductive Reason where
  | notConfigured | notReady | notBound | mismatch | peerAbsent | laneFull | busy | wrongState | noFallback | badOperand
deriving DecidableEq, Repr

/-- A reply (R142). -/
structure Reply where
  addressee : Nat
  tag       : Byte
  value     : Nat
  outcome   : ReplyOutcome
  reason    : Option Reason
  payload   : List Byte
deriving DecidableEq, Repr

/-- The rows of the opcode table that take an order. -/
inductive OrderRow where
  | cut | revert | revertLast | force | commit | pause | resume | queryCircuit | queryStation | takeReports | restart
deriving DecidableEq, Repr

/-- What an order's action answers: the reply's outcome, reason and payload. -/
structure Answer where
  outcome : ReplyOutcome
  reason  : Option Reason
  payload : List Byte
deriving DecidableEq, Repr

/-- The works of the open frame that are still to be done (log 4). -/
structure FrameTodo where
  boundary : Bool
  idle     : Bool
  select   : Bool
  build    : Bool
  service  : Bool
  /-- The due events come after the path selection. -/
  late     : Bool
  /-- Circuits whose idle-qualify test has been made (R70). -/
  tested   : List Nat
  /-- Works to be done among the frame's other commands (log 39). -/
  between  : List Work
deriving DecidableEq, Repr

/-- What the service place of the open frame carries (R118). -/
inductive ServicePlace where
  | empty
  | beacon (bytes : List Byte)
  | reply (r : Reply)
deriving DecidableEq, Repr

/-- A lane frame as sent: six bearer places of 46 bytes and the service place of 68 (12, section 12.1). -/
structure LaneFrame where
  bearer  : List (List Byte)
  service : List Byte
deriving DecidableEq, Repr

/-- The circuits and what the controller, the alignment, splice and fallback list units, the calendar and the report
queue hold for them: everything a change of a circuit's state can reach. -/
structure Trunk where
  circuits       : Table Circuit
  fallback       : List FallbackRecord
  /-- The splice wait queue, head first (R99). -/
  waitQueue      : List Nat
  /-- The emission calendar, by row (R106). -/
  calendar       : Table (List Nat)
  reports        : List Report
  reportOverflow : Nat
deriving DecidableEq, Repr

/-- What the trunk's rules read of the rest of the station: the frame, the settings in force, the tables of windows and
peers, the pause flag and the signals of the open frame. -/
structure Ctx where
  frame     : Word
  cycles    : Nat
  station   : StationState
  settings  : Settings
  windows   : List Window
  peers     : Table PeerEntry
  paused    : Bool
  switchIn  : Highway
  legacyIn  : Highway
  /-- The open frame is a cycle boundary and its boundary has been counted. -/
  counted   : Bool
deriving DecidableEq, Repr

end Sys2Proof.Machine
end

