-- ==== Sys2Proof/Machine/Flags.lean ====
section
/-! DEFINITION. Loudness: the magnitude index, quiet and active samples, the idle code (R30, R31). -/

namespace Sys2Proof.Machine

/-- The magnitude index of a code (R30). -/
def magnitude : Law → Byte → Nat
  | .mu, b => if b.toNat < 128 then 127 - b.toNat else 255 - b.toNat
  | .a, b => (b ^^^ 0x55).toNat % 128

/-- The idle code of a law (R30), which is the fill sample (R31). -/
def idleCodeOf : Law → Byte
  | .mu => 255
  | .a => 213

/-- A sample is active when its index is above the quiet threshold, and quiet otherwise (R31). -/
def isActive (st : Settings) (b : Byte) : Bool := decide (st.params.threshold < magnitude st.law b)

/-- The station states in which every slot passes through (R33). -/
def StationState.passes : StationState → Bool
  | .reset | .loading | .offStar | .configBad => true
  | .listening | .operating => false

/-- The station states in which lane frames are sent, cells are taken and orders are taken (R117, R119, R143). -/
def StationState.onStar : StationState → Bool
  | .configBad | .listening | .operating => true
  | .reset | .loading | .offStar => false

/-- The states before the splice that hold a bridge (01, section 1.4). -/
def CircuitState.beforeSplice : CircuitState → Bool
  | .bridging | .aligned | .splicePending | .spliceWait => true
  | _ => false

/-- The states whose source is FIBRE (R34). -/
def CircuitState.onFibre : CircuitState → Bool
  | .spliced | .revertWait | .committed => true
  | _ => false

/-- The states in which the legacy-released flag may stay set (R22). -/
def CircuitState.keepsRelease : CircuitState → Bool
  | .committed | .held | .down => true
  | _ => false

/-- The states in which silence is counted: BRIDGING through HELD (R4). -/
def CircuitState.countsSilence (st : CircuitState) : Bool := st.beforeSplice || st.onFibre || st == .held

/-- The phase announced in each state, NONE where no cell is sent (Table 1.2). COPPER announces RELEASE while release
cells remain. -/
def CircuitState.announces : CircuitState → Option Phase
  | .vacant | .down => none
  | .copper => some .release
  | .bridging => some .bridging
  | .aligned | .splicePending | .spliceWait => some .aligned
  | .spliced => some .spliced
  | .revertWait => some .reverting
  | .committed | .held => some .committed

/-- The phases that start a follow (R10). -/
def Phase.startsFollow : Phase → Bool
  | .release => false
  | _ => true

/-- The phases that start a re-bridge (R25). -/
def Phase.startsBridge : Phase → Bool
  | .bridging | .aligned => true
  | _ => false

end Sys2Proof.Machine
end

