-- ==== Sys2Proof/Machine/StartValues.lean ====
section
/-! DEFINITION. The value each item takes at a start (R3, Table 9.2), and what the addressed stores read before they are
written. -/

namespace Sys2Proof.Machine

/-- The mu-law idle code, which the stores hold after a start (R46, R53, R55, R110). -/
def startSample : Byte := 255

/-- A slot that nothing has driven yet. DESIGN CHOICE (log 16, 17). -/
def idleSignal : Signal := ⟨255, 0⟩

/-- A playout position after a start (R46). -/
def PlayoutEntry.start : PlayoutEntry := ⟨255, none, 0⟩

/-- R57, R3. -/
def AlignItems.start : AlignItems := ⟨none, .whole, 0, none, 0, 0, []⟩

def SpliceFlags.clear : SpliceFlags := ⟨false, false, false⟩

/-- R3. -/
def SpliceItems.start : SpliceItems := ⟨none, none, none, .clear, 0, none, false, false, false⟩

def Counters.zero : Counters := ⟨0, 0, 0, 0, 0, 0⟩

/-- R53; the two signals are DESIGN CHOICE (log 16). -/
def PathItems.start : PathItems := ⟨255, 0, .copper, false, idleSignal, idleSignal⟩

/-- A circuit record after a start (R3): no window binds it before the end of LOADING, so it is VACANT. -/
def Circuit.start : Circuit where
  state := .vacant
  binding := none
  legacyReleased := false
  peerPhase := none
  align := .start
  ring := []
  splice := .start
  copperCode := 0
  fibreCode := 0
  deliveredCode := 0
  guard := none
  stateTimer := 0
  silence := 0
  deferredRevert := false
  releaseCells := 0
  calendarRow := none
  lastReported := none
  counters := .zero
  path := .start
  capture := List.replicate 40 255
  captureCode := 0
  history := []
  playout := []

/-- A peer-table entry after a start (R123). -/
def PeerEntry.start : PeerEntry := ⟨.absent, 0, false, none, none, 0, 0⟩

/-- A window after a start (Table 9.2). Its bases, peer and length are DESIGN CHOICE (log 15). -/
def Window.start : Window := ⟨false, 0, 0, 0, 1, .notLoaded, false⟩

/-- The defaults of Table 4.2 in samples, index and whole cycles of 5 ms (R135). -/
def Params.start : Params where
  guard := 16
  dmax := 160
  qmin := 80
  threshold := 24
  alignTimeout := 2000
  bridgeIdle := 40
  streamLoss := 4
  spliceHold := 400
  settle := 12000
  sigGuard := 8
  idleQualify := 100
  peerHold := 400

/-- All 15 stations (R120). -/
def allStations : Word := 0x7FFF

/-- Table 9.2. -/
def Settings.start : Settings := ⟨.mu, 0, 15, allStations, .hold, .start⟩

/-- The STARTED report (R155). -/
def startedReport (cause : StartCause) : Report := ⟨.started, none, none, 0, some (.start cause), none, .clear⟩

/-- R3, R92, R106, R155. -/
def Trunk.start (cause : StartCause) : Trunk := ⟨[], [], [], [], [startedReport cause], 0⟩

/-- No work of a frame to do. -/
def FrameTodo.none : FrameTodo := ⟨false, false, false, false, false, false, [], []⟩

end Sys2Proof.Machine
end

