-- ==== Sys2Proof/Machine/Samples.lean ====
section
/-! DEFINITION. The sample stores, the arrival-offset ring and the leads: playout buffer (R46, R47), copper history (R55),
capture line (R110), ring (R45), lead statistics (R73). -/

namespace Sys2Proof.Machine

/-- What slot `c` of a highway carries; a slot not listed carries `idleSignal`. -/
def slotOf (h : Highway) (c : Nat) : Signal :=
  match h.find? (fun e => decide (e.1 = c)) with
  | some e => e.2
  | none => idleSignal

/-- The place of an SSN or of a frame in a store of 512 (R46, R55). -/
def place512 (w : Word) : Nat := w.toNat % 512

/-- The playout position at which the sample of SSN `t` belongs (R46). -/
def Circuit.positionOf (r : Circuit) (t : Word) : PlayoutEntry := Table.read PlayoutEntry.start r.playout (place512 t)

/-- The sample of SSN `t`, when it is present in the buffer (R46). -/
def Circuit.playoutAt (r : Circuit) (t : Word) : Option Byte :=
  let e := r.positionOf t
  if e.tag = some t then some e.sample else none

/-- The copper sample the history holds at frame `f`'s position (R55). -/
def Circuit.historyAt (r : Circuit) (f : Word) : Byte := Table.read startSample r.history (place512 f)

/-- R55: the copper sample of frame `f` is written into the history. -/
def Circuit.writeHistory (f : Word) (b : Byte) (r : Circuit) : Circuit :=
  { r with history := Table.write startSample r.history (place512 f) b }

/-- One playout position written (R47). -/
def writePlayout (p : Table PlayoutEntry) (t : Word) (b : Byte) (code : Code) : Table PlayoutEntry :=
  Table.write PlayoutEntry.start p (place512 t) ⟨b, some t, code⟩

/-- R47: samples written from SSN `s` on, in SSN order. -/
def writeCell (code : Code) : Table PlayoutEntry → Word → List Byte → Table PlayoutEntry
  | p, _, [] => p
  | p, s, b :: bs => writeCell code (writePlayout p s b code) (s + 1) bs

/-- R46: every tag marked absent; samples and codes stay. -/
def Circuit.clearTags (r : Circuit) : Circuit :=
  { r with playout := Table.mapEntries PlayoutEntry.start (fun e => { e with tag := none }) r.playout }

/-- R45: the ring with `r` pushed as its newest entry, the oldest leaving a full ring. -/
def pushRing (ring : List Word) (r : Word) : List Word :=
  if ring.length < Config.ringEntries then ring ++ [r] else ring.drop 1 ++ [r]

/-- The smallest lead of a ring at offset `x`, absent for an empty ring (R73). -/
def leadMin (x : Word) : List Word → Option Int
  | [] => none
  | e :: es =>
    match leadMin x es with
    | none => some (diff x e)
    | some m => some (min (diff x e) m)

/-- The largest lead of a ring at offset `x`, absent for an empty ring (R73). -/
def leadMax (x : Word) : List Word → Option Int
  | [] => none
  | e :: es =>
    match leadMax x es with
    | none => some (diff x e)
    | some m => some (max (diff x e) m)

/-- The deficit D by R74: the least fill that makes the smallest lead at O plus D reach the guard. Absent without O or
with an empty ring, which no circuit that is evaluated has (log 32). -/
def Circuit.deficitNow (p : Params) (r : Circuit) : Option Nat :=
  match r.align.offset with
  | none => none
  | some o =>
    match leadMin o r.ring with
    | none => none
    | some m => some ((p.guard : Int) - m).toNat

/-- R110: the newest switch sample enters the line and the oldest leaves; the frame's supervision is kept. -/
def Circuit.captureSlot (sw : Signal) (r : Circuit) : Circuit :=
  { r with capture := r.capture.drop 1 ++ [sw.sample], captureCode := sw.code }

end Sys2Proof.Machine
end

