-- ==== Sys2Proof/Machine/State.lean ====
section
/-! DEFINITION. The station's state as plain data, the reasons a command can stop, and the state after reset. -/

namespace Sys2Proof.Machine

/-- The station. Items are in the order of INVENTORY.md; R numbers name the rule that gives each. -/
structure State where
  /-- R132, R133, R134, R137, R138. -/
  stationState  : StationState
  /-- R132: power is good. -/
  powerGood     : Bool
  /-- R132: the reset pin is asserted. -/
  pinAsserted   : Bool
  /-- R132, R139. -/
  startCause    : StartCause
  /-- R133, R139. -/
  stationNo     : Option Nat
  /-- R134, R139. -/
  configFault   : Option ConfigFault
  /-- R135. -/
  clampCount    : Nat
  /-- R135. -/
  clampedItems  : List ClampItem
  /-- R133: the read of the boot memory is in progress. -/
  bootReading   : Bool
  /-- R138: cycle boundaries left of LISTENING. -/
  listenLeft    : Nat
  /-- R28: the frame count F. -/
  frameCount    : Option Word
  /-- R29. -/
  missCount     : Nat
  /-- 00 section 4.1, R122. -/
  cycleCount    : Nat
  /-- R135. -/
  settings      : Settings
  /-- R131, R136. -/
  windows       : List Window
  /-- R123, by station number. -/
  peers         : Table PeerEntry
  /-- R102. -/
  paused        : Bool
  /-- R140. -/
  orderQueue    : List Order
  /-- R140. -/
  orderOverflow : Nat
  /-- R142. -/
  replyQueue    : List Reply
  /-- R149: a RESTART has been taken. -/
  restartTaken  : Bool
  /-- R2, R92, R99, R106, R152. -/
  trunk         : Trunk
  /-- The works of the open frame that are still to be done (log 4). -/
  todo          : FrameTodo
  /-- R27: the switching system's signals in the open frame. -/
  switchIn      : Highway
  /-- R27: the copper carrier's signals in the open frame. -/
  legacyIn      : Highway
  /-- R111: the bearer cells built in the open frame. -/
  bearerPlaces  : List (List Byte)
  /-- R118. -/
  servicePlace  : ServicePlace
  /-- R117: the lane frame last sent. -/
  laneOut       : Option LaneFrame
  /-- The model's own count of free values used (log 12). -/
  freeUsed      : Nat
  /-- The commands that wait, front first (log 1). -/
  pending       : List Instr
deriving DecidableEq, Repr

/-- The reasons a command stops the part: none. The manual gives the part no behaviour that stops it. -/
inductive Fault where
deriving DecidableEq, Repr

/-- The reasons a command has no meaning. -/
inductive Refusal where
  /-- Raised by an arm of `exec` whose command has no meaning yet, and by nothing else. Safe: the machine stops. -/
  | notModelled (mnemonic : String)
deriving DecidableEq, Repr

/-- The part right after a start of cause POWER, with power good and the pin released (Table 9.2; log 2). -/
def State.reset : State where
  stationState := .reset
  powerGood := true
  pinAsserted := false
  startCause := .power
  stationNo := none
  configFault := none
  clampCount := 0
  clampedItems := []
  bootReading := false
  listenLeft := 0
  frameCount := none
  missCount := 0
  cycleCount := 0
  settings := .start
  windows := List.replicate 8 .start
  peers := []
  paused := false
  orderQueue := []
  orderOverflow := 0
  replyQueue := []
  restartTaken := false
  trunk := .start .power
  todo := .none
  switchIn := []
  legacyIn := []
  bearerPlaces := []
  servicePlace := .empty
  laneOut := none
  freeUsed := 0
  pending := []

end Sys2Proof.Machine
end

