-- ==== Sys2Proof/Machine/Ops.lean ====
section
/-! DEFINITION. The named operations over the station's state: the circuit table, reports and their repeat filter
(R153, R154), the calendar (R107, R109), the fallback list and the splice wait queue (R92, R99), and the part of the state
that a change of a circuit reaches. -/

namespace Sys2Proof.Machine

/-! ## Circuits -/

/-- The record of circuit `c` (R2). There are 256; a number past them reads as a record at a start (log 32). -/
def Trunk.circuit (t : Trunk) (c : Nat) : Circuit :=
  if c < Config.circuits then Table.read Circuit.start t.circuits c else Circuit.start

/-- The record of circuit `c` replaced. A number past the 256 circuits keeps its start record (log 32). -/
def Trunk.setCircuit (t : Trunk) (c : Nat) (r : Circuit) : Trunk :=
  { t with circuits := Table.write Circuit.start t.circuits c (if c < Config.circuits then r else Circuit.start) }

/-- Circuit `c` changed by `f`. -/
def Trunk.modify (c : Nat) (f : Circuit → Circuit) (t : Trunk) : Trunk := t.setCircuit c (f (t.circuit c))

/-- Every circuit changed by `f`, which is given the circuit's number. -/
def Trunk.mapCircuits (f : Nat → Circuit → Circuit) (t : Trunk) : Trunk :=
  { t with circuits := Table.build Circuit.start Config.circuits (fun c => f c (t.circuit c)) }

/-- `f` done for each circuit in ascending number. -/
def Trunk.forEach (f : Nat → Trunk → Trunk) (t : Trunk) : Trunk :=
  (List.range Config.circuits).foldl (fun t c => f c t) t

/-! ## Candidate sets -/

/-- A set of positions given in rising order (R59). -/
def Candidates.ofList (ks : List Nat) : Candidates :=
  if ks.length = Config.domainSize then .whole else .positions ks

def Candidates.toList : Candidates → List Nat
  | .whole => List.range Config.domainSize
  | .positions ks => ks

/-- The positions of the set that `ms` holds too (R65). -/
def Candidates.meet (s : Candidates) (ms : List Nat) : List Nat :=
  match s with
  | .whole => ms
  | .positions ks => ks.filter (fun k => ms.contains k)

def Candidates.size : Candidates → Nat
  | .whole => Config.domainSize
  | .positions ks => ks.length

/-- The lowest position in the set (R72). -/
def Candidates.lowest : Candidates → Option Nat
  | .whole => some 0
  | .positions ks => ks.head?

/-! ## Change of a circuit's state -/

/-- What the alignment unit does at an entry to a state (R57, R71). The candidate set and the two counts are kept at an entry to
any state but COPPER and BRIDGING, by R57 and R65 and not by the last sentence of R2 (DEDUCED, log 41). -/
def AlignItems.onEntry (st : CircuitState) (a : AlignItems) : AlignItems :=
  match st with
  | .copper => { a with candidates := .whole, contributing := 0, verifyMiss := 0, idleQualify := 0, judging := [] }
  | .held | .down => { a with idleQualify := 0, judging := [] }
  | .spliced | .revertWait | .committed => { a with idleQualify := 0 }
  | _ => a

/-- What every change of a circuit's state does, whatever the transition: the last reported kind becomes absent (R6), the
state timer is 0 until it is loaded (R4), the legacy-released flag stays only in COMMITTED, HELD and DOWN (R22), the
alignment unit's items follow R57 and R71, and an update of the quiet-run count counts for the state it was made in
(R78, R88). -/
def Circuit.enter (st : CircuitState) (r : Circuit) : Circuit :=
  { r with
    state := st
    lastReported := none
    stateTimer := 0
    legacyReleased := r.legacyReleased && st.keepsRelease
    align := r.align.onEntry st
    splice := { r.splice with ripe := false } }

/-! ## Reports -/

/-- R153: a report is appended, or dropped and counted when the queue is full. -/
def Trunk.enterReport (rep : Report) (t : Trunk) : Trunk :=
  if t.reports.length < Config.reportPlaces then { t with reports := t.reports ++ [rep] }
  else { t with reportOverflow := countUp 255 t.reportOverflow }

/-- The report about circuit `c` of a kind (R152): its station is the peer of the binding. -/
def circuitReport (x : Ctx) (c : Nat) (b : Binding) (kind : ReportKind) (variant : Option ReportVariant)
    (detail : Option Nat) (flags : SpliceFlags) : Report :=
  ⟨kind, some c, some b.peer, x.cycles % 4294967296, variant, detail, flags⟩

/-- A report about a circuit handed to the queue: the repeat filter (R154), then the entry (R153). A VACANT circuit takes
no report (R152). -/
def Trunk.report (x : Ctx) (c : Nat) (kind : ReportKind) (variant : Option ReportVariant) (detail : Option Nat)
    (flags : SpliceFlags) (t : Trunk) : Trunk :=
  match (t.circuit c).binding with
  | none => t
  | some b =>
    if (t.circuit c).lastReported = some kind then t
    else if t.reports.length < Config.reportPlaces then
      (t.enterReport (circuitReport x c b kind variant detail flags)).modify c
        (fun r => { r with lastReported := some kind })
    else t.enterReport (circuitReport x c b kind variant detail flags)

/-- A report of a kind that carries nothing but its circuit. -/
def Trunk.reportPlain (x : Ctx) (c : Nat) (kind : ReportKind) (t : Trunk) : Trunk :=
  t.report x c kind none none .clear

/-- A report about a peer station, which the filter does not test (R153, R154). -/
def Trunk.reportStation (x : Ctx) (p : Nat) (kind : ReportKind) (t : Trunk) : Trunk :=
  t.enterReport ⟨kind, none, some p, x.cycles % 4294967296, none, none, .clear⟩

/-! ## The emission calendar -/

/-- Row `k`, in the order of joining (R106). -/
def Trunk.row (t : Trunk) (k : Nat) : List Nat := Table.read [] t.calendar k

def Trunk.setRow (k : Nat) (cs : List Nat) (t : Trunk) : Trunk := { t with calendar := Table.write [] t.calendar k cs }

/-- The row that holds the fewest circuits, the lowest-numbered of several (R107). -/
def Trunk.emptiestRow (t : Trunk) : Nat :=
  (List.range Config.calendarRows).foldl (fun best k => if (t.row k).length < (t.row best).length then k else best) 0

/-- R107: the join, absent when every row is full. A circuit that has a row keeps it (R8). -/
def Trunk.join (c : Nat) (t : Trunk) : Option Trunk :=
  match (t.circuit c).calendarRow with
  | some _ => some t
  | none =>
    let k := t.emptiestRow
    if (t.row k).length < Config.rowPlaces then
      some ((t.setRow k (t.row k ++ [c])).modify c (fun r => { r with calendarRow := some k }))
    else none

/-- R109: the circuit leaves its row, and those behind it move up. -/
def Trunk.leaveCalendar (c : Nat) (t : Trunk) : Trunk :=
  match (t.circuit c).calendarRow with
  | none => t
  | some k => (t.setRow k ((t.row k).filter (fun d => !decide (d = c)))).modify c (fun r => { r with calendarRow := none })

/-! ## The fallback list and the splice wait queue -/

/-- R93: the station has room. -/
def Trunk.hasRoom (t : Trunk) : Bool := decide (t.fallback.length < Config.fallbackRecords)

/-- The record of circuit `c`. -/
def Trunk.recordOf (t : Trunk) (c : Nat) : Option FallbackRecord := t.fallback.find? (fun f => decide (f.circuit = c))

/-- R98: the circuit's record is removed; those behind keep their order. -/
def Trunk.removeRecord (c : Nat) (t : Trunk) : Trunk :=
  { t with fallback := t.fallback.filter (fun f => !decide (f.circuit = c)) }

/-- The fields of a record that becomes LIVE in this frame: P is the next frame, and the timers are loaded (R96). -/
def LiveFields.now (x : Ctx) : LiveFields :=
  ⟨x.frame + 1, x.settings.params.settle,
   if x.settings.params.spliceHold = 0 then none else some x.settings.params.spliceHold, true⟩

/-- A record at the tail of the list. The list never holds more than 8 (R93); every record is asked for first, so the room
is there (log 32). -/
def Trunk.appendRecord (f : FallbackRecord) (t : Trunk) : Trunk :=
  if t.hasRoom then { t with fallback := t.fallback ++ [f] } else t

/-- A PENDING record at the tail of the list (R94). -/
def Trunk.addPending (c : Nat) (t : Trunk) : Trunk := t.appendRecord ⟨c, none⟩

/-- R96: the circuit's record becomes LIVE in its place, or is created LIVE at the tail. -/
def Trunk.recordLive (x : Ctx) (c : Nat) (t : Trunk) : Trunk :=
  match t.recordOf c with
  | some _ =>
    { t with fallback := t.fallback.map (fun f => if f.circuit = c then { f with live := some (LiveFields.now x) } else f) }
  | none => t.appendRecord ⟨c, some (LiveFields.now x)⟩

/-- R95: the LIVE record nearest the head. -/
def Trunk.oldestLive (t : Trunk) : Option Nat := (t.fallback.find? (fun f => f.live.isSome)).map FallbackRecord.circuit

/-- R104: the LIVE record nearest the tail. -/
def Trunk.newestLive (t : Trunk) : Option Nat :=
  (t.fallback.reverse.find? (fun f => f.live.isSome)).map FallbackRecord.circuit

/-- The splice hold of the circuit's LIVE record still runs (R18, R92). A hold that the frame's boundary has counted to 0
runs until HOLD_EXPIRY or the close of the frame, so a REVERT between the two is deferred (R97; DESIGN CHOICE, log 47). -/
def Trunk.holdRuns (t : Trunk) (c : Nat) : Bool :=
  match t.recordOf c with
  | some f => match f.live with
    | some l => l.hold.isSome
    | none => false
  | none => false

/-- R99: a circuit joins at the tail. -/
def Trunk.queueUp (c : Nat) (t : Trunk) : Trunk := { t with waitQueue := t.waitQueue ++ [c] }

/-- R99: a circuit leaves, from whatever position it holds. -/
def Trunk.leaveQueue (c : Nat) (t : Trunk) : Trunk :=
  { t with waitQueue := t.waitQueue.filter (fun d => !decide (d = c)) }

/-! ## The station around the trunk -/

/-- The station state of the open frame. From the frame of the fourth boundary on, what R138 gives OPERATING holds, before
LISTENING_END is taken in it too (log 40). -/
def State.stage (s : State) : StationState :=
  if s.stationState = .listening ∧ s.listenLeft ≤ (if s.todo.boundary then 1 else 0) then .operating else s.stationState

/-- What the trunk's rules read of the station. -/
def State.ctx (s : State) : Ctx where
  frame := s.frameCount.getD 0
  cycles := s.cycleCount
  station := s.stage
  settings := s.settings
  windows := s.windows
  peers := s.peers
  paused := s.paused
  switchIn := s.switchIn
  legacyIn := s.legacyIn
  counted := s.frameCount.isSome && decide (cyclePos (s.frameCount.getD 0) = 0) && !s.todo.boundary

/-- A change of the trunk alone: every other item of the station stays as it is. -/
def State.onTrunk (f : Ctx → Trunk → Trunk) (s : State) : State := { s with trunk := f s.ctx s.trunk }

/-- The record of circuit `c`. -/
def State.circuit (s : State) (c : Nat) : Circuit := s.trunk.circuit c

/-- The peer-table entry of station `p` (R123). -/
def State.peer (s : State) (p : Nat) : PeerEntry := Table.read PeerEntry.start s.peers p

def State.setPeer (p : Nat) (e : PeerEntry) (s : State) : State :=
  { s with peers := Table.write PeerEntry.start s.peers p e }

/-- Whether the peer table has station `p` PRESENT (R9, R10). -/
def Ctx.present (x : Ctx) (p : Nat) : Bool := (Table.read PeerEntry.start x.peers p).state == .present

/-- Whether window `w` is matched (R129). -/
def Ctx.matched (x : Ctx) (w : Nat) : Bool :=
  match x.windows[w]? with
  | some win => win.matched
  | none => false

/-- A start (R132): RESET, with every item at its start value, the cause recorded and the STARTED report entered (R155).
The pins, the waiting commands and the count of free values are not items of a start. -/
def State.start (cause : StartCause) (s : State) : State :=
  { State.reset with
    startCause := cause
    trunk := .start cause
    powerGood := s.powerGood
    pinAsserted := s.pinAsserted
    freeUsed := s.freeUsed
    pending := s.pending }

end Sys2Proof.Machine
end

