-- ==== Sys2Proof/Machine/Alignment.lean ====
section
/-! DEFINITION. The alignment unit on one circuit: windows taken (R60), conclusive windows and match sets (R62, R63), the
search (R64, R65), verification (R66), the idle-qualify count (R70). -/

namespace Sys2Proof.Machine

/-- The offset domain position `k` stands for: Obase + k − 224 (R59). -/
def domainOffset (obase : Word) (k : Nat) : Word := obase + BitVec.ofNat 16 k - 224

/-- The judging frame of a window: s + Obase + 263 (R60). -/
def judgingFrame (s obase : Word) : Word := s + obase + 263

/-- R60: the states in which a window is taken. -/
def Circuit.judges (r : Circuit) : Bool :=
  r.state.beforeSplice || (r.state.onFibre && r.align.offset.isSome && !r.legacyReleased)

/-- R60: the window of a cell that arrives in frame `a` enters the judging list. -/
def Circuit.takeWindow (a s : Word) (r : Circuit) : Circuit :=
  match r.align.obase with
  | none => r
  | some ob =>
    let j := judgingFrame s ob
    if r.judges && decide (0 ≤ diff j a) && decide (diff j a ≤ 511) && !(r.align.judging.any (fun e => e.ssn == s)) &&
        decide (r.align.judging.length < Config.judgingEntries) then
      { r with align := { r.align with judging := r.align.judging ++ [⟨s, j⟩] } }
    else r

/-- R58: the first cell of a new BRIDGING state gives Obase. -/
def Circuit.takeObase (offset : Word) (r : Circuit) : Circuit :=
  match r.align.obase with
  | some _ => r
  | none => if r.state = .bridging then { r with align := { r.align with obase := some offset } } else r

/-- The SSNs of a window. -/
def windowSsns (s : Word) : List Word := (List.range Config.cellSamples).map (fun i => s + BitVec.ofNat 16 i)

/-- R62: each of the 40 samples is present, and at least 8 of them are active. -/
def Circuit.conclusive (st : Settings) (r : Circuit) (s : Word) : Bool :=
  (windowSsns s).all (fun t => (r.playoutAt t).isSome) &&
    decide (8 ≤ ((windowSsns s).filter (fun t => isActive st (r.positionOf t).sample)).length)

/-- R63: the copper of frame s + i + X equals the playout sample of SSN s + i for every i. -/
def Circuit.matchesAt (r : Circuit) (s x : Word) : Bool :=
  (windowSsns s).all (fun t => r.historyAt (t + x) == (r.positionOf t).sample)

/-- R63: the positions of the domain whose offset matches, in rising order. -/
def Circuit.matchSet (r : Circuit) (s obase : Word) : List Nat :=
  (List.range Config.domainSize).filter (fun k => r.matchesAt s (domainOffset obase k))

/-- R64, R65: what a conclusive window with match set `ms` does to the carried set. -/
def Circuit.narrow (ms : List Nat) (r : Circuit) : Circuit :=
  match ms with
  | [] =>
    { r with
      align := { r.align with candidates := .whole, contributing := 0 }
      counters := { r.counters with mismatches := countUp 65535 r.counters.mismatches } }
  | _ =>
    match r.align.candidates.meet ms with
    | [] => { r with align := { r.align with candidates := .ofList ms, contributing := 1 } }
    | ks => { r with align := { r.align with candidates := .ofList ks, contributing := countUp 3 r.align.contributing } }

/-- R65: alignment is found when one position stands with a contributing count of 3. -/
def Circuit.foundOffset (r : Circuit) : Option Word :=
  match r.align.obase, r.align.candidates with
  | some ob, .positions [k] => if r.align.contributing = 3 then some (domainOffset ob k) else none
  | _, _ => none

/-- A window judged in BRIDGING (R62 to R65): an inconclusive one changes nothing. -/
def Circuit.search (st : Settings) (s : Word) (r : Circuit) : Circuit :=
  match r.align.obase with
  | none => r
  | some ob => if r.conclusive st s then r.narrow (r.matchSet s ob) else r

/-- A window judged at O (R66): an inconclusive one changes nothing. -/
def Circuit.verify (st : Settings) (s o : Word) (r : Circuit) : Circuit :=
  if r.conclusive st s then
    if r.matchesAt s o then { r with align := { r.align with verifyMiss := 0 } }
    else
      { r with
        align := { r.align with verifyMiss := countUp 3 r.align.verifyMiss }
        counters := { r.counters with mismatches := countUp 65535 r.counters.mismatches } }
  else r

/-- R70: the frame's idle-qualify test, with the switch's supervision in the frame. -/
def Circuit.countIdle (st : Settings) (boundary : Bool) (sw : Code) (r : Circuit) : Circuit :=
  if r.state.beforeSplice then
    let a := r.align
    if (r.state = .bridging ∧ a.obase = none) ∨ sw ≠ st.idleCode ∨ r.fibreCode ≠ st.idleCode then
      { r with align := { a with idleQualify := 0 } }
    else if boundary then { r with align := { a with idleQualify := countUp 1000 a.idleQualify } }
    else r
  else r

end Sys2Proof.Machine
end

