-- ==== Sys2Proof/Machine/Splicing.lean ====
section
/-! DEFINITION. The splice unit and the fallback list unit: splices (R77, R81, R82), the judgement of a reverse splice
(R84 to R87), forced commits (R95), requests (R94) and the servings of the splice wait queue (R100, R101). -/

namespace Sys2Proof.Machine

/-! ## Splices -/

/-- R77: a splice with O present, at O′ = O + D with D fill frames from P; the activity-gap flag as given (R79). An IDLE
splice leaves O absent, and with it the circuit takes no more windows (R68; log 37). -/
def Circuit.spliceAt (p : Word) (kind : SpliceKind) (o : Word) (d : Nat) (gap : Bool) (r : Circuit) : Circuit :=
  let e := r.enter .spliced
  { e with
    deferredRevert := false
    align := if kind = .idle then { e.align with offset := none } else e.align
    splice := { e.splice with
      playOffset := some (o + BitVec.ofNat 16 d)
      deficit := some d
      lastKind := some (.splice kind)
      flags := ⟨false, false, gap⟩
      fill := if d = 0 then none else some ⟨p, d⟩
      switchPoint := true
      guardOff := false } }

/-- R81: the offset at which the smallest lead of the ring is the guard. Obase is present and the ring full at every idle
test that passes (R12); elsewhere the lead is taken as 0 (log 32). -/
def Circuit.blindOffset (g : Nat) (r : Circuit) : Word :=
  let ob := r.align.obase.getD 0
  ob - BitVec.ofInt 16 ((leadMin ob r.ring).getD 0) + BitVec.ofNat 16 g

/-- R77, R81: a blind IDLE splice, with no fill and D absent. -/
def Circuit.spliceBlind (g : Nat) (kind : SpliceKind) (r : Circuit) : Circuit :=
  let e := r.enter .spliced
  { e with
    deferredRevert := false
    splice := { e.splice with
      playOffset := some (r.blindOffset g)
      deficit := none
      lastKind := some (.splice kind)
      flags := ⟨false, true, false⟩
      fill := none
      switchPoint := true
      guardOff := false } }

/-- R17, R82: a splice of circuit `c` decided in this frame with deficit `d`: P is the next frame, the record is LIVE, and
a SPLICED report is entered. -/
def Trunk.splice (x : Ctx) (c : Nat) (kind : SpliceKind) (d : Nat) (gap : Bool) (t : Trunk) : Trunk :=
  let t1 := t.modify c (fun r =>
    match r.align.offset with
    | some o => r.spliceAt (x.frame + 1) kind o d gap
    | none => r.spliceBlind x.settings.params.guard kind)
  let t2 := t1.recordLive x c
  let r := t2.circuit c
  t2.report x c .spliced (some (.splice kind)) r.splice.deficit r.splice.flags

/-! ## Judgement of a reverse splice -/

/-- The fill frames of the last splice are still running at a decision in frame `f` (R83, R85). -/
def Circuit.fillRuns (f : Word) (r : Circuit) : Bool :=
  match r.splice.fill with
  | some run => decide (diff f run.start < (run.count : Int))
  | none => false

/-- The skipped range of a reverse splice at frame `q`: its first SSN and its length (R84, R85). Absent for a blind one
(R87), and where O′ is absent (R25). -/
def Circuit.skipped (q : Word) (r : Circuit) : Option (Word × Nat) :=
  match r.align.offset with
  | none => none
  | some o =>
    match (if r.fillRuns (q - 1) then r.splice.fill else none) with
    | some run => some (run.start - o, (q - run.start).toNat)
    | none =>
      match r.splice.playOffset with
      | some o' => some (q - o', (o' - o).toNat)
      | none => none

/-- R86: a sample of the skipped range counts as active when it is, or when it is absent. -/
def Circuit.lostAt (st : Settings) (r : Circuit) (t : Word) : Bool :=
  match r.playoutAt t with
  | some b => isActive st b
  | none => true

/-- R86, R87: the flags of a reverse splice at frame `q` and the skipped count of its report. -/
def Circuit.judgeReverse (st : Settings) (q : Word) (r : Circuit) : SpliceFlags × Option Nat :=
  match r.skipped q with
  | none => (⟨false, true, false⟩, none)
  | some (first, n) => (⟨(List.range n).any (fun i => r.lostAt st (first + BitVec.ofNat 16 i)), false, false⟩, some n)

/-- What a reverse splice of a kind leaves with the splice unit and the path selector: the kind and the flags, no fill
frames (R36), and Q the next frame. -/
def Circuit.markReverse (kind : ReverseKind) (flags : SpliceFlags) (r : Circuit) : Circuit :=
  { r with splice := { r.splice with
      lastKind := some (.reverse kind), flags := flags, fill := none, switchPoint := true, guardOff := false } }

/-! ## Commits -/

/-- R22: a COMMITTED circuit whose peer phase is COMMITTED releases its copper leg. -/
def Trunk.legacyRelease (x : Ctx) (c : Nat) (t : Trunk) : Trunk :=
  let r := t.circuit c
  if r.state = .committed ∧ r.peerPhase = some .committed ∧ r.legacyReleased = false then
    (t.modify c (fun r => { r with legacyReleased := true })).reportPlain x c .legacyReleased
  else t

/-- R19: circuit `c` enters COMMITTED, its record is removed, its report is entered, and the legacy release follows. -/
def Trunk.commit (x : Ctx) (c : Nat) (kind : ReportKind) (detail : Option Nat) (t : Trunk) : Trunk :=
  let t1 := (t.removeRecord c).modify c (fun r => { r.enter .committed with deferredRevert := false })
  (t1.report x c kind none detail .clear).legacyRelease x c

/-- R95: the LIVE record of `v` is removed and its circuit committed for the request of `c`. -/
def Trunk.forcedCommit (x : Ctx) (v c : Nat) (t : Trunk) : Trunk := t.commit x v .forcedCommit (some c)

/-! ## Requests and servings -/

/-- R94: the trunk in which the request of `c` has its place, absent when it is not granted. -/
def Trunk.request (x : Ctx) (c : Nat) (t : Trunk) : Option Trunk :=
  if !t.waitQueue.isEmpty then none
  else if t.hasRoom then some t
  else
    match x.settings.policy, t.oldestLive with
    | .roll, some v => some (t.forcedCommit x v c)
    | _, _ => none

/-- R13: circuit `c` enters SPLICE_WAIT with D and a PENDING record. -/
def Trunk.toSpliceWait (c d : Nat) (t : Trunk) : Trunk :=
  (t.addPending c).modify c (fun r => let e := r.enter .spliceWait; { e with splice := { e.splice with deficit := some d } })

/-- R13, R74: circuit `c`, granted a place, takes the record its deficit needs. -/
def Trunk.grant (x : Ctx) (c d : Nat) (t : Trunk) : Trunk :=
  if d = 0 then t.splice x c .seamless 0 false else t.toSpliceWait c d

/-- R13, R75, R100: a circuit whose deficit is too large returns to ALIGNED with a DELAY_EXCESS report. -/
def Trunk.delayExcess (x : Ctx) (c d : Nat) (t : Trunk) : Trunk :=
  (t.modify c (fun r => let e := r.enter .aligned; { e with splice := { e.splice with deficit := none } })).report
    x c .delayExcess none (some d) .clear

/-- A served circuit without a deficit to compute goes back to ALIGNED; no circuit that waits is one (log 32). -/
def Trunk.unserved (c : Nat) (t : Trunk) : Trunk := t.modify c (fun r => r.enter .aligned)

/-- R101: under ROLL, a record that has become LIVE starts a serving. -/
def Trunk.rollServes (x : Ctx) (t : Trunk) : Bool :=
  x.settings.policy == .roll && !x.paused && !t.waitQueue.isEmpty && !t.hasRoom

/-- R101: the serving under ROLL, which grants by a forced commit of the oldest LIVE record. It ends at the grant; a grant
with D of 0 starts a further serving. `n` bounds the circuits served, each of which leaves the queue. -/
def Trunk.serveRoll (x : Ctx) : Nat → Trunk → Trunk
  | 0, t => t
  | n + 1, t =>
    match t.waitQueue, t.oldestLive with
    | h :: rest, some v =>
      let t1 := { t with waitQueue := rest }
      match (t1.circuit h).deficitNow x.settings.params with
      | none => Trunk.serveRoll x n (t1.unserved h)
      | some d =>
        if x.settings.params.dmax < d then Trunk.serveRoll x n (t1.delayExcess x h d)
        else
          let t2 := (t1.forcedCommit x v h).grant x h d
          if d = 0 && t2.rollServes x then Trunk.serveRoll x n t2 else t2
    | _, _ => t

/-- R100: the serving from room. A grant with D of 0 that fills the list under ROLL goes on by R101. -/
def Trunk.serveRoom (x : Ctx) : Nat → Trunk → Trunk
  | 0, t => t
  | n + 1, t =>
    match t.waitQueue with
    | [] => t
    | h :: rest =>
      if t.hasRoom && !x.paused then
        let t1 := { t with waitQueue := rest }
        match (t1.circuit h).deficitNow x.settings.params with
        | none => Trunk.serveRoom x n (t1.unserved h)
        | some d =>
          if x.settings.params.dmax < d then Trunk.serveRoom x n (t1.delayExcess x h d)
          else
            let t2 := t1.grant x h d
            if d = 0 && t2.rollServes x then Trunk.serveRoll x n t2 else Trunk.serveRoom x n t2
      else t

/-- R98, R100: the serving that a removal starts, when the pause flag is clear. -/
def Trunk.serve (x : Ctx) (t : Trunk) : Trunk := t.serveRoom x t.waitQueue.length

/-- R101: the serving that a record becoming LIVE starts. -/
def Trunk.serveLive (x : Ctx) (t : Trunk) : Trunk :=
  if t.rollServes x then t.serveRoll x t.waitQueue.length else t

/-- A splice and the serving its record starts (R96, R101). -/
def Trunk.spliceAndServe (x : Ctx) (c : Nat) (kind : SpliceKind) (d : Nat) (gap : Bool) (t : Trunk) : Trunk :=
  (t.splice x c kind d gap).serveLive x

/-! ## Arrivals at the splice unit -/

/-- R12: the idle test passes. -/
def Circuit.idleTest (x : Ctx) (r : Circuit) : Bool :=
  decide (x.settings.params.idleQualify ≤ r.align.idleQualify) && decide (r.ring.length = Config.ringEntries) && !x.paused

/-- R12: an arrival in BRIDGING. A grant makes a blind IDLE splice; without one the circuit stays. -/
def Trunk.arriveBridging (x : Ctx) (c : Nat) (t : Trunk) : Trunk :=
  if (t.circuit c).idleTest x then
    match t.request x c with
    | some t' => t'.spliceAndServe x c .idle 0 false
    | none => t
  else t

/-- R13, R74: an arrival in ALIGNED, evaluated with a full ring while the pause flag is clear. -/
def Trunk.arriveAligned (x : Ctx) (c : Nat) (t : Trunk) : Trunk :=
  let r := t.circuit c
  if r.ring.length = Config.ringEntries ∧ x.paused = false then
    match r.deficitNow x.settings.params with
    | none => t
    | some d =>
      if x.settings.params.dmax < d then t.report x c .delayExcess none (some d) .clear
      else
        match t.request x c with
        | some t' => (t'.grant x c d).serveLive x
        | none => (t.queueUp c).modify c (fun r => r.enter .splicePending)
  else t

/-- R75: an arrival in SPLICE_WAIT, in the five steps. -/
def Trunk.arriveWaiting (x : Ctx) (c : Nat) (t : Trunk) : Trunk :=
  let r := t.circuit c
  match r.deficitNow x.settings.params with
  | none => t
  | some d =>
    if x.settings.params.dmax < d then ((t.removeRecord c).delayExcess x c d).serve x
    else if d = 0 then t.spliceAndServe x c .seamless 0 false
    else
      let t1 := t.modify c (fun r => { r with splice := { r.splice with deficit := some d } })
      if x.settings.params.idleQualify ≤ r.align.idleQualify then t1.spliceAndServe x c .idle d false else t1

/-- R51: an arrival handed to the splice unit, in the states that take it. -/
def Trunk.arrive (x : Ctx) (c : Nat) (t : Trunk) : Trunk :=
  match (t.circuit c).state with
  | .bridging => t.arriveBridging x c
  | .aligned => t.arriveAligned x c
  | .spliceWait => t.arriveWaiting x c
  | _ => t

end Sys2Proof.Machine
end

