-- ==== Sys2Proof/Machine/Controller.lean ====
section
/-! DEFINITION. The cutover controller: entry to BRIDGING (R8), abandon (R16), reverse splices (R20, R24, R25), HELD and
DOWN (R23, R26), the reaction to a peer's phase (Table 1.3) and to its loss (R127), alignment found and lost (R11), the
expiries (R14, R15, R21, R97), a delivered cell (R42 to R51). -/

namespace Sys2Proof.Machine

/-! ## Transitions -/

/-- R8, R46, R57: what an entry to BRIDGING does to the record. -/
def Circuit.toBridging (p : Params) (r : Circuit) : Circuit :=
  let e := (r.enter .bridging).clearTags
  { e with
    align := { e.align with
      obase := none, candidates := .whole, contributing := 0, offset := none, verifyMiss := 0, idleQualify := 0, judging := [] }
    ring := []
    splice := { e.splice with playOffset := none, deficit := none }
    peerPhase := none
    stateTimer := p.alignTimeout
    silence := 0
    deferredRevert := false }

/-- R16, R20, R24: what a return to COPPER with release cells does to the record. -/
def Circuit.toCopper (r : Circuit) : Circuit :=
  let e := r.enter .copper
  { e with
    align := { e.align with obase := none, offset := none }
    ring := []
    splice := { e.splice with playOffset := none, deficit := none }
    deferredRevert := false
    releaseCells := Config.releaseCount }

/-- R26, R36, R41: what an entry to DOWN does to the record. A splice frame or reverse splice frame that
is still to come starts no guard (log 33). -/
def Circuit.toDown (r : Circuit) : Circuit :=
  let e := r.enter .down
  { e with
    align := { e.align with obase := none, offset := none }
    ring := []
    splice := { e.splice with playOffset := none, deficit := none, fill := none, guardOff := true }
    guard := none }

/-- R23, R36: what an entry to HELD does to the record. -/
def Circuit.toHeld (p : Params) (r : Circuit) : Circuit :=
  let e := r.enter .held
  { e with splice := { e.splice with fill := none }, stateTimer := p.peerHold }

/-- R16: abandon. The place in the queue or the PENDING record goes with it. -/
def Trunk.abandonCore (c : Nat) (t : Trunk) : Trunk := ((t.removeRecord c).leaveQueue c).modify c Circuit.toCopper

/-- Abandon with a report of its cause, and the serving that the removal of a record starts (R98). -/
def Trunk.abandonWith (x : Ctx) (c : Nat) (report : Option ReportKind) (t : Trunk) : Trunk :=
  let t1 := t.abandonCore c
  let t2 := match report with
    | some k => t1.reportPlain x c k
    | none => t1
  if (t.recordOf c).isSome then t2.serve x else t2

/-- R20, R24: a reverse splice to COPPER, with its report and the serving that the removal of a record starts. -/
def Trunk.reverseSplice (x : Ctx) (c : Nat) (kind : ReverseKind) (t : Trunk) : Trunk :=
  let verdict := (t.circuit c).judgeReverse x.settings (x.frame + 1)
  let t1 := (t.removeRecord c).modify c (fun r => (r.markReverse kind verdict.1).toCopper)
  let t2 := t1.report x c .reverted (some (.reverse kind)) verdict.2 verdict.1
  if (t.recordOf c).isSome then t2.serve x else t2

/-- R25: a re-bridge from COMMITTED or HELD, which is an URGENT reverse splice and keeps the calendar row. -/
def Trunk.reBridge (x : Ctx) (c : Nat) (t : Trunk) : Trunk :=
  let verdict := (t.circuit c).judgeReverse x.settings (x.frame + 1)
  (t.modify c (fun r => (r.markReverse .urgent verdict.1).toBridging x.settings.params)).report
    x c .reverted (some (.reverse .urgent)) verdict.2 verdict.1

/-- The join and the entry to BRIDGING, or a LANE_FULL report when the calendar refuses (R10, R25, R107). -/
def Trunk.joinOrReport (x : Ctx) (c : Nat) (t : Trunk) : Trunk :=
  match t.join c with
  | some t' => t'.modify c (Circuit.toBridging x.settings.params)
  | none => t.reportPlain x c .laneFull

/-- R10: a follow. -/
def Trunk.follow (x : Ctx) (c : Nat) (t : Trunk) : Trunk :=
  let r := t.circuit c
  match r.binding with
  | none => t
  | some b =>
    if x.station = .operating ∧ r.releaseCells = 0 ∧ x.present b.peer then t.joinOrReport x c else t

/-- R23: entry to HELD, with its report. -/
def Trunk.hold (x : Ctx) (c : Nat) (t : Trunk) : Trunk :=
  (t.modify c (Circuit.toHeld x.settings.params)).reportPlain x c .held

/-- R23: the return from HELD to COMMITTED, and the legacy release when the stored phase or the cell's is COMMITTED
(R22). -/
def Trunk.heldReturn (x : Ctx) (c : Nat) (ph : Phase) (t : Trunk) : Trunk :=
  let t1 := t.modify c (Circuit.enter .committed)
  let t2 := t1.legacyRelease x c
  (t2.modify c (fun r => { r with peerPhase := some ph })).legacyRelease x c

/-- R26: entry to DOWN, with its report. -/
def Trunk.goDown (x : Ctx) (c : Nat) (t : Trunk) : Trunk :=
  ((t.leaveCalendar c).modify c Circuit.toDown).reportPlain x c .down

/-- R24: RELEASE to a COMMITTED or HELD circuit. -/
def Trunk.releaseCommitted (x : Ctx) (c : Nat) (t : Trunk) : Trunk :=
  if (t.circuit c).legacyReleased then t.goDown x c else t.reverseSplice x c .urgent

/-! ## The peer's phase and the peer's loss -/

/-- Table 1.3: the reaction of each state to a phase, before it is stored. -/
def Trunk.react (x : Ctx) (c : Nat) (ph : Phase) (t : Trunk) : Trunk :=
  match (t.circuit c).state with
  | .vacant => t
  | .copper => if ph.startsFollow then t.follow x c else t
  | .bridging | .aligned | .splicePending | .spliceWait =>
    if ph = .release then t.abandonWith x c none else t
  | .spliced | .revertWait => if ph = .release then t.reverseSplice x c .urgent else t
  | .committed =>
    if ph.startsBridge then t.reBridge x c
    else if ph = .committed then (t.modify c (fun r => { r with peerPhase := some .committed })).legacyRelease x c
    else if ph = .release then t.releaseCommitted x c
    else t
  | .held =>
    if ph.startsBridge then t.reBridge x c
    else if ph = .spliced ∨ ph = .committed then t.heldReturn x c ph
    else if ph = .release then t.releaseCommitted x c
    else t
  | .down => if ph.startsBridge then t.joinOrReport x c else t

/-- R7: the phase of a delivered cell is reacted to and stored. -/
def Trunk.takePhase (x : Ctx) (c : Nat) (ph : Phase) (t : Trunk) : Trunk :=
  (t.react x c ph).modify c (fun r => { r with peerPhase := some ph })

/-- R7, R127: a loss or a restart of the peer station, taken by circuit `c`. -/
def Trunk.peerEvent (x : Ctx) (c : Nat) (t : Trunk) : Trunk :=
  let t1 := t.modify c (fun r => { r with peerPhase := none })
  match (t1.circuit c).state with
  | .bridging | .aligned | .splicePending | .spliceWait => t1.abandonWith x c none
  | .spliced | .revertWait => t1.reverseSplice x c .urgent
  | .committed => t1.hold x c
  | _ => t1

/-- Circuit `c` is bound to station `p`. -/
def Trunk.boundTo (t : Trunk) (c p : Nat) : Bool :=
  match (t.circuit c).binding with
  | some b => decide (b.peer = p)
  | none => false

/-- R127: the event handed to every circuit bound to the station, in ascending number (log 24). -/
def Trunk.peerEvents (x : Ctx) (p : Nat) (t : Trunk) : Trunk :=
  t.forEach (fun c t => if t.boundTo c p then t.peerEvent x c else t)

/-! ## Alignment found and lost -/

/-- R11, R65: alignment found. -/
def Trunk.alignmentFound (x : Ctx) (c : Nat) (o : Word) (t : Trunk) : Trunk :=
  (t.modify c (fun r => let e := r.enter .aligned; { e with align := { e.align with offset := some o } })).report
    x c .aligned none (some o.toNat) .clear

/-- R11: what the return to BRIDGING by alignment lost does to the record. -/
def Circuit.backToBridging (p : Params) (r : Circuit) : Circuit :=
  let e := r.enter .bridging
  { e with
    align := { e.align with candidates := .whole, contributing := 0, offset := none, verifyMiss := 0 }
    splice := { e.splice with deficit := none }
    stateTimer := p.alignTimeout }

/-- R11, R66: alignment lost, in the states that verify. -/
def Trunk.alignmentLost (x : Ctx) (c : Nat) (t : Trunk) : Trunk :=
  let t0 := t.modify c (fun r => { r with align := { r.align with verifyMiss := 0 } })
  match (t0.circuit c).state with
  | .aligned | .splicePending | .spliceWait =>
    let t1 := ((t0.removeRecord c).leaveQueue c).modify c (Circuit.backToBridging x.settings.params)
    let t2 := t1.reportPlain x c .alignLost
    if (t0.recordOf c).isSome then t2.serve x else t2
  | .spliced | .revertWait | .committed =>
    (t0.modify c (fun r => { r with align := { r.align with offset := none } })).reportPlain x c .alignLost
  | _ => t0

/-- R61, R65, R66: a window of SSN `s` judged by the circuit's state in this frame. -/
def Trunk.judgeWindow (x : Ctx) (c : Nat) (s : Word) (t : Trunk) : Trunk :=
  let r := t.circuit c
  match r.state with
  | .bridging =>
    let t1 := t.modify c (Circuit.search x.settings s)
    match (t1.circuit c).foundOffset with
    | some o => if r.conclusive x.settings s then t1.alignmentFound x c o else t1
    | none => t1
  | .aligned | .splicePending | .spliceWait | .spliced | .revertWait | .committed =>
    match r.align.offset with
    | some o =>
      if r.judges then
        let t1 := t.modify c (Circuit.verify x.settings s o)
        if 3 ≤ (t1.circuit c).align.verifyMiss then t1.alignmentLost x c else t1
      else t
    | none => t
  | _ => t

/-- The entry whose judging frame is this frame (R61). -/
def Trunk.dueWindow (x : Ctx) (c : Nat) (t : Trunk) : Option JudgeEntry :=
  (t.circuit c).align.judging.find? (fun e => e.frame == x.frame)

/-- R61: the window that has reached its judging frame leaves the list and is judged. -/
def Trunk.windowJudgement (x : Ctx) (c : Nat) (t : Trunk) : Trunk :=
  match t.dueWindow x c with
  | none => t
  | some e =>
    (t.modify c (fun r => { r with align := { r.align with judging := r.align.judging.filter (fun d => !(d == e)) } })).judgeWindow
      x c e.ssn

/-! ## Expiries -/

/-- R14. -/
def Trunk.alignmentTimeout (x : Ctx) (c : Nat) (t : Trunk) : Trunk :=
  let r := t.circuit c
  if r.state = .bridging ∧ r.stateTimer = 0 then t.abandonWith x c (some .alignTimeout) else t

/-- R15. The count is compared at a boundary, where it is counted (log 8). -/
def Trunk.bridgeIdle (x : Ctx) (c : Nat) (t : Trunk) : Trunk :=
  let r := t.circuit c
  if r.state.beforeSplice ∧ x.counted ∧ x.settings.params.bridgeIdle ≤ r.silence then
    t.abandonWith x c (some .bridgeIdle)
  else t

/-- R21. -/
def Trunk.streamLoss (x : Ctx) (c : Nat) (t : Trunk) : Trunk :=
  let r := t.circuit c
  if x.counted ∧ x.settings.params.streamLoss ≤ r.silence then
    match r.state with
    | .spliced | .revertWait => t.reverseSplice x c .urgent
    | .committed => t.hold x c
    | _ => t
  else t

/-- R23, R26. -/
def Trunk.peerHoldExpiry (x : Ctx) (c : Nat) (t : Trunk) : Trunk :=
  let r := t.circuit c
  if r.state = .held ∧ r.stateTimer = 0 then t.goDown x c else t

/-- The hold remaining of the circuit's LIVE record becomes absent (R97). -/
def Trunk.endHold (c : Nat) (t : Trunk) : Trunk :=
  { t with fallback := t.fallback.map (fun f =>
      if f.circuit = c then { f with live := f.live.map (fun l => { l with hold := none }) } else f) }

/-- R18: a SPLICED circuit enters REVERT_WAIT, and its deferred-revert flag is clear. -/
def Trunk.toRevertWait (c : Nat) (t : Trunk) : Trunk :=
  t.modify c (fun r => { r.enter .revertWait with deferredRevert := false })

/-- The LIVE fields of the circuit's record. -/
def Trunk.liveOf (t : Trunk) (c : Nat) : Option LiveFields :=
  match t.recordOf c with
  | some f => f.live
  | none => none

/-- R18, R97: the hold expiry of the circuit's LIVE record. -/
def Trunk.holdExpiry (_x : Ctx) (c : Nat) (t : Trunk) : Trunk :=
  match t.liveOf c with
  | some l =>
    if l.hold = some 0 then
      let t1 := t.endHold c
      if (t.circuit c).state = .spliced ∧ (t.circuit c).deferredRevert then t1.toRevertWait c else t1
    else t
  | none => t

/-- R18, R19, R97: the settle expiry of a SPLICED circuit's record; with a revert deferred it is taken as the end of the
hold. -/
def Trunk.settleExpiry (x : Ctx) (c : Nat) (t : Trunk) : Trunk :=
  match t.liveOf c with
  | some l =>
    if l.settle = 0 ∧ (t.circuit c).state = .spliced then
      if (t.circuit c).deferredRevert then (t.endHold c).toRevertWait c
      else (t.commit x c .committed none).serve x
    else t
  | none => t

/-- R40: the guard whose count has reached 0 ends. -/
def Circuit.guardEnd (r : Circuit) : Circuit :=
  match r.guard with
  | some g => if g.left = 0 then { r with guard := none } else r
  | none => r

/-- R36: at frame P+n the fill count is used up, and the path selector delivers FIBRE from that frame. -/
def Circuit.fillEnd (f : Word) (r : Circuit) : Circuit :=
  match r.splice.fill with
  | some run =>
    if r.state.onFibre ∧ f - run.start = BitVec.ofNat 16 run.count then
      { r with
        splice := { r.splice with fill := none }
        path := { r.path with source := .fibre (r.splice.playOffset.getD 0) } }
    else r
  | none => r

/-! ## Counts at a cycle boundary -/

/-- R4: the counts a cycle boundary makes in a circuit record. An expiry that a count brings is an act of its own, and the
circuit keeps its state until then (DESIGN CHOICE, log 47). -/
def Circuit.countBoundary (r : Circuit) : Circuit :=
  { r with
    stateTimer := if r.state = .bridging ∨ r.state = .held then r.stateTimer - 1 else r.stateTimer
    silence := if r.state.countsSilence then countUp 65535 r.silence else r.silence }

/-- R97: the counts a cycle boundary makes in a LIVE record; the boundary of the decision frame is not counted. A hold or a
settle that reaches 0 stands as 0 until its expiry is taken in the same frame (DESIGN CHOICE, log 47). -/
def FallbackRecord.countBoundary (f : FallbackRecord) : FallbackRecord :=
  { f with live := f.live.map (fun l =>
      if l.fresh then l else { l with settle := l.settle - 1, hold := l.hold.map (fun h => h - 1) }) }

def Trunk.countBoundary (t : Trunk) : Trunk :=
  { t.mapCircuits (fun _ r => r.countBoundary) with fallback := t.fallback.map FallbackRecord.countBoundary }

/-- The expiries of circuit `c` that are due, in the order the model takes them when no command does (log 5). -/
def Trunk.takeDue (x : Ctx) (c : Nat) (t : Trunk) : Trunk :=
  let t1 := t.alignmentTimeout x c
  let t2 := t1.bridgeIdle x c
  let t3 := t2.streamLoss x c
  let t4 := t3.peerHoldExpiry x c
  let t5 := t4.holdExpiry x c
  t5.settleExpiry x c

/-! ## A delivered cell -/

/-- What a bearer cell brings (R112). -/
structure BearerCell where
  circuit : Nat
  ssn     : Word
  code    : Code
  phase   : Phase
  samples : List Byte
deriving DecidableEq, Repr

/-- R42: the updates at the delivery of a cell. -/
def Circuit.receive (cell : BearerCell) (r : Circuit) : Circuit :=
  { r with
    counters := { r.counters with received := countUp 65535 r.counters.received }
    silence := 0
    fibreCode := cell.code }

/-- R48: the lead of a cell of arrival offset `off` at the playout offset; absent where no playout offset is. -/
def Circuit.lead (off : Word) (r : Circuit) : Option Int := r.splice.playOffset.map (fun o => diff o off)

/-- R45: the arrival offset is pushed. -/
def Circuit.push (off : Word) (r : Circuit) : Circuit := { r with ring := pushRing r.ring off }

/-- R47: the cell is written. -/
def Circuit.write (cell : BearerCell) (r : Circuit) : Circuit :=
  { r with playout := writeCell cell.code r.playout cell.ssn cell.samples }

/-- R48: a cell with this lead is early. -/
def isEarly (lead : Option Int) : Bool :=
  match lead with
  | some l => decide (473 ≤ l)
  | none => false

/-- R48: a cell with this lead is late. -/
def isLate (lead : Option Int) : Bool :=
  match lead with
  | some l => decide (l ≤ -1)
  | none => false

/-- R48 to R50: lead judgement and write of a cell in the states that play, or are ready to play, fibre. -/
def Circuit.writeJudged (off : Word) (cell : BearerCell) (r : Circuit) : Circuit :=
  if isEarly (r.lead off) then
    { r with counters := { r.counters with early := countUp 65535 r.counters.early } }
  else if isLate (r.lead off) then
    { r.write cell with counters := { r.counters with late := countUp 65535 r.counters.late } }
  else r.write cell

/-- R60, R68: a window is taken of a cell, in the state its phase leaves, as `was` was the state before it. Of the cell that
returns a circuit from HELD the two rules say different things, and the part's choice is free (log 38). -/
def Circuit.takeWindowFrom (was : CircuitState) (a s : Word) (r : Circuit) : Circuit :=
  if was = .held ∧ Config.returningCellIsWindow = false then r else r.takeWindow a s

/-- R43, R51: the work on a delivered cell in the state its phase leaves (Table 3.1); `was` is the state before it. -/
def Trunk.workCell (x : Ctx) (c : Nat) (was : CircuitState) (cell : BearerCell) (t : Trunk) : Trunk :=
  let off := x.frame - cell.ssn
  let r := t.circuit c
  if r.state.beforeSplice then
    (t.modify c (fun r => (((r.push off).write cell).takeObase off).takeWindow x.frame cell.ssn)).arrive x c
  else if r.state.onFibre || r.state == .held then
    if isEarly (r.lead off) then t.modify c (fun r => (r.push off).writeJudged off cell)
    else t.modify c (fun r => ((r.push off).writeJudged off cell).takeWindowFrom was x.frame cell.ssn)
  else t

/-- R42 to R51: a bearer cell delivered to circuit `c` in this frame. An expiry of the silence count that this frame's
boundary has brought is taken before it (R52; log 7). -/
def Trunk.deliver (x : Ctx) (c : Nat) (cell : BearerCell) (t : Trunk) : Trunk :=
  let t1 := (t.bridgeIdle x c).streamLoss x c
  let t2 := t1.modify c (Circuit.receive cell)
  (t2.takePhase x c cell.phase).workCell x c (t2.circuit c).state cell

end Sys2Proof.Machine
end

