-- ==== Sys2Proof/Machine/PathSelector.lean ====
section
/-! DEFINITION. The two ports and the path selector: what a frame brings to a slot (R32, R55, R110), the slot's source
(R34, R36), the guard's start (R39), the sample and supervision given (R35, R37, R38, R54), the quiet-run count (R76) and
the decisions it brings (R78, R88). -/

namespace Sys2Proof.Machine

/-- The fill frame of a run that frame `f` falls in, if it does (R36). -/
def FillRun.covers (run : FillRun) (f : Word) : Bool := decide ((f - run.start).toNat < run.count)

/-- R33, R34, R36: the source of a slot in frame `x.frame`, from the state its circuit has when the frame begins. -/
def Circuit.sourceIn (x : Ctx) (r : Circuit) : Source :=
  if x.station.passes then .copper
  else
    match r.state with
    | .vacant | .copper | .bridging | .aligned | .splicePending | .spliceWait => .copper
    | .spliced | .revertWait | .committed =>
      match r.splice.fill with
      | some run => if run.covers x.frame then .fill else .fibre (r.splice.playOffset.getD 0)
      | none => .fibre (r.splice.playOffset.getD 0)
    | .held => .holdover
    | .down => .outOfService

/-- R32: what the legacy port transmits in the slot. -/
def Circuit.legacySignal (x : Ctx) (sw : Signal) (r : Circuit) : Signal :=
  if r.legacyReleased && !x.station.passes then ⟨idleCodeOf x.settings.law, x.settings.oosCode⟩ else sw

/-- R40: guard remaining after the frame's boundary, if the frame is one. -/
def Guard.count (f : Word) (g : Guard) : Guard := if cyclePos f = 0 then { g with left := g.left - 1 } else g

/-- R39, R76: at a splice frame P or a reverse splice frame Q the guard is loaded, with the code delivered in the frame
before, unless an entry to DOWN has cancelled it (R41; log 33), and the quiet-run count is 0. A boundary at P or Q is not
counted; at a later one a guard that runs is counted as the frame begins, so that its end holds from that frame on (R40). -/
def Circuit.startGuard (x : Ctx) (r : Circuit) : Circuit :=
  if r.splice.switchPoint then
    { r with
      guard := if r.splice.guardOff then none else some ⟨x.settings.params.sigGuard, r.deliveredCode⟩
      splice := { r.splice with switchPoint := false, guardOff := false, ripe := false, quietRun := 0 } }
  else
    { r with
      guard := r.guard.map (Guard.count x.frame)
      splice := { r.splice with guardOff := false, ripe := false } }

/-- A frame begins in slot `c`: the samples and codes of the two highways are taken (R32, R55, R110), the slot's source is
fixed for the frame (R6, R34), and a guard starts at P or Q (R39). -/
def Circuit.openSlot (x : Ctx) (c : Nat) (r : Circuit) : Circuit :=
  let cop := slotOf x.legacyIn c
  let sw := slotOf x.switchIn c
  let r1 := ((r.startGuard x).writeHistory x.frame cop.sample).captureSlot sw
  { r1 with
    copperCode := cop.code
    path := { r1.path with source := r.sourceIn x, given := false, tx := r.legacySignal x sw } }

/-- Whether the frame of the slot is a concealed frame (R54): FIBRE with the sample due absent, or HOLDOVER. -/
def Circuit.conceals (f : Word) (r : Circuit) : Bool :=
  match r.path.source with
  | .fibre o => (r.playoutAt (f - o)).isNone
  | .holdover => true
  | _ => false

/-- R54: the concealed sample, by the run count at the start of the frame. -/
def Circuit.concealed (law : Law) (r : Circuit) : Byte :=
  if r.path.runCount < Config.concealLimit then r.path.lastSample else idleCodeOf law

/-- The sample given to the switch in the open frame (02, section 2.4). -/
def Circuit.slotSample (x : Ctx) (c : Nat) (r : Circuit) : Byte :=
  match r.path.source with
  | .copper => (slotOf x.legacyIn c).sample
  | .fibre o =>
    match r.playoutAt (x.frame - o) with
    | some b => b
    | none => r.concealed x.settings.law
  | .fill => idleCodeOf x.settings.law
  | .holdover => r.concealed x.settings.law
  | .outOfService => idleCodeOf x.settings.law

/-- The supervision delivered in the open frame when no guard runs (R37, R38). -/
def Circuit.slotCode (x : Ctx) (c : Nat) (r : Circuit) : Code :=
  match r.path.source with
  | .copper => (slotOf x.legacyIn c).code
  | .fibre o => if (r.playoutAt (x.frame - o)).isSome then (r.positionOf (x.frame - o)).code else r.deliveredCode
  | .fill => r.deliveredCode
  | .holdover => r.deliveredCode
  | .outOfService => x.settings.oosCode

/-- The supervision delivered in the open frame: the frozen code while a guard runs (R39). In the station states in which
every slot passes, the guard takes no part (R33). -/
def Circuit.guardedCode (x : Ctx) (c : Nat) (r : Circuit) : Code :=
  match r.guard with
  | some g => if x.station.passes then r.slotCode x c else g.frozen
  | none => r.slotCode x c

/-- R76: the quiet-run count after a sample. -/
def quietAfter (st : Settings) (b : Byte) (n : Nat) : Nat := if isActive st b then 0 else countUp 400 n

/-- R78, R88: an update that found Qmin in a state that waits for a quiet run. The splice that it brings is decided by an act
of its own in the same frame, and what comes between finds the circuit still waiting (DESIGN CHOICE, log 49). -/
def Circuit.isRipe (st : Settings) (r : Circuit) (n : Nat) : Bool :=
  (r.state == .spliceWait || r.state == .revertWait) && decide (st.params.qmin ≤ n)

/-- The slot's sample and code of the open frame are given to the switch (R35, R37, R53, R54), and the splice unit updates
the quiet-run count (R76). A guard or fill count that has run out is ended first (R36, R40). -/
def Circuit.giveSlot (x : Ctx) (c : Nat) (r0 : Circuit) : Circuit :=
  let r := (r0.guardEnd).fillEnd x.frame
  let b := r.slotSample x c
  let code := r.guardedCode x c
  let hidden := r.conceals x.frame
  let n := quietAfter x.settings b r.splice.quietRun
  { r with
    deliveredCode := code
    splice := { r.splice with quietRun := n, ripe := r.isRipe x.settings n }
    counters := { r.counters with
      concealed := if hidden then countUp 65535 r.counters.concealed else r.counters.concealed
      fills := if r.path.source = .fill then countUp 65535 r.counters.fills else r.counters.fills }
    path := { r.path with
      lastSample := b
      runCount := if hidden then countUp Config.concealLimit r.path.runCount else 0
      given := true
      rx := ⟨b, code⟩ } }

/-- The frame's read of the playout buffer is the slot's source. -/
def Source.readsBuffer : Source → Bool
  | .fibre _ => true
  | _ => false

/-- The slot is given unless it has been. -/
def Circuit.giveOnce (x : Ctx) (c : Nat) (r : Circuit) : Circuit := if r.path.given then r else r.giveSlot x c

/-- The slot is given before the frame's other commands, unless it plays fibre (R47; log 31). -/
def Circuit.giveEarly (x : Ctx) (c : Nat) (r : Circuit) : Circuit :=
  if r.path.source.readsBuffer then r else r.giveOnce x c

/-- The sample delivered to the switch in the open frame, given or still to be given (R79). -/
def Circuit.sampleOfFrame (x : Ctx) (c : Nat) (r : Circuit) : Byte :=
  if r.path.given then r.path.lastSample else (r.fillEnd x.frame).slotSample x c

/-- R33, R37: in RESET the slots pass, in whatever timing the highways carry, and nothing is counted. The code given is the
copper receive supervision, and the delivered supervision takes it. -/
def Circuit.passSlot (sw lg : Highway) (c : Nat) (r : Circuit) : Circuit :=
  { r with deliveredCode := (slotOf lg c).code, path := { r.path with rx := slotOf lg c, tx := slotOf sw c } }

/-- R78: a QUIET splice, when this frame's update has found Qmin. D is the field as it stands. -/
def Trunk.quietSplice (x : Ctx) (c : Nat) (t : Trunk) : Trunk :=
  let r := t.circuit c
  if r.state = .spliceWait ∧ r.splice.ripe then t.spliceAndServe x c .quiet (r.splice.deficit.getD 0) false else t

/-- R88: a PLANNED reverse splice, when this frame's update has found Qmin. -/
def Trunk.quietReverse (x : Ctx) (c : Nat) (t : Trunk) : Trunk :=
  let r := t.circuit c
  if r.state = .revertWait ∧ r.splice.ripe then t.reverseSplice x c .planned else t

end Sys2Proof.Machine
end

