-- ==== Sys2Proof/Machine/Cells.lean ====
section
/-! DEFINITION. The layouts of the cells (Tables 12.1 and 12.2), the header check and the body checks (R119, R158). -/

namespace Sys2Proof.Machine

/-! ## Codes -/

/-- Phase codes (Table 12.1). -/
def phaseCode : Phase → Nat
  | .bridging => 1
  | .aligned => 2
  | .spliced => 3
  | .reverting => 4
  | .committed => 5
  | .release => 6

/-- The phase of a code, absent for a code that is none of the six (R119). -/
def phaseOfCode : Nat → Option Phase
  | 1 => some .bridging
  | 2 => some .aligned
  | 3 => some .spliced
  | 4 => some .reverting
  | 5 => some .committed
  | 6 => some .release
  | _ => none

/-- Start cause codes (Table 12.1). -/
def causeCode : StartCause → Nat
  | .power => 1
  | .pin => 2
  | .order => 3
  | .timing => 4

/-- Station state codes (Table 12.1). The other states send nothing (R117). -/
def stationCode : StationState → Nat
  | .configBad => 1
  | .listening => 2
  | .operating => 3
  | _ => 0

/-- Outcome codes (Table 12.1). -/
def outcomeCode : ReplyOutcome → Nat
  | .done => 0
  | .partialDone => 1
  | .refused => 2

/-- Reason codes, 1..10 in the order of the reason table (R142). -/
def reasonCode : Reason → Nat
  | .notConfigured => 1
  | .notReady => 2
  | .notBound => 3
  | .mismatch => 4
  | .peerAbsent => 5
  | .laneFull => 6
  | .busy => 7
  | .wrongState => 8
  | .noFallback => 9
  | .badOperand => 10

/-! ## Fields of a received place (Table 12.1). The bits no table assigns are not read (DESIGN CHOICE, log 44). -/

/-- The kind, bits 7..5 of byte 0. -/
def kindOf (bs : List Byte) : Nat := (byteAt bs 0).toNat / 32

/-- The sending, source or replying station, bits 3..0 of byte 0. -/
def senderOf (bs : List Byte) : Nat := lowNibble (byteAt bs 0)

/-- The phase of a bearer cell, bits 6..4 of byte 4. -/
def phaseOf (bs : List Byte) : Option Phase := phaseOfCode (highNibble (byteAt bs 4) % 8)

/-- The target station of an order, bits 3..0 of byte 1. -/
def targetOf (bs : List Byte) : Nat := lowNibble (byteAt bs 1)

/-- R158: a place whose first 6 bytes are all 0 is empty. -/
def isEmptyPlace (bs : List Byte) : Bool := (bytesFrom bs 0 6).all (fun b => b == 0)

/-- R158: the header check of a cell that came on a lane. -/
def headerOk (lane : Nat) (bs : List Byte) : Bool :=
  decide (1 ≤ kindOf bs) && decide (kindOf bs ≤ 4) && decide (senderOf bs = lane) &&
    (decide (kindOf bs ≠ 1) || (phaseOf bs).isSome) && (byteAt bs 5 == crc8 (bytesFrom bs 0 5))

/-- The body check of a beacon: CRC-16 over bytes 6..43 (Table 12.2). -/
def beaconBodyOk (bs : List Byte) : Bool := (crc16 (bytesFrom bs 6 38)).toNat == fieldAt bs 44 2

/-- The body check of an order cell: CRC-16 over bytes 6..7 (12, section 12.1). -/
def orderBodyOk (bs : List Byte) : Bool := (crc16 (bytesFrom bs 6 2)).toNat == fieldAt bs 8 2

/-- R119: the cell passes its body check. Bearer cells have none, and a reply's is not tested. -/
def bodyOk (bs : List Byte) : Bool :=
  if kindOf bs = 2 then beaconBodyOk bs else if kindOf bs = 3 then orderBodyOk bs else true

/-! ## Contents -/

/-- One digest entry of 4 bytes from byte `i` (Table 12.2). Bits 6..4 of its byte 0 are not read (log 44). -/
def digestEntryAt (bs : List Byte) (i : Nat) : DigestEntry :=
  ⟨bitOf (byteAt bs i) 7, lowNibble (byteAt bs i), (byteAt bs (i + 1)).toNat, (byteAt bs (i + 2)).toNat,
   (byteAt bs (i + 3)).toNat + 1⟩

/-- The four bytes of a digest entry (Table 12.2). Bits 6..4 of byte 0, which no table assigns, are sent as 0 (DESIGN CHOICE,
log 44). -/
def digestBytes (d : DigestEntry) : List Byte :=
  [BitVec.ofNat 8 ((if d.valid then 128 else 0) + d.peer % 16), BitVec.ofNat 8 d.localBase, BitVec.ofNat 8 d.peerBase,
   BitVec.ofNat 8 (d.length - 1)]

/-- The eight entries of a window digest that starts at byte `i`. -/
def digestAt (bs : List Byte) (i : Nat) : List DigestEntry := (List.range 8).map (fun k => digestEntryAt bs (i + 4 * k))

/-- What the receiver takes from a beacon (R122, R124): its cycle count, and its digest unless the config-bad flag marks
it absent. -/
structure BeaconCell where
  cycles : Nat
  digest : Option (List DigestEntry)
deriving DecidableEq, Repr

def beaconOf (bs : List Byte) : BeaconCell :=
  ⟨fieldAt bs 6 6, if bitOf (byteAt bs 2) 6 then none else some (digestAt bs 12)⟩

/-- The order an order cell carries (Table 12.1 and the order body). -/
def orderOf (bs : List Byte) : Order :=
  ⟨senderOf bs, byteAt bs 2, (byteAt bs 3).toNat, (byteAt bs 4).toNat, (byteAt bs 6).toNat, (byteAt bs 7).toNat⟩

/-- The bearer cell of phase `ph`, for local circuit `c` (R112, R128). -/
def bearerOf (bs : List Byte) (ph : Phase) (c : Nat) : BearerCell :=
  ⟨c, BitVec.ofNat 16 (fieldAt bs 2 2), BitVec.ofNat 4 (lowNibble (byteAt bs 4)), ph, bytesFrom bs 6 40⟩

/-- The sender's circuit of a bearer cell. -/
def senderCircuitOf (bs : List Byte) : Nat := (byteAt bs 1).toNat

/-- A header of five bytes closed by its CRC-8 (Table 12.1). -/
def withHeaderCheck (h : List Byte) : List Byte := h ++ [crc8 h]

end Sys2Proof.Machine
end

