-- ==== Sys2Proof/Machine/Boot.lean ====
section
/-! DEFINITION. The boot loader: the checks of the record (R134), clamping (R135), validation of the windows (R136) and the
binding of the circuits (R1). -/

namespace Sys2Proof.Machine

/-! ## The checks -/

/-- Byte `i` of the boot memory; a byte the read did not bring is all ones, as a blank memory's is (R134; log 18). -/
def bootByte (bs : List Byte) (i : Nat) : Byte := bs.getD i 0xFF

/-- The record as the loader sees it: 68 bytes from address 0 (12, section 12.4). -/
def bootRecord (bs : List Byte) : List Byte := (List.range 68).map (bootByte bs)

/-- The mark of a record (Table 12.7). -/
def bootMark : List Byte := [0x3A, 0xC5, 0x5C, 0xA3]

/-- R134: the first test that fails gives the configuration fault. `m` is the record of 68 bytes. -/
def bootFault (m : List Byte) : Option ConfigFault :=
  if bytesFrom m 0 4 ≠ bootMark then some .noMemory
  else if byteAt m 4 ≠ 1 then some .unknownVersion
  else if (crc16 (bytesFrom m 0 66)).toNat ≠ fieldAt m 66 2 then some .checkFailed
  else none

/-! ## Parameters -/

/-- The units of Table 4.2. -/
inductive ParamUnit where
  | plain | seconds | milliseconds
deriving DecidableEq, Repr

/-- A row of Table 4.2. -/
structure ParamRow where
  param : Param
  low   : Nat
  high  : Nat
  unit  : ParamUnit
deriving DecidableEq, Repr

/-- Table 4.2, in table order. -/
def paramTable : List ParamRow :=
  [⟨.guard, 8, 64, .plain⟩, ⟨.dmax, 0, 224, .plain⟩, ⟨.qmin, 40, 400, .plain⟩, ⟨.threshold, 0, 127, .plain⟩,
   ⟨.alignTimeout, 1, 60, .seconds⟩, ⟨.bridgeIdle, 20, 1000, .milliseconds⟩, ⟨.streamLoss, 10, 100, .milliseconds⟩,
   ⟨.spliceHold, 0, 10, .seconds⟩, ⟨.settle, 1, 600, .seconds⟩, ⟨.sigGuard, 10, 200, .milliseconds⟩,
   ⟨.idleQualify, 100, 5000, .milliseconds⟩, ⟨.peerHold, 500, 10000, .milliseconds⟩]

/-- A value brought into its range (R135). -/
def ParamRow.clamp (row : ParamRow) (v : Nat) : Nat := max row.low (min v row.high)

/-- The value lay outside its range, which is a clamp. -/
def ParamRow.clamps (row : ParamRow) (v : Nat) : Bool := !decide (row.clamp v = v)

/-- A value in the units the rules use: whole cycles of 5 ms for a time, the smallest number not shorter than it (R135). -/
def ParamUnit.convert : ParamUnit → Nat → Nat
  | .plain, v => v
  | .seconds, v => v * 200
  | .milliseconds, v => (v + 4) / 5

/-- A parameter's value set. -/
def Params.set (p : Params) (v : Nat) : Param → Params
  | .guard => { p with guard := v }
  | .dmax => { p with dmax := v }
  | .qmin => { p with qmin := v }
  | .threshold => { p with threshold := v }
  | .alignTimeout => { p with alignTimeout := v }
  | .bridgeIdle => { p with bridgeIdle := v }
  | .streamLoss => { p with streamLoss := v }
  | .spliceHold => { p with spliceHold := v }
  | .settle => { p with settle := v }
  | .sigGuard => { p with sigGuard := v }
  | .idleQualify => { p with idleQualify := v }
  | .peerHold => { p with peerHold := v }

/-- The table's rows with the values the record holds for them, bytes 10..33 (Table 12.7). -/
def paramValues (m : List Byte) : List (ParamRow × Nat) := paramTable.zipIdx.map (fun e => (e.1, fieldAt m (10 + 2 * e.2) 2))

/-- The parameters after clamping and conversion, before the settle time is compared with the splice hold. -/
def clampedParams (m : List Byte) : Params :=
  (paramValues m).foldl (fun p e => p.set (e.1.unit.convert (e.1.clamp e.2)) e.1.param) Params.start

/-- R135: the settle time raised to the splice hold's count. -/
def Params.raiseSettle (p : Params) : Params := { p with settle := max p.settle p.spliceHold }

/-- The clamped items in the order of Table 12.10. -/
def clampItems (m : List Byte) : List ClampItem :=
  ((paramValues m).filter (fun e => e.1.clamps e.2)).map (fun e => .param e.1.param) ++
    (if (clampedParams m).settle < (clampedParams m).spliceHold then [.settleRaised] else []) ++
    (if 1 < (byteAt m 6).toNat then [.policyCode] else []) ++
    (if 1 < (byteAt m 5).toNat then [.lawCode] else [])

/-- The settings the record puts in force (R135, Table 12.7). A policy or law code that names neither is replaced. -/
def bootSettings (m : List Byte) : Settings where
  law := if (byteAt m 5).toNat = 1 then .a else .mu
  idleCode := BitVec.ofNat 4 (highNibble (byteAt m 7))
  oosCode := BitVec.ofNat 4 (lowNibble (byteAt m 7))
  acceptMask := BitVec.ofNat 16 (fieldAt m 8 2)
  policy := if (byteAt m 6).toNat = 1 then .roll else .hold
  params := (clampedParams m).raiseSettle

/-! ## Windows -/

/-- Window `w` of the record, not yet validated (Table 12.7). -/
def bootWindow (m : List Byte) (w : Nat) : Window :=
  let e := digestEntryAt m (34 + 4 * w)
  ⟨e.valid, e.peer, e.localBase, e.peerBase, e.length, .notLoaded, false⟩

/-- Two ranges of circuits overlap. -/
def overlaps (b₁ l₁ b₂ l₂ : Nat) : Bool := decide (b₁ < b₂ + l₂) && decide (b₂ < b₁ + l₁)

/-- R136: the validity of a window, given the windows before it and the station's number. -/
def Window.validate (n : Nat) (before : List Window) (w : Window) : Validity :=
  let earlier := before.filter (fun v => v.validity == .valid)
  if !w.enabled then .notEnabled
  else if 256 < w.localBase + w.length then .localRange
  else if 256 < w.peerBase + w.length then .peerRange
  else if w.peer = 15 ∨ w.peer = n then .peerNumber
  else if earlier.any (fun v => overlaps w.localBase w.length v.localBase v.length) then .localOverlap
  else if earlier.any (fun v => decide (v.peer = w.peer) && overlaps w.peerBase w.length v.peerBase v.length) then .peerOverlap
  else .valid

/-- R136: windows validated in window order; `before` holds those already validated. -/
def validateAll (n : Nat) : List Window → List Window → List Window
  | before, [] => before
  | before, w :: ws => validateAll n (before ++ [{ w with validity := w.validate n before }]) ws

/-- The window table of the record (R136). -/
def bootWindows (n : Nat) (m : List Byte) : List Window := validateAll n [] ((List.range 8).map (bootWindow m))

/-- The window of a table is enabled and VALID. -/
def Window.inForce (w : Window) : Bool := w.enabled && w.validity == .valid

/-- Circuit `c` lies in the window's local range. -/
def Window.holds (w : Window) (c : Nat) : Bool := decide (w.localBase ≤ c) && decide (c < w.localBase + w.length)

/-- R1: the binding of circuit `c`. -/
def bindingOf (ws : List Window) (c : Nat) : Option Binding :=
  (ws.zipIdx.find? (fun e => e.1.inForce && e.1.holds c)).map
    (fun e => ⟨e.2, e.1.peer, e.1.peerBase + (c - e.1.localBase)⟩)

/-- R1, R137: a bound circuit is in COPPER, the rest stay VACANT. -/
def Circuit.bind (b : Option Binding) (r : Circuit) : Circuit :=
  match b with
  | some b => { r.enter .copper with binding := some b }
  | none => r

/-! ## The end of the read -/

/-- R134: the record failed a test. -/
def State.configBad (f : ConfigFault) (s : State) : State :=
  { s with stationState := .configBad, configFault := some f, bootReading := false }

/-- R135 to R138: the record is good. The settings come into force, the circuits are bound and LISTENING begins. A boundary
of the frame that is still to be counted is not one of the four (R138). -/
def State.configGood (m : List Byte) (s : State) : State :=
  let ws := bootWindows (s.stationNo.getD 15) m
  { s with
    stationState := .listening
    bootReading := false
    settings := bootSettings m
    clampCount := (clampItems m).length
    clampedItems := clampItems m
    windows := ws
    listenLeft := if s.todo.boundary then 5 else 4
    trunk := s.trunk.mapCircuits (fun c r => r.bind (bindingOf ws c)) }

/-- The checks of R134 on the record of 68 bytes, and what they bring. -/
def State.endRead (m : List Byte) (s : State) : State :=
  match bootFault m with
  | some f => s.configBad f
  | none => s.configGood m

/-- R133: the read of the boot record may end in this frame, at least 1 and at most 40 frames after frame 0 (log 21).
The time is told by the frame count: a station to which no completion has come by frame 40 stays in LOADING with its read in
progress, and takes one again in those frames after the wrap of the count (DESIGN CHOICE, log 45). -/
def State.readMayEnd (s : State) : Bool :=
  s.stationState == .loading && s.bootReading && decide (1 ≤ (s.frameCount.getD 0).toNat) &&
    decide ((s.frameCount.getD 0).toNat ≤ 40)

end Sys2Proof.Machine
end

