-- ==== Sys2Proof/Machine/Operands.lean ====
section
/-! DEFINITION. The orders' values, operand kinds and operand ranges (Table 12.4, R144, R148, R151, R159), and the circuits
an operand names. -/

namespace Sys2Proof.Machine

/-- The row of the opcode table an order belongs to, by its value; absent for a value that names no order. A REVERT whose
operand kind is 4 names LAST (R146). -/
def Order.row (o : Order) : Option OrderRow :=
  match o.value with
  | 1 => some .cut
  | 2 => some (if o.kind = 4 then .revertLast else .revert)
  | 3 => some .force
  | 4 => some .commit
  | 5 => some .pause
  | 6 => some .resume
  | 7 => some .queryCircuit
  | 8 => some .queryStation
  | 9 => some .takeReports
  | 10 => some .restart
  | _ => none

/-- A circuit or a group operand: every circuit number is in range, a window number is 0..7 (R144). The operand byte of
kind 3, all, is not read (DESIGN CHOICE, log 48). -/
def Order.circuitsOk (o : Order) : Bool :=
  decide (o.kind = 1) || (decide (o.kind = 2) && decide (o.operand ≤ 7)) || decide (o.kind = 3)

/-- The last segment of a part of QUERY STATION (Table 12.6). -/
def lastSegment : Nat → Nat
  | 2 => 14
  | 3 => 1
  | _ => 0

/-- The operand is of a kind the order takes and in range (Table 12.4, R144, R148, R151, R159). The operand byte of a kind
that carries no value (0 none, 3 all, 4 LAST) is not read and not tested: any value is accepted (DESIGN CHOICE, log 48). -/
def Order.operandOk (o : Order) : OrderRow → Bool
  | .cut | .revert | .commit => o.circuitsOk
  | .revertLast => decide (o.kind = 4)
  | .force => decide (o.kind = 1)
  | .pause | .resume | .restart => decide (o.kind = 0)
  | .queryCircuit => decide (o.kind = 1) && decide (o.segment ≤ 1)
  | .queryStation => decide (o.kind = 5) && decide (o.operand ≤ 3) && decide (o.segment ≤ lastSegment o.operand)
  | .takeReports => decide (o.kind = 6) && decide (1 ≤ o.operand) && decide (o.operand ≤ 4)

/-- The circuits of a window's local range, in ascending number. -/
def Window.circuits (w : Window) : List Nat := (List.range w.length).map (fun i => w.localBase + i)

/-- Every bound circuit, in ascending number. -/
def Trunk.boundCircuits (t : Trunk) : List Nat := (List.range Config.circuits).filter (fun c => (t.circuit c).binding.isSome)

/-- What an operand names (R144). -/
inductive Named where
  | circuit (c : Nat)
  | group (cs : List Nat)
  | invalidWindow
deriving DecidableEq, Repr

/-- The circuits an order's operand names, its operand being good. -/
def Order.named (o : Order) (s : State) : Named :=
  if o.kind = 1 then .circuit o.operand
  else if o.kind = 2 then
    match s.windows[o.operand]? with
    | some w => if w.validity = .valid then .group w.circuits else .invalidWindow
    | none => .invalidWindow
  else .group s.trunk.boundCircuits

end Sys2Proof.Machine
end

