-- ==== Sys2Proof/Machine/Transmit.lean ====
section
/-! DEFINITION. The lane transmitter: bearer cells (R111 to R114), the beacon (R122), replies (12, section 12.1), the
service place (R118) and the lane frame (R117). -/

namespace Sys2Proof.Machine

/-! ## Bearer cells -/

/-- The bearer cell built in frame `f` at station `n` for circuit `c` (R112, Table 12.1). The bits no table assigns, bit 4 of
byte 0 and bit 7 of byte 4, are sent as 0 (DESIGN CHOICE, log 44). -/
def bearerCellBytes (n : Nat) (f : Word) (c : Nat) (r : Circuit) : List Byte :=
  match r.state.announces with
  | none => []
  | some ph =>
    withHeaderCheck
      ([BitVec.ofNat 8 (32 + n % 16), BitVec.ofNat 8 c] ++ be 2 (f - 39).toNat ++
        [BitVec.ofNat 8 (phaseCode ph * 16 + r.captureCode.toNat)]) ++ r.capture

/-- R111: the cells of row `F mod 40`, in row order. -/
def Trunk.rowCells (n : Nat) (f : Word) (t : Trunk) : List (List Byte) :=
  (t.row (cyclePos f)).map (fun c => bearerCellBytes n f c (t.circuit c))

/-- R114: the build of a release cell, and the leave at the fourth (R109). -/
def Trunk.countRelease (c : Nat) (t : Trunk) : Trunk :=
  let r := t.circuit c
  if r.state = .copper ∧ 0 < r.releaseCells then
    let t1 := t.modify c (fun r => { r with releaseCells := r.releaseCells - 1 })
    if r.releaseCells = 1 then t1.leaveCalendar c else t1
  else t

/-- The counts and leaves that the build of the frame's row brings. -/
def Trunk.countRow (x : Ctx) (t : Trunk) : Trunk := (t.row (cyclePos x.frame)).foldl (fun t c => t.countRelease c) t

/-- The frame's row is built, unless it has been (R111, R113). -/
def State.buildRow (s : State) : State :=
  if s.todo.build then
    { s with
      bearerPlaces := s.trunk.rowCells (s.stationNo.getD 15) (s.frameCount.getD 0)
      trunk := s.trunk.countRow s.ctx
      todo := { s.todo with build := false } }
  else s

/-! ## The beacon and the replies -/

/-- The digest entry of a window (R122). -/
def Window.digest (w : Window) : DigestEntry :=
  ⟨w.enabled && w.validity == .valid, w.peer, w.localBase, w.peerBase, w.length⟩

/-- The beacon body, bytes 6..43 (Table 12.2). -/
def State.beaconBody (s : State) : List Byte :=
  be 6 s.cycleCount ++
    (if s.stationState = .configBad then List.replicate 32 0 else (s.windows.map (fun w => digestBytes w.digest)).flatten)

/-- The beacon (R122, Tables 12.1 and 12.2). The bits no table assigns, bit 4 of byte 0 and bits 5..4 of byte 2, are sent as
0 (DESIGN CHOICE, log 44). -/
def State.beaconBytes (s : State) : List Byte :=
  withHeaderCheck
    [BitVec.ofNat 8 (64 + s.stationNo.getD 15 % 16),
     BitVec.ofNat 8 (stationCode s.stage * 16 + causeCode s.startCause),
     BitVec.ofNat 8 ((if s.paused then 128 else 0) + (if s.stationState = .configBad then 64 else 0) + s.trunk.fallback.length),
     0, 0] ++ s.beaconBody ++ be 2 (crc16 s.beaconBody).toNat

/-- A reply's payload length and payload. -/
def Reply.body (r : Reply) : List Byte := BitVec.ofNat 8 r.payload.length :: r.payload

/-- The reply cell of station `n` (Table 12.1 and the reply body). The bits no table assigns, bit 4 of byte 0 and bits 7..6 of
byte 1, are sent as 0 (DESIGN CHOICE, log 44). -/
def Reply.bytes (n : Nat) (r : Reply) : List Byte :=
  withHeaderCheck
    [BitVec.ofNat 8 (128 + n % 16), BitVec.ofNat 8 (outcomeCode r.outcome * 16 + r.addressee % 16), r.tag,
     BitVec.ofNat 8 r.value, BitVec.ofNat 8 ((r.reason.map reasonCode).getD 0)] ++ r.body ++ be 2 (crc16 r.body).toNat

/-- R118: the service place is filled by the cycle position, unless it has been. A station that sends no lane frame has none
to fill (R117, R122). -/
def State.fillService (s : State) : State :=
  if s.todo.service && s.stationState.onStar then
    let s1 := { s with todo := { s.todo with service := false } }
    if cyclePos (s.frameCount.getD 0) = 0 then { s1 with servicePlace := .beacon s.beaconBytes }
    else
      match s.replyQueue with
      | [] => s1
      | r :: rest => { s1 with servicePlace := .reply r, replyQueue := rest }
  else s

/-! ## The lane frame -/

/-- The bytes of the service place. -/
def ServicePlace.bytes (n : Nat) : ServicePlace → List Byte
  | .empty => []
  | .beacon bs => bs
  | .reply r => r.bytes n

/-- The lane frame of the open frame: six bearer places of 46 bytes, then the service place of 68 (12, section 12.1). -/
def State.laneFrame (s : State) : LaneFrame :=
  ⟨(s.bearerPlaces ++ List.replicate (Config.rowPlaces - s.bearerPlaces.length) []).map (padTo 46),
   padTo 68 (s.servicePlace.bytes (s.stationNo.getD 15))⟩

/-- R117: the lane frame is sent in the three station states that send one. -/
def State.sendLane (s : State) : State :=
  { s with laneOut := if s.stationState.onStar then some s.laneFrame else none }

end Sys2Proof.Machine
end

