-- ==== Sys2Proof/Machine/Replies.lean ====
section
/-! DEFINITION. The reply payloads (12, sections 12.3; Tables 12.5, 12.6, 12.8 to 12.12). -/

namespace Sys2Proof.Machine

/-! ## Codes -/

/-- Report kinds, 1..18 in the order of Table 11.1. -/
def reportCode : ReportKind → Nat
  | .started => 1
  | .peerLost => 2
  | .peerBack => 3
  | .peerRestart => 4
  | .aligned => 5
  | .alignTimeout => 6
  | .alignLost => 7
  | .bridgeIdle => 8
  | .delayExcess => 9
  | .spliced => 10
  | .reverted => 11
  | .committed => 12
  | .forcedCommit => 13
  | .legacyReleased => 14
  | .held => 15
  | .down => 16
  | .laneFull => 17
  | .mismatch => 18

/-- Splice kinds (Table 12.5). -/
def spliceCode : SpliceKind → Nat
  | .seamless => 1
  | .quiet => 2
  | .forced => 3
  | .idle => 4

/-- Reverse splice kinds (Table 12.5). -/
def reverseCode : ReverseKind → Nat
  | .planned => 5
  | .forced => 6
  | .urgent => 7

/-- The last splice kind (Table 12.8). -/
def lastKindCode : LastKind → Nat
  | .splice k => spliceCode k
  | .reverse k => reverseCode k

/-- The variant of a report (Table 12.5). -/
def variantCode : ReportVariant → Nat
  | .start c => causeCode c
  | .splice k => spliceCode k
  | .reverse k => reverseCode k

/-- Circuit states (Table 12.8). -/
def circuitStateCode : CircuitState → Nat
  | .vacant => 0
  | .copper => 1
  | .bridging => 2
  | .aligned => 3
  | .splicePending => 4
  | .spliceWait => 5
  | .spliced => 6
  | .revertWait => 7
  | .committed => 8
  | .held => 9
  | .down => 10

/-- Window validity (Table 12.6). -/
def validityCode : Validity → Nat
  | .valid => 0
  | .notLoaded => 1
  | .notEnabled => 2
  | .localRange => 3
  | .peerRange => 4
  | .peerNumber => 5
  | .localOverlap => 6
  | .peerOverlap => 7

/-- Configuration faults (Table 12.10). -/
def configFaultCode : ConfigFault → Nat
  | .noMemory => 1
  | .unknownVersion => 2
  | .checkFailed => 3

/-- Peer-table states (Table 12.11). -/
def peerStateCode : PeerState → Nat
  | .absent => 0
  | .present => 1
  | .lost => 2

/-- The bit of a clamped item (Table 12.10): the parameters in the order of Table 4.2, then the three others. -/
def clampBit : ClampItem → Nat
  | .param .guard => 0
  | .param .dmax => 1
  | .param .qmin => 2
  | .param .threshold => 3
  | .param .alignTimeout => 4
  | .param .bridgeIdle => 5
  | .param .streamLoss => 6
  | .param .spliceHold => 7
  | .param .settle => 8
  | .param .sigGuard => 9
  | .param .idleQualify => 10
  | .param .peerHold => 11
  | .settleRaised => 12
  | .policyCode => 13
  | .lawCode => 14

/-! ## Bytes of items -/

/-- A one-byte value. -/
def byteOf (v : Nat) : Byte := BitVec.ofNat 8 v

/-- An optional item of `n` bytes; an absent item's bytes are 0 (R157, R160). -/
def optBytes (n : Nat) (v : Option Nat) : List Byte := be n (v.getD 0)

/-- The numbers of the set flags, as bits of a byte from bit 0 upward. -/
def bits (fs : List Bool) : Nat := fs.foldr (fun f n => 2 * n + (if f then 1 else 0)) 0

/-- The three splice flags, from bit 0: lost-activity, blind, activity-gap (Table 12.8). -/
def SpliceFlags.bits (f : SpliceFlags) : Nat := Machine.bits [f.lostActivity, f.blind, f.activityGap]

/-- A 16-bit signed value in two's complement (R160). -/
def signed16 (v : Int) : Nat := (BitVec.ofInt 16 v).toNat

/-! ## The circuit and group replies (12, section 12.3) -/

/-- A reply about one circuit: its number, and that it is present. -/
def circuitPayload (c : Nat) : List Byte := [byteOf c, 0x80]

/-- A reply about no circuit (R146). -/
def noCircuitPayload : List Byte := [0, 0]

/-- The count byte of a group reply. A count of 256 does not fit, and its byte is the free value of number `used`
(log 11). -/
def countByte (used n : Nat) : Byte := if n < 256 then byteOf n else Config.freeByte used

/-- The four bytes of a group reply: named, accepted, the lowest refused circuit and its presence (R144; log 13). The
bits of the presence byte below bit 7 are sent as 0 (log 44). -/
def groupPayload (used named accepted : Nat) (lowest : Option Nat) : List Byte :=
  [countByte used named, countByte (used + 1) accepted, byteOf (lowest.getD 0), if lowest.isSome then 0x80 else 0]

/-! ## QUERY CIRCUIT (Tables 12.8 and 12.9) -/

/-- The offset at which a query gives the lead statistics (R91). -/
def Circuit.statOffset (r : Circuit) : Option Word :=
  match r.splice.playOffset, r.align.offset with
  | some o', _ => some o'
  | none, some o => some o
  | none, none => r.align.obase

/-- The smallest and the largest lead a query gives (R91). -/
def Circuit.leadStats (r : Circuit) : Option Int × Option Int :=
  match r.statOffset with
  | some x => (leadMin x r.ring, leadMax x r.ring)
  | none => (none, none)

/-- The offset of the lowest position of the candidate set, absent with Obase (R72). -/
def Circuit.lowestOffset (r : Circuit) : Option Word :=
  match r.align.obase, r.align.candidates.lowest with
  | some ob, some k => some (domainOffset ob k)
  | _, _ => none

/-- Table 12.8, bytes 2..34. The bits of the flag bytes that the table does not assign are sent as 0 (DESIGN CHOICE,
log 44). -/
def Circuit.segment0 (r : Circuit) : List Byte :=
  let stats := r.leadStats
  presenceBytes 2
    [r.binding.isSome, r.align.obase.isSome, r.lowestOffset.isSome, r.align.offset.isSome, r.splice.playOffset.isSome,
     r.splice.deficit.isSome, r.splice.lastKind.isSome, stats.1.isSome, stats.2.isSome] ++
  [byteOf (circuitStateCode r.state)] ++
  (match r.binding with
    | some b => [byteOf b.window, byteOf b.peer, byteOf b.circuit]
    | none => [0, 0, 0]) ++
  [byteOf (bits [r.legacyReleased, r.deferredRevert]), byteOf ((r.peerPhase.map phaseCode).getD 0)] ++
  optBytes 2 (r.align.obase.map BitVec.toNat) ++ be 2 r.align.candidates.size ++
  optBytes 2 (r.lowestOffset.map BitVec.toNat) ++ [byteOf r.align.contributing] ++
  optBytes 2 (r.align.offset.map BitVec.toNat) ++ [byteOf r.align.verifyMiss] ++
  be 2 r.align.idleQualify ++ be 2 r.counters.mismatches ++
  optBytes 2 (r.splice.playOffset.map BitVec.toNat) ++ optBytes 1 r.splice.deficit ++
  optBytes 1 (r.splice.lastKind.map lastKindCode) ++ [byteOf r.splice.flags.bits] ++ be 2 r.splice.quietRun ++
  optBytes 2 (stats.1.map signed16) ++ optBytes 2 (stats.2.map signed16)

/-- The place of a circuit in a list, 1 for the head. -/
def placeIn (c : Nat) (cs : List Nat) : Option Nat := (cs.idxOf? c).map (fun i => i + 1)

/-- The place of a circuit in its calendar row (R106, R116). -/
def Trunk.rowPlace (t : Trunk) (c : Nat) : Option Nat :=
  match (t.circuit c).calendarRow with
  | some k => placeIn c (t.row k)
  | none => none

/-- Hold remaining as it is shown: a hold that has reached 0 is about to become absent (Table 12.9; log 29). -/
def LiveFields.holdShown (l : LiveFields) : Option Nat :=
  match l.hold with
  | some (h + 1) => some (h + 1)
  | _ => none

/-- The three optional items of a record: splice frame, settle remaining, hold remaining. -/
def FallbackRecord.frame? (f : FallbackRecord) : Option Nat := f.live.map (fun l => l.frame.toNat)
def FallbackRecord.settle? (f : FallbackRecord) : Option Nat := f.live.map LiveFields.settle
def FallbackRecord.hold? (f : FallbackRecord) : Option Nat := f.live.bind LiveFields.holdShown

/-- Record status (Table 12.9). -/
def FallbackRecord.statusCode (f : FallbackRecord) : Nat := if f.live.isSome then 1 else 0

/-- Table 12.9, bytes 2..31. Bits 7..4 of the delivered supervision are sent as 0 (DESIGN CHOICE, log 44). -/
def Trunk.segment1 (t : Trunk) (c : Nat) : List Byte :=
  let r := t.circuit c
  let rec? := t.recordOf c
  let settle := rec?.bind FallbackRecord.settle?
  let hold := rec?.bind FallbackRecord.hold?
  let queued := placeIn c t.waitQueue
  presenceBytes 1
    [r.calendarRow.isSome, (t.rowPlace c).isSome, queued.isSome, rec?.isSome, settle.isSome, hold.isSome] ++
  [byteOf (r.copperCode.toNat * 16 + r.fibreCode.toNat), byteOf r.deliveredCode.toNat,
   byteOf ((r.guard.map Guard.left).getD 0)] ++
  be 2 r.stateTimer ++ be 2 r.silence ++ [byteOf r.releaseCells] ++
  optBytes 1 r.calendarRow ++ optBytes 1 (t.rowPlace c) ++ optBytes 1 queued ++
  optBytes 1 (rec?.map FallbackRecord.statusCode) ++ optBytes 3 settle ++ optBytes 2 hold ++
  be 2 r.counters.received ++ be 2 r.counters.late ++ be 2 r.counters.early ++ be 2 r.counters.concealed ++
  be 2 r.counters.mismatches ++ be 2 r.counters.fills

/-- The payload of QUERY CIRCUIT (R150, R159). -/
def Trunk.circuitSegment (t : Trunk) (c segment : Nat) : List Byte :=
  circuitPayload c ++ (if segment = 0 then (t.circuit c).segment0 else t.segment1 c)

/-! ## QUERY STATION (Tables 12.6 and 12.10 to 12.12) -/

/-- Calendar places occupied (R116). -/
def Trunk.placesHeld (t : Trunk) : Nat := ((List.range Config.calendarRows).map (fun k => (t.row k).length)).sum

/-- Rows that hold 6 circuits (R116). -/
def Trunk.fullRows (t : Trunk) : Nat :=
  ((List.range Config.calendarRows).filter (fun k => decide (Config.rowPlaces ≤ (t.row k).length))).length

/-- Entries whose state is PRESENT (R131). -/
def State.presentPeers (s : State) : Nat := ((List.range 15).filter (fun p => (s.peer p).state == .present)).length

/-- Windows whose matched flag is set (R131). -/
def State.matchedWindows (s : State) : Nat := (s.windows.filter Window.matched).length

/-- The bits of the clamped items (Table 12.10). -/
def clampedField (is : List ClampItem) : Nat :=
  ((List.range 15).filter (fun b => is.any (fun i => decide (clampBit i = b)))).foldl (fun n b => n + 2 ^ b) 0

/-- Table 12.10. -/
def State.summary (s : State) : List Byte :=
  presenceBytes 1 [s.configFault.isSome] ++
  [byteOf (stationCode s.stage), byteOf (s.stationNo.getD 0), byteOf (causeCode s.startCause)] ++
  be 6 s.cycleCount ++ optBytes 1 (s.configFault.map configFaultCode) ++ [byteOf s.clampCount] ++
  be 2 (clampedField s.clampedItems) ++
  [byteOf s.trunk.placesHeld, byteOf s.trunk.fullRows, byteOf s.presentPeers, byteOf s.matchedWindows,
   byteOf s.trunk.reports.length, byteOf s.trunk.reportOverflow, byteOf s.orderOverflow]

/-- A window of the WINDOWS part (Table 12.6; log 14): the digest bytes, whose bit 7 is the valid flag of Table 12.2. -/
def Window.bytes (w : Window) : List Byte :=
  digestBytes w.digest ++ [byteOf (validityCode w.validity), if w.matched then 1 else 0]

/-- The WINDOWS part. -/
def State.windowsPart (s : State) : List Byte := (s.windows.map Window.bytes).flatten

/-- Table 12.11, for the station numbered by the segment. -/
def State.peerPart (s : State) (p : Nat) : List Byte :=
  let e := s.peer p
  presenceBytes 1 [e.cycles.isSome, e.digest.isSome] ++ [byteOf (peerStateCode e.state), byteOf e.miss] ++
  optBytes 6 e.cycles ++ [byteOf e.unbound, byteOf e.headerErrors] ++
  (match e.digest with
    | some ds => (ds.map digestBytes).flatten
    | none => List.replicate 32 0)

/-- The nine bytes of a record place; a place beyond the record count is zeros (Table 12.12). -/
def recordBytes : Option FallbackRecord → List Byte
  | none => List.replicate 9 0
  | some f =>
    [byteOf f.circuit, byteOf f.statusCode] ++ optBytes 2 f.frame? ++ optBytes 3 f.settle? ++ optBytes 2 f.hold?

/-- The presence bits of a record place. -/
def recordFlags : Option FallbackRecord → List Bool
  | none => [false, false, false]
  | some f => [f.frame?.isSome, f.settle?.isSome, f.hold?.isSome]

/-- The four record places from place `i`. -/
def Trunk.recordPlaces (t : Trunk) (i : Nat) : List (Option FallbackRecord) :=
  (List.range 4).map (fun k => t.fallback[i + k]?)

/-- Policy codes (Table 12.12). -/
def policyCode : Policy → Nat
  | .hold => 0
  | .roll => 1

/-- Table 12.12, segment 0. -/
def State.fallbackPart0 (s : State) : List Byte :=
  let ps := s.trunk.recordPlaces 0
  presenceBytes 2 ((!s.trunk.waitQueue.isEmpty) :: (ps.map recordFlags).flatten) ++
  [byteOf (policyCode s.settings.policy), if s.paused then 1 else 0, byteOf s.trunk.fallback.length,
   byteOf s.trunk.waitQueue.length] ++
  optBytes 1 s.trunk.waitQueue.head? ++ (ps.map recordBytes).flatten

/-- Table 12.12, segment 1. -/
def State.fallbackPart1 (s : State) : List Byte :=
  let ps := s.trunk.recordPlaces 4
  presenceBytes 2 (ps.map recordFlags).flatten ++ (ps.map recordBytes).flatten

/-- The payload of QUERY STATION naming a part and a segment (R151, R159). -/
def State.stationSegment (s : State) (part segment : Nat) : List Byte :=
  match part with
  | 0 => s.summary
  | 1 => s.windowsPart
  | 2 => s.peerPart segment
  | _ => if segment = 0 then s.fallbackPart0 else s.fallbackPart1

/-! ## TAKE REPORTS (Table 12.5) -/

/-- A report record. Bit 7 of byte 1, which no table assigns, is sent as 0 (DESIGN CHOICE, log 44). -/
def Report.bytes (r : Report) : List Byte :=
  [byteOf (reportCode r.kind),
   byteOf (bits [r.circuit.isSome, r.station.isSome, r.variant.isSome, r.detail.isSome, r.flags.lostActivity, r.flags.blind,
     r.flags.activityGap])] ++
  optBytes 1 r.circuit ++ optBytes 1 r.station ++ optBytes 1 (r.variant.map variantCode) ++ optBytes 2 r.detail ++
  be 4 r.time

/-- The reports of a TAKE REPORTS reply, oldest first. -/
def reportsPayload (rs : List Report) : List Byte := (rs.map Report.bytes).flatten

end Sys2Proof.Machine
end

