-- ==== Sys2Proof/Machine/OrderUnit.lean ====
section
/-! DEFINITION. The order unit: what each order does (R9, R18, R79, R102, R145 to R151, R156), what the station state
admits (R143), and the taking of the order at the head of the queue (R141). -/

namespace Sys2Proof.Machine

/-! ## Orders on one circuit: the trunk after, and the reason of a refusal -/

/-- R9: the tests of a CUT in OPERATING, and the entry to BRIDGING. -/
def Trunk.cutOne (x : Ctx) (c : Nat) (t : Trunk) : Trunk × Option Reason :=
  let r := t.circuit c
  match r.binding with
  | none => (t, some .notBound)
  | some b =>
    if r.state ≠ .copper then (t, some .wrongState)
    else if r.releaseCells ≠ 0 then (t, some .busy)
    else if x.matched b.window = false then (t, some .mismatch)
    else if x.present b.peer = false then (t, some .peerAbsent)
    else
      match t.join c with
      | none => (t, some .laneFull)
      | some t1 => (t1.modify c (Circuit.toBridging x.settings.params), none)

/-- R18: a REVERT on one circuit. -/
def Trunk.revertOne (x : Ctx) (c : Nat) (t : Trunk) : Trunk × Option Reason :=
  match (t.circuit c).state with
  | .vacant => (t, some .notBound)
  | .copper => (t, some .wrongState)
  | .bridging | .aligned | .splicePending | .spliceWait => (t.abandonWith x c none, none)
  | .spliced =>
    if t.holdRuns c then (t.modify c (fun r => { r with deferredRevert := true }), none) else (t.toRevertWait c, none)
  | .revertWait => (t, none)
  | .committed | .held => (t, some .noFallback)
  | .down => (t.modify c (Circuit.enter .copper), none)

/-- R147, R19: a COMMIT on one circuit. -/
def Trunk.commitOne (x : Ctx) (c : Nat) (t : Trunk) : Trunk × Option Reason :=
  match (t.circuit c).state with
  | .spliced => ((t.commit x c .committed none).serve x, none)
  | .vacant => (t, some .notBound)
  | _ => (t, some .wrongState)

/-- R147, R79, R89: a FORCE. -/
def Trunk.forceOne (x : Ctx) (c : Nat) (t : Trunk) : Trunk × Option Reason :=
  let r := t.circuit c
  match r.state with
  | .spliceWait =>
    (t.spliceAndServe x c .forced (r.splice.deficit.getD 0) (isActive x.settings (r.sampleOfFrame x c)), none)
  | .revertWait => (t.reverseSplice x c .forced, none)
  | .vacant => (t, some .notBound)
  | _ => (t, some .wrongState)

/-! ## Answers -/

/-- An order that was done, with its payload. -/
def Answer.done (payload : List Byte) : Answer := ⟨.done, none, payload⟩

/-- An order that was refused. -/
def Answer.refused (r : Reason) (payload : List Byte) : Answer := ⟨.refused, some r, payload⟩

/-- The answer about one circuit (R145 to R147). -/
def circuitAnswer (c : Nat) : Option Reason → Answer
  | none => .done (circuitPayload c)
  | some r => .refused r (circuitPayload c)

/-- A group's circuits taken in ascending order, each seeing what those before it left (R144): the trunk after, and each
circuit's outcome. -/
def runGroup (f : Nat → Trunk → Trunk × Option Reason) : List Nat → Trunk → Trunk × List (Nat × Option Reason)
  | [], t => (t, [])
  | c :: cs, t =>
    let one := f c t
    let rest := runGroup f cs one.1
    (rest.1, (c, one.2) :: rest.2)

/-- The circuits accepted. -/
def acceptedOf (rs : List (Nat × Option Reason)) : Nat := (rs.filter (fun e => e.2.isNone)).length

/-- The lowest refused circuit with its reason. -/
def firstRefused (rs : List (Nat × Option Reason)) : Option (Nat × Option Reason) := rs.find? (fun e => e.2.isSome)

/-- The outcome of a group (R144). -/
def groupOutcome (rs : List (Nat × Option Reason)) : ReplyOutcome :=
  if acceptedOf rs = rs.length then .done else if acceptedOf rs = 0 then .refused else .partialDone

/-- The answer about a group (R144). -/
def groupAnswer (used : Nat) (rs : List (Nat × Option Reason)) : Answer :=
  ⟨groupOutcome rs, (firstRefused rs).bind Prod.snd,
   groupPayload used rs.length (acceptedOf rs) ((firstRefused rs).map Prod.fst)⟩

/-- The free values a group reply uses: two when its counts may not fit a byte (log 11). -/
def freeAfter (named used : Nat) : Nat := if named < 256 then used else used + 2

/-- The payload of an order refused before it is carried out (12, section 12.3; R144): the circuit reply, the group reply
that names none, and no report for a TAKE REPORTS, whose reply is report records alone. A layout
the manual does not state is the free value of number `used` (log 10). -/
def Order.refusedPayload (used : Nat) (o : Order) : List Byte :=
  let free := Config.freePayload used
  match o.row, o.kind with
  | some .cut, 1 | some .revert, 1 | some .force, 1 | some .commit, 1 => circuitPayload o.operand
  | some .cut, 2 | some .cut, 3 | some .revert, 2 | some .revert, 3 | some .commit, 2 | some .commit, 3 =>
    groupPayload used 0 0 none
  | some .revertLast, 4 => noCircuitPayload
  | some .pause, 0 | some .resume, 0 => []
  | some .takeReports, _ => reportsPayload []
  | some .queryCircuit, 1 => circuitPayload o.operand ++ free.take 54
  | _, _ => free.take 56

/-- An order refused with NOT_CONFIGURED or BAD_OPERAND: nothing changes. -/
def State.refuse (r : Reason) (o : Order) (s : State) : State × Answer :=
  ({ s with freeUsed := s.freeUsed + 1 }, .refused r (o.refusedPayload s.freeUsed))

/-- An order on circuits carried out on what its operand names (R144). -/
def State.onNamed (f : Ctx → Nat → Trunk → Trunk × Option Reason) (o : Order) (s : State) : State × Answer :=
  match o.named s with
  | .circuit c =>
    let one := f s.ctx c s.trunk
    ({ s with trunk := one.1 }, circuitAnswer c one.2)
  | .group cs =>
    let all := runGroup (f s.ctx) cs s.trunk
    ({ s with trunk := all.1, freeUsed := freeAfter cs.length s.freeUsed }, groupAnswer s.freeUsed all.2)
  | .invalidWindow => (s, .refused .notBound (groupPayload 0 0 0 none))

/-! ## The orders, their operands being good -/

/-- R143: a CUT refused as a whole in LISTENING. -/
def State.cutNotReady (o : Order) (s : State) : State × Answer :=
  match o.named s with
  | .circuit c => (s, .refused .notReady (circuitPayload c))
  | .group cs =>
    ({ s with freeUsed := freeAfter cs.length s.freeUsed },
     .refused .notReady (groupPayload s.freeUsed cs.length 0 cs.head?))
  | .invalidWindow => (s, .refused .notReady (groupPayload 0 0 0 none))

/-- R145, R138. -/
def State.doCut (o : Order) (s : State) : State × Answer :=
  if s.stage = .operating then s.onNamed Trunk.cutOne o else s.cutNotReady o

/-- R146, naming a circuit, a window or all. -/
def State.doRevert (o : Order) (s : State) : State × Answer := s.onNamed Trunk.revertOne o

/-- R104, R146: LAST. -/
def State.doRevertLast (s : State) : State × Answer :=
  match s.trunk.newestLive with
  | none => (s, .refused .noFallback noCircuitPayload)
  | some c =>
    let one := s.trunk.revertOne s.ctx c
    ({ s with trunk := one.1 }, circuitAnswer c one.2)

/-- R147: FORCE. -/
def State.doForce (o : Order) (s : State) : State × Answer := s.onNamed Trunk.forceOne o

/-- R147: COMMIT. -/
def State.doCommit (o : Order) (s : State) : State × Answer := s.onNamed Trunk.commitOne o

/-- R102, R148: PAUSE. -/
def State.doPause (s : State) : State × Answer := ({ s with paused := true }, .done [])

/-- R102: the serving a RESUME starts. -/
def Trunk.resume (x : Ctx) (t : Trunk) : Trunk := if t.hasRoom then t.serve x else t.serveLive x

/-- R102, R148: RESUME. -/
def State.doResume (s : State) : State × Answer :=
  if s.paused then ({ s with paused := false }.onTrunk Trunk.resume, .done []) else (s, .done [])

/-- R150: QUERY CIRCUIT. A VACANT circuit is refused, and its payload still carries the record. -/
def State.doQueryCircuit (o : Order) (s : State) : State × Answer :=
  let payload := s.trunk.circuitSegment o.operand o.segment
  if (s.circuit o.operand).state = .vacant then (s, .refused .notBound payload) else (s, .done payload)

/-- R151: QUERY STATION. -/
def State.doQueryStation (o : Order) (s : State) : State × Answer := (s, .done (s.stationSegment o.operand o.segment))

/-- R148, R156: TAKE REPORTS. -/
def State.doTakeReports (o : Order) (s : State) : State × Answer :=
  ({ s with trunk := { s.trunk with reports := s.trunk.reports.drop o.operand } },
   .done (reportsPayload (s.trunk.reports.take o.operand)))

/-- R149: RESTART. -/
def State.doRestart (s : State) : State × Answer := ({ s with restartTaken := true }, .done [])

/-! ## Admission and taking -/

/-- What an order of a row does when it is carried out. -/
def State.act (row : OrderRow) (o : Order) (s : State) : State × Answer :=
  match row with
  | .cut => s.doCut o
  | .revert => s.doRevert o
  | .revertLast => s.doRevertLast
  | .force => s.doForce o
  | .commit => s.doCommit o
  | .pause => s.doPause
  | .resume => s.doResume
  | .queryCircuit => s.doQueryCircuit o
  | .queryStation => s.doQueryStation o
  | .takeReports => s.doTakeReports o
  | .restart => s.doRestart

/-- R143 in CONFIG_BAD: QUERY STATION, whose operand is tested, and RESTART. -/
def State.carryOutUnconfigured (o : Order) (s : State) : State × Answer :=
  match o.row with
  | some .queryStation => if o.operandOk .queryStation then s.doQueryStation o else s.refuse .badOperand o
  | some .restart => s.doRestart
  | _ => s.refuse .notConfigured o

/-- R143: what the station state admits, and the test of the operand. -/
def State.carryOut (o : Order) (s : State) : State × Answer :=
  if s.stationState = .configBad then s.carryOutUnconfigured o
  else
    match o.row with
    | none => s.refuse .badOperand o
    | some row => if o.operandOk row then s.act row o else s.refuse .badOperand o

/-- R141, R143, R149: the order unit takes orders now. -/
def State.takes (s : State) : Bool :=
  s.stationState.onStar && decide (s.replyQueue.length < Config.replyPlaces) && !s.restartTaken

/-- The reply to an order (R142). -/
def Order.reply (o : Order) (a : Answer) : Reply := ⟨o.source, o.tag, o.value, a.outcome, a.reason, a.payload⟩

/-- R141: the order at the head leaves the queue, is carried out, and its reply is placed at the tail. -/
def State.takeHead (s : State) : State :=
  match s.orderQueue with
  | [] => s
  | o :: rest =>
    let done := { s with orderQueue := rest }.carryOut o
    { done.1 with replyQueue := done.1.replyQueue ++ [o.reply done.2] }

/-- Orders taken while the unit takes them, at most `n`. -/
def State.takeOrders : Nat → State → State
  | 0, s => s
  | n + 1, s => if s.takes && !s.orderQueue.isEmpty then State.takeOrders n s.takeHead else s

/-- Every order that can be taken is taken (R141). -/
def State.takeAll (s : State) : State := s.takeOrders s.orderQueue.length

/-- Orders at the head whose value names no order are taken and refused; they have no row of their own (log 9). -/
def State.takeNameless : Nat → State → State
  | 0, s => s
  | n + 1, s =>
    match s.orderQueue with
    | o :: _ => if o.row.isNone && s.takes then State.takeNameless n s.takeHead else s
    | [] => s

/-- The order at the head is taken, if the unit takes orders and that order is of the row; else nothing happens (log 9). -/
def State.takeAs (row : OrderRow) (s : State) : State :=
  let s1 := s.takeNameless s.orderQueue.length
  match s1.orderQueue with
  | o :: _ => if o.row = some row ∧ s1.takes then s1.takeHead else s
  | [] => s

end Sys2Proof.Machine
end

