-- ==== Sys2Proof/Machine/Peers.lean ====
section
/-! DEFINITION. The peer table: counts at a boundary and loss (R125), the handing of a loss or a restart to the circuits
(R126, R127), and the matched flags (R129). -/

namespace Sys2Proof.Machine

/-- R125: the count a cycle boundary makes in an entry. The entry becomes LOST by `State.losePeer`; until then it stands
PRESENT with a miss count of 4, and what looks at it in that frame sees it so (DESIGN CHOICE, log 42). -/
def PeerEntry.countBoundary (e : PeerEntry) : PeerEntry :=
  if e.state = .present then
    if e.heard then { e with heard := false } else { e with miss := countUp Config.missedBeacons e.miss }
  else e

/-- R125: the entry's miss count has reached 4. -/
def PeerEntry.lossDue (e : PeerEntry) : Bool := e.state == .present && decide (Config.missedBeacons ≤ e.miss)

/-- R125, R127: station `p` is LOST; the report is entered, then the loss is handed to the circuits (R153). It comes with
the command PEER_LOSS, with a beacon of the station, or at the close of the frame (DESIGN CHOICE, log 42). -/
def State.losePeer (p : Nat) (s : State) : State :=
  if (s.peer p).lossDue then
    (s.setPeer p { s.peer p with state := .lost }).onTrunk (fun x t => (t.reportStation x p .peerLost).peerEvents x p)
  else s

/-- Every loss that is due, in ascending station number. -/
def State.losePeers (s : State) : State := (List.range 15).foldl (fun s p => s.losePeer p) s

/-- R129: the digest entry agrees with the window, at station `n`. -/
def DigestEntry.agrees (n : Nat) (w : Window) (d : DigestEntry) : Bool :=
  d.valid && decide (d.peer = n) && decide (d.localBase = w.peerBase) && decide (d.peerBase = w.localBase) &&
    decide (d.length = w.length)

/-- R129: whether the window is matched by its peer's digest. -/
def Window.matchedBy (n : Nat) (digest : Option (List DigestEntry)) (w : Window) : Bool :=
  w.inForce &&
    match digest with
    | some ds => ds.any (DigestEntry.agrees n w)
    | none => false

/-- R124, R129: the matched flags of the windows to station `p` are formed again. -/
def State.reformMatched (p : Nat) (s : State) : State :=
  { s with windows := s.windows.map (fun w =>
      if w.peer = p then { w with matched := w.matchedBy (s.stationNo.getD 15) (s.peer p).digest } else w) }

/-- R126, R127: a detected restart of station `p`: the circuits first, then the report. -/
def State.peerRestart (p : Nat) (s : State) : State :=
  s.onTrunk (fun x t => (t.peerEvents x p).reportStation x p .peerRestart)

/-- R124: what a beacon does by the entry's state and the two counts. -/
def State.judgeBeacon (p cycles : Nat) (s : State) : State :=
  match (s.peer p).state, (s.peer p).cycles with
  | .absent, _ => s
  | .present, some old => if cycles < old then s.peerRestart p else s
  | .present, none => s
  | .lost, some old =>
    if cycles < old then s.peerRestart p else s.onTrunk (fun x t => t.reportStation x p .peerBack)
  | .lost, none => s.onTrunk (fun x t => t.reportStation x p .peerBack)

/-- R124: what a beacon does in every case. -/
def PeerEntry.hear (b : BeaconCell) (e : PeerEntry) : PeerEntry :=
  { e with state := .present, miss := 0, heard := true, cycles := some b.cycles, digest := b.digest }

/-- R124: a beacon that has passed its checks and the mask. A loss that the frame's boundary has brought is taken before it
(R125; log 7). -/
def State.takeBeacon (p : Nat) (b : BeaconCell) (s : State) : State :=
  let s1 := (s.losePeer p).judgeBeacon p b.cycles
  (s1.setPeer p ((s1.peer p).hear b)).reformMatched p

end Sys2Proof.Machine
end

