-- ==== Sys2Proof/Machine/Frame.lean ====
section
/-! DEFINITION. A frame of the station: its opening (R28), its works, the events that are due in it, its closing with the
lane frame (R117), and the start from RESET (R132, R133). The order of works is log 4 and log 5. -/

namespace Sys2Proof.Machine

/-! ## The works of the open frame -/

/-- R4, R97, R125, R138: the counts of a cycle boundary. -/
def State.countBoundary (s : State) : State :=
  { s with
    todo := { s.todo with boundary := false }
    trunk := s.trunk.countBoundary
    peers := Table.build PeerEntry.start 15 (fun p => (s.peer p).countBoundary)
    listenLeft := if s.stationState = .listening then s.listenLeft - 1 else s.listenLeft }

/-- The boundary of the open frame is counted, unless it has been or the frame is none. -/
def State.settleBoundary (s : State) : State := if s.todo.boundary then s.countBoundary else s

/-- R70: the idle-qualify test of circuit `c` in the open frame. -/
def Circuit.testIdle (x : Ctx) (c : Nat) (r : Circuit) : Circuit :=
  r.countIdle x.settings (decide (cyclePos x.frame = 0)) (slotOf x.switchIn c).code

/-- R70: the frame's idle-qualify tests that have not been made. -/
def State.countIdles (s : State) : State :=
  if s.todo.idle then
    { s.onTrunk (fun x t => t.mapCircuits (fun c r => if s.todo.tested.contains c then r else r.testIdle x c)) with
      todo := { s.todo with idle := false } }
  else s

/-- R70: the frame's idle-qualify test of circuit `c`, unless it has been made. -/
def State.testIdle (c : Nat) (s : State) : State :=
  if s.todo.idle && !s.todo.tested.contains c then
    { s.onTrunk (fun x t => t.modify c (fun r => r.testIdle x c)) with
      todo := { s.todo with tested := c :: s.todo.tested } }
  else s

/-- R34, R35: every slot that has not been given is given, unless all have been. -/
def State.giveAll (s : State) : State :=
  if s.todo.select then
    { s.onTrunk (fun x t => t.mapCircuits (fun c r => r.giveOnce x c)) with todo := { s.todo with select := false } }
  else s

/-- R34: the slots that do not play fibre are given before the frame's other commands. -/
def State.giveSome (s : State) : State := s.onTrunk (fun x t => t.mapCircuits (fun c r => r.giveEarly x c))

/-- R34: the slot of circuit `c` is given, unless it has been or plays fibre. -/
def State.giveSlotEarly (c : Nat) (s : State) : State :=
  if s.todo.select then s.onTrunk (fun x t => t.modify c (fun r => r.giveEarly x c)) else s

/-- R138: the entry to OPERATING, when no boundary of LISTENING is left. -/
def State.endListening (s : State) : State :=
  if s.stationState = .listening ∧ s.listenLeft = 0 then { s with stationState := .operating } else s

/-- The reply is the one a RESTART that was carried out has placed (R149). -/
def Reply.isRestart (r : Reply) : Bool := decide (r.value = 10) && r.outcome == .done

/-- R149: the open frame's service place carries the RESTART's reply. -/
def State.sendsRestart (s : State) : Bool :=
  s.restartTaken &&
    match s.servicePlace with
    | .reply r => r.isRestart
    | _ => false

/-! ## Works among the commands -/

/-- One work of the open frame, unless it has been done. -/
def State.doWork (w : Work) (s : State) : State :=
  match w with
  | .boundary => s.settleBoundary
  | .idle c => s.testIdle c
  | .slot c => s.giveSlotEarly c
  | .build => s.buildRow
  | .service => s.fillService

/-- With no command waiting, the next of the works that come among the frame's commands is done; with none the block idles
(log 1, log 39). -/
def State.tick (s : State) : State :=
  match s.todo.between with
  | [] => s
  | w :: ws => { s with todo := { s.todo with between := ws } }.doWork w

/-! ## Closing -/

/-- The due events of the open frame, in the order the model takes them when no command does (log 5). -/
def State.takeEvents (s : State) : State :=
  ((s.losePeers.onTrunk (fun x t => t.forEach (fun c t => t.takeDue x c))).endListening).onTrunk
    (fun x t => t.forEach (fun c t => t.windowJudgement x c))

/-- The splices and reverse splices that this frame's updates of the quiet-run counts bring (R78, R88). An update made earlier
in the frame waits until here when no quiet-run command has taken it (DESIGN CHOICE, log 49). -/
def State.takeQuiet (s : State) : State :=
  s.onTrunk (fun x t => t.forEach (fun c t => (t.quietSplice x c).quietReverse x c))

/-- The due events, the waiting orders and the path selection with its splices, in the order the frame has for them
(R78, R88; log 5). -/
def State.takeRest (s : State) : State :=
  if s.todo.late then s.countIdles.giveAll.takeQuiet.takeEvents.takeAll
  else s.takeEvents.takeAll.countIdles.giveAll.takeQuiet

/-- The rest of the open frame's works and events. -/
def State.finishFrame (s : State) : State := (s.settleBoundary.takeRest.buildRow.fillService.takeAll).sendLane

/-- The open frame is closed: its works are finished and its lane frame is sent. With the miss count at 16 the TIMING
start is taken instead (R29; log 22), and with the RESTART's reply sent the ORDER start follows (R149; log 28). -/
def State.closeFrame (s : State) : State :=
  if Config.missedMarkers ≤ s.missCount then s.start .timing
  else
    let s1 := s.finishFrame
    if s1.sendsRestart then { s1.start .order with laneOut := s1.laneOut } else s1

/-! ## Opening -/

/-- R28: the count of the next frame. -/
def nextFrame (f : Option Word) : Word :=
  match f with
  | none => 0
  | some f => f + 1

/-- R122: the cycle count in frame `f`, which is not the first. -/
def nextCycles (f : Word) (n : Nat) : Nat := if cyclePos f = 0 then countUp 281474976710655 n else n

/-- The records of the list no longer became LIVE in the open frame. -/
def FallbackRecord.age (f : FallbackRecord) : FallbackRecord :=
  { f with live := f.live.map (fun l => { l with fresh := false }) }

/-- The slots of a frame that begins (R32, R34, R39, R55, R110). -/
def Trunk.openSlots (x : Ctx) (t : Trunk) : Trunk :=
  { t.mapCircuits (fun c r => r.openSlot x c) with fallback := t.fallback.map FallbackRecord.age }

/-- The works of a frame that the order of the frame puts before its other commands (log 4). -/
def State.earlyWorks (o : FrameOrder) (s : State) : State :=
  let s1 := if o.boundaryLast then s else s.settleBoundary
  let s2 := if o.idleFirst then s1.countIdles else s1
  let s3 := if o.selectFirst then s2.giveSome else s2
  let s4 := if o.buildFirst then s3.buildRow else s3
  if o.serviceFirst then s4.fillService else s4

/-- The counts and the signals of the frame that begins. The first frame after a start is no boundary to count: what a
start sets is not counted in it (R122). -/
def State.beginFrame (sw lg : Highway) (late : Bool) (between : List Work) (s : State) : State :=
  let f := nextFrame s.frameCount
  { s with
    frameCount := some f
    cycleCount := if s.frameCount.isSome then nextCycles f s.cycleCount else s.cycleCount
    todo := ⟨s.frameCount.isSome && decide (cyclePos f = 0), true, true, true, true, late, [], between⟩
    switchIn := sw
    legacyIn := lg
    bearerPlaces := []
    servicePlace := .empty }

/-- A frame begins with the signals of the two highways, and its early works are done. -/
def State.openFrame (sw lg : Highway) (o : FrameOrder) (s : State) : State :=
  ((s.beginFrame sw lg o.eventsLast o.between).onTrunk Trunk.openSlots).earlyWorks o

/-! ## From RESET -/

/-- R33: slots pass in RESET, and no frame is counted (R29; log 36). -/
def State.passThrough (sw lg : Highway) (s : State) : State :=
  { s with trunk := s.trunk.mapCircuits (fun c r => r.passSlot sw lg c) }

/-- R132: what holds the station in RESET besides the want of a marker. -/
def State.heldInReset (s : State) : Bool := s.pinAsserted || !s.powerGood

/-- R132, R133: frame 0 begins, in LOADING with the read of the boot memory begun, or in OFF_STAR with straps of 15. -/
def State.beginLoading (straps : BitVec 4) (s : State) : State :=
  { s with
    stationState := if straps = 15 then .offStar else .loading
    stationNo := some straps.toNat
    bootReading := !decide (straps = 15) }

/-- A frame marker that finds the station in RESET. -/
def State.markerInReset (sw lg : Highway) (straps : BitVec 4) (o : FrameOrder) (s : State) : State :=
  if s.heldInReset then s.passThrough sw lg else (s.beginLoading straps).openFrame sw lg o

/-- R28, R29: a frame marker arrives. The open frame is closed and the next begins. -/
def State.marker (sw lg : Highway) (straps : BitVec 4) (o : FrameOrder) (s : State) : State :=
  if s.stationState = .reset then s.markerInReset sw lg straps o
  else
    let s1 := s.closeFrame
    if s1.stationState = .reset then s1.markerInReset sw lg straps o
    else { s1 with missCount := 0 }.openFrame sw lg o

/-- R29: an expected marker does not arrive. In RESET no frames and no misses are counted (log 34). The frame of
the sixteenth miss is opened as a normal one: until TIMING_LOSS or the next marker takes the start, its other commands act on
the station as it stands, in its old station state with a miss count of 16 (DESIGN CHOICE, log 46). -/
def State.missedMarker (sw lg : Highway) (o : FrameOrder) (s : State) : State :=
  if s.stationState = .reset then s.passThrough sw lg
  else
    let s1 := s.closeFrame
    if s1.stationState = .reset then s1.passThrough sw lg
    else { s1 with missCount := countUp Config.missedMarkers s1.missCount }.openFrame sw lg o

end Sys2Proof.Machine
end

