-- ==== Sys2Proof/Machine/Receiver.lean ====
section
/-! DEFINITION. The lane receiver: the checks and the sorting of a place (R119, R120, R158), the window lookup (R128), and
the arrival of an order (R121, R140). -/

namespace Sys2Proof.Machine

/-- R117, R119: the station hears the lane. -/
def State.hears (lane : Nat) (s : State) : Bool :=
  s.stationState.onStar && decide (lane < 15) && !decide (s.stationNo = some lane)

/-- R119: the header-error counter of the lane's entry. -/
def State.headerError (lane : Nat) (s : State) : State :=
  s.setPeer lane { s.peer lane with headerErrors := countUp 255 (s.peer lane).headerErrors }

/-- R128: the unbound-cell counter of the sender's entry. -/
def State.unboundCell (p : Nat) (s : State) : State :=
  s.setPeer p { s.peer p with unbound := countUp 255 (s.peer p).unbound }

/-- R120: the accept mask holds station `p`. -/
def State.heeds (p : Nat) (s : State) : Bool := s.settings.acceptMask.getLsbD p

/-- R128: the window maps circuit `q` of station `p`. -/
def Window.maps (p q : Nat) (w : Window) : Bool :=
  w.inForce && decide (w.peer = p) && decide (w.peerBase ≤ q) && decide (q < w.peerBase + w.length)

/-- R10: the phase of a cell from an unmatched window. Release cells remaining are not asked for: R114 is read as speaking of
the cells that are delivered (DEDUCED, log 50). -/
def Trunk.mismatch (x : Ctx) (c : Nat) (ph : Phase) (t : Trunk) : Trunk :=
  if (t.circuit c).state = .copper ∧ ph.startsFollow then t.reportPlain x c .mismatch else t

/-- R128: a bearer cell from station `p` that has passed the header check and the mask. -/
def State.takeBearer (p : Nat) (bs : List Byte) (ph : Phase) (s : State) : State :=
  match s.windows.find? (Window.maps p (senderCircuitOf bs)) with
  | none => s.unboundCell p
  | some w =>
    let c := w.localBase + (senderCircuitOf bs - w.peerBase)
    if w.matched then s.onTrunk (fun x t => t.deliver x c (bearerOf bs ph c))
    else if s.stage = .operating then (s.unboundCell p).onTrunk (fun x t => t.mismatch x c ph)
    else s.unboundCell p

/-- R121: the order is addressed to this station. -/
def State.addressed (bs : List Byte) (s : State) : Bool :=
  decide (targetOf bs = 15) || decide (s.stationNo = some (targetOf bs))

/-- R140: an order joins the order queue, or is discarded and counted. -/
def State.joinOrder (o : Order) (s : State) : State :=
  if s.orderQueue.length < Config.orderPlaces then { s with orderQueue := s.orderQueue ++ [o] }
  else { s with orderOverflow := countUp 255 s.orderOverflow }

/-- R121, R140, R141: an order that has passed its checks. The orders before it that can be taken have been. -/
def State.takeOrderCell (bs : List Byte) (s : State) : State :=
  if s.addressed bs then s.takeAll.joinOrder (orderOf bs) else s

/-- R119: a cell that has passed its checks is handed on by its kind. -/
def State.handOn (lane : Nat) (bs : List Byte) (s : State) : State :=
  match kindOf bs with
  | 1 =>
    match phaseOf bs with
    | some ph => if s.heeds lane then s.takeBearer lane bs ph else s
    | none => s
  | 2 => if s.heeds lane then s.takeBeacon lane (beaconOf bs) else s
  | 3 => s.takeOrderCell bs
  | _ => s

/-- R119, R158: a place of a lane frame, received whole in this frame. The receiver sorts it by its own kind field
(log 20). -/
def State.receivePlace (lane : Nat) (bs : List Byte) (s : State) : State :=
  if s.hears lane = false then s
  else if isEmptyPlace bs then s
  else if headerOk lane bs && bodyOk bs then s.handOn lane bs
  else s.headerError lane

end Sys2Proof.Machine
end

