-- ==== Sys2Proof/Machine/Events.lean ====
section
/-! DEFINITION. The meanings of the part's own events. An event that is not due changes nothing (log 3); one that a cycle
boundary brings finds the boundary of its frame counted. -/

namespace Sys2Proof.Machine

/-- WINDOW_JUDGEMENT (R61). -/
def execWindowJudgement (c : Nat) (s : State) : Host.Outcome State Fault Refusal :=
  .next (s.onTrunk (fun x t => t.windowJudgement x c))

/-- ALIGNMENT_TIMEOUT (R14). -/
def execAlignmentTimeout (c : Nat) (s : State) : Host.Outcome State Fault Refusal :=
  .next (s.settleBoundary.onTrunk (fun x t => t.alignmentTimeout x c))

/-- BRIDGE_IDLE_WATCHDOG (R15). -/
def execBridgeIdleWatchdog (c : Nat) (s : State) : Host.Outcome State Fault Refusal :=
  .next (s.settleBoundary.onTrunk (fun x t => t.bridgeIdle x c))

/-- STREAM_LOSS (R21). -/
def execStreamLoss (c : Nat) (s : State) : Host.Outcome State Fault Refusal :=
  .next (s.settleBoundary.onTrunk (fun x t => t.streamLoss x c))

/-- PEER_HOLD_EXPIRY (R26). -/
def execPeerHoldExpiry (c : Nat) (s : State) : Host.Outcome State Fault Refusal :=
  .next (s.settleBoundary.onTrunk (fun x t => t.peerHoldExpiry x c))

/-- HOLD_EXPIRY (R97). -/
def execHoldExpiry (c : Nat) (s : State) : Host.Outcome State Fault Refusal :=
  .next (s.settleBoundary.onTrunk (fun x t => t.holdExpiry x c))

/-- SETTLE_EXPIRY (R97). -/
def execSettleExpiry (c : Nat) (s : State) : Host.Outcome State Fault Refusal :=
  .next (s.settleBoundary.onTrunk (fun x t => t.settleExpiry x c))

/-- GUARD_END (R40). -/
def execGuardEnd (c : Nat) (s : State) : Host.Outcome State Fault Refusal :=
  .next (s.onTrunk (fun _ t => t.modify c Circuit.guardEnd))

/-- FILL_END (R36). -/
def execFillEnd (c : Nat) (s : State) : Host.Outcome State Fault Refusal :=
  .next (s.onTrunk (fun x t => t.modify c (Circuit.fillEnd x.frame)))

/-- PEER_LOSS (R125). -/
def execPeerLoss (station : Nat) (s : State) : Host.Outcome State Fault Refusal :=
  .next (s.settleBoundary.losePeer station)

/-- The sample of slot `c` is given and its quiet-run count updated, unless that has been done (R76). -/
def State.giveSlotNow (c : Nat) (s : State) : State :=
  if (s.circuit c).path.given then s
  else s.onTrunk (fun x t => t.modify c (Circuit.giveOnce x c))

/-- This frame's update of the circuit's count found Qmin while the circuit waits in state `st` (R78, R88). -/
def State.ripeIn (st : CircuitState) (c : Nat) (s : State) : Bool := (s.circuit c).state == st && (s.circuit c).splice.ripe

/-- R78, in the frame of the update; without such an update nothing changes (log 3). The update may stand before it in the
frame, with other commands between the two (DESIGN CHOICE, log 49). -/
def State.quietRunSplice (c : Nat) (s : State) : State :=
  let s1 := s.giveSlotNow c
  if s1.ripeIn .spliceWait c then s1.onTrunk (fun x t => t.quietSplice x c) else s

/-- QUIET_RUN_SPLICE (R78). -/
def execQuietRunSplice (c : Nat) (s : State) : Host.Outcome State Fault Refusal := .next (s.quietRunSplice c)

/-- R88, in the frame of the update; without such an update nothing changes (log 3). -/
def State.quietRunReverseSplice (c : Nat) (s : State) : State :=
  let s1 := s.giveSlotNow c
  if s1.ripeIn .revertWait c then s1.onTrunk (fun x t => t.quietReverse x c) else s

/-- QUIET_RUN_REVERSE_SPLICE (R88). -/
def execQuietRunReverseSplice (c : Nat) (s : State) : Host.Outcome State Fault Refusal :=
  .next (s.quietRunReverseSplice c)

/-- The open frame's row is still to be built and its build of circuit `c` is the fourth release cell (R114). -/
def State.lastReleaseDue (c : Nat) (s : State) : Bool :=
  s.todo.build && (s.trunk.row (cyclePos (s.frameCount.getD 0))).contains c && (s.circuit c).state == .copper &&
    decide ((s.circuit c).releaseCells = 1)

/-- LAST_RELEASE_CELL (R114): the row is built, and the circuit leaves the calendar with it. -/
def execLastReleaseCell (c : Nat) (s : State) : Host.Outcome State Fault Refusal :=
  .next (if s.lastReleaseDue c then s.buildRow else s)

end Sys2Proof.Machine
end

