-- ==== Sys2Proof/Machine/Orders.lean ====
section
/-! DEFINITION. The meanings of the orders taken: each takes the order at the head of the order queue, when it is of its
row (R141; log 9). -/

namespace Sys2Proof.Machine

/-- CUT (R145). -/
def execCut (s : State) : Host.Outcome State Fault Refusal := .next (s.takeAs .cut)

/-- REVERT (R146). -/
def execRevert (s : State) : Host.Outcome State Fault Refusal := .next (s.takeAs .revert)

/-- REVERT_LAST (R104). -/
def execRevertLast (s : State) : Host.Outcome State Fault Refusal := .next (s.takeAs .revertLast)

/-- FORCE (R147). -/
def execForce (s : State) : Host.Outcome State Fault Refusal := .next (s.takeAs .force)

/-- COMMIT (R147). -/
def execCommit (s : State) : Host.Outcome State Fault Refusal := .next (s.takeAs .commit)

/-- PAUSE (R148). -/
def execPause (s : State) : Host.Outcome State Fault Refusal := .next (s.takeAs .pause)

/-- RESUME (R148). -/
def execResume (s : State) : Host.Outcome State Fault Refusal := .next (s.takeAs .resume)

/-- QUERY_CIRCUIT (R150). -/
def execQueryCircuit (s : State) : Host.Outcome State Fault Refusal := .next (s.takeAs .queryCircuit)

/-- QUERY_STATION (R151). -/
def execQueryStation (s : State) : Host.Outcome State Fault Refusal := .next (s.takeAs .queryStation)

/-- TAKE_REPORTS (R156). -/
def execTakeReports (s : State) : Host.Outcome State Fault Refusal := .next (s.takeAs .takeReports)

/-- RESTART (R149). -/
def execRestart (s : State) : Host.Outcome State Fault Refusal := .next (s.takeAs .restart)

end Sys2Proof.Machine
end

