-- ==== Sys2Proof/Machine/Reception.lean ====
section
/-! DEFINITION. The meanings of the four cells heard on the star. -/

namespace Sys2Proof.Machine

/-- BEARER_CELL (R128). -/
def execBearerCell (lane : Nat) (place : List Byte) (s : State) : Host.Outcome State Fault Refusal :=
  .next (s.receivePlace lane place)

/-- BEACON (R124). -/
def execBeacon (lane : Nat) (place : List Byte) (s : State) : Host.Outcome State Fault Refusal :=
  .next (s.receivePlace lane place)

/-- ORDER_CELL (R121). -/
def execOrderCell (lane : Nat) (place : List Byte) (s : State) : Host.Outcome State Fault Refusal :=
  .next (s.receivePlace lane place)

/-- REPLY_CELL (R119). -/
def execReplyCell (lane : Nat) (place : List Byte) (s : State) : Host.Outcome State Fault Refusal :=
  .next (s.receivePlace lane place)

end Sys2Proof.Machine
end

