-- ==== Sys2Proof/Machine/StartUp.lean ====
section
/-! DEFINITION. The meanings of the commands of starts and frames: POWER_ON, RESET_PIN, RESET_PIN_RELEASE, TIMING_LOSS,
ORDER_START, FRAME_MARKER, MISSED_FRAME_MARKER, BOOT_READ_COMPLETE, LISTENING_END. -/

namespace Sys2Proof.Machine

/-- POWER_ON: a start of cause POWER; power is good from then on (R132; log 26). -/
def execPowerOn (s : State) : Host.Outcome State Fault Refusal := .next ({ s with powerGood := true }.start .power)

/-- RESET_PIN: a start of cause PIN, and the pin holds the station in RESET (R132). -/
def execResetPin (s : State) : Host.Outcome State Fault Refusal := .next ({ s with pinAsserted := true }.start .pin)

/-- The pin released. With power good the release is taken as a start of cause PIN: the recorded cause becomes PIN, and every
item is set to its start value again, what slots have passed and delivered since the assertion among them (R132; log 43). -/
def State.releasePin (s : State) : State :=
  if s.pinAsserted then
    if s.powerGood then { s with pinAsserted := false }.start .pin else { s with pinAsserted := false }
  else s

/-- RESET_PIN_RELEASE (R132). A pin that is not asserted cannot be released (log 3). -/
def execResetPinRelease (s : State) : Host.Outcome State Fault Refusal := .next s.releasePin

/-- The TIMING start, when the miss count has reached 16. No misses are counted in RESET (R29, R132). What the frame's other
commands do before it is the model's choice (log 46). -/
def State.timingLoss (s : State) : State :=
  if Config.missedMarkers ≤ s.missCount ∧ s.stationState ≠ .reset then s.start .timing else s

/-- TIMING_LOSS (R29). -/
def execTimingLoss (s : State) : Host.Outcome State Fault Refusal := .next s.timingLoss

/-- The RESTART's reply is in the open frame's service place, or is the one that its filling will put there (R118, R149). -/
def State.restartLeaves (s : State) : Bool :=
  s.sendsRestart ||
    (s.restartTaken && s.todo.service && s.stationState.onStar && decide (cyclePos (s.frameCount.getD 0) ≠ 0) &&
      match s.replyQueue with
      | r :: _ => r.isRestart
      | [] => false)

/-- The lane frame that carries the RESTART's reply is sent, and the start follows it. The frame is closed by it (log 35). -/
def State.orderStart (s : State) : State := if s.restartLeaves then s.closeFrame else s

/-- ORDER_START (R149). -/
def execOrderStart (s : State) : Host.Outcome State Fault Refusal := .next s.orderStart

/-- FRAME_MARKER (R28, R132, R133). -/
def execFrameMarker (switchIn legacyIn : Highway) (straps : BitVec 4) (order : FrameOrder) (s : State) :
    Host.Outcome State Fault Refusal :=
  .next (s.marker switchIn legacyIn straps order)

/-- MISSED_FRAME_MARKER (R29). -/
def execMissedFrameMarker (switchIn legacyIn : Highway) (order : FrameOrder) (s : State) :
    Host.Outcome State Fault Refusal :=
  .next (s.missedMarker switchIn legacyIn order)

/-- The end of the boot read, with the bytes the memory holds (R133, R134). -/
def State.bootReadComplete (bytes : List Byte) (s : State) : State :=
  if s.readMayEnd then s.endRead (bootRecord bytes) else s

/-- BOOT_READ_COMPLETE (R134). -/
def execBootReadComplete (bytes : List Byte) (s : State) : Host.Outcome State Fault Refusal :=
  .next (s.bootReadComplete bytes)

/-- LISTENING_END (R138). -/
def execListeningEnd (s : State) : Host.Outcome State Fault Refusal := .next s.settleBoundary.endListening

end Sys2Proof.Machine
end

