-- ==== Sys2Proof/Machine/Dispatch.lean ====
section
/-! DEFINITION. The effect of every command. -/

namespace Sys2Proof.Machine

def exec (i : Instr) (s : State) : Host.Outcome State Fault Refusal :=
  match i with
  | .powerOn => Sys2Proof.Machine.execPowerOn s
  | .resetPin => Sys2Proof.Machine.execResetPin s
  | .frameMarker sw lg straps order => Sys2Proof.Machine.execFrameMarker sw lg straps order s
  | .missedFrameMarker sw lg order => Sys2Proof.Machine.execMissedFrameMarker sw lg order s
  | .timingLoss => Sys2Proof.Machine.execTimingLoss s
  | .bootReadComplete record => Sys2Proof.Machine.execBootReadComplete record s
  | .listeningEnd => Sys2Proof.Machine.execListeningEnd s
  | .bearerCell lane place => Sys2Proof.Machine.execBearerCell lane place s
  | .beacon lane place => Sys2Proof.Machine.execBeacon lane place s
  | .orderCell lane place => Sys2Proof.Machine.execOrderCell lane place s
  | .replyCell lane place => Sys2Proof.Machine.execReplyCell lane place s
  | .windowJudgement c => Sys2Proof.Machine.execWindowJudgement c s
  | .alignmentTimeout c => Sys2Proof.Machine.execAlignmentTimeout c s
  | .bridgeIdleWatchdog c => Sys2Proof.Machine.execBridgeIdleWatchdog c s
  | .streamLoss c => Sys2Proof.Machine.execStreamLoss c s
  | .peerHoldExpiry c => Sys2Proof.Machine.execPeerHoldExpiry c s
  | .holdExpiry c => Sys2Proof.Machine.execHoldExpiry c s
  | .settleExpiry c => Sys2Proof.Machine.execSettleExpiry c s
  | .guardEnd c => Sys2Proof.Machine.execGuardEnd c s
  | .fillEnd c => Sys2Proof.Machine.execFillEnd c s
  | .peerLoss p => Sys2Proof.Machine.execPeerLoss p s
  | .quietRunSplice c => Sys2Proof.Machine.execQuietRunSplice c s
  | .quietRunReverseSplice c => Sys2Proof.Machine.execQuietRunReverseSplice c s
  | .lastReleaseCell c => Sys2Proof.Machine.execLastReleaseCell c s
  | .cut => Sys2Proof.Machine.execCut s
  | .revert => Sys2Proof.Machine.execRevert s
  | .revertLast => Sys2Proof.Machine.execRevertLast s
  | .force => Sys2Proof.Machine.execForce s
  | .commit => Sys2Proof.Machine.execCommit s
  | .pause => Sys2Proof.Machine.execPause s
  | .resume => Sys2Proof.Machine.execResume s
  | .queryCircuit => Sys2Proof.Machine.execQueryCircuit s
  | .queryStation => Sys2Proof.Machine.execQueryStation s
  | .takeReports => Sys2Proof.Machine.execTakeReports s
  | .restart => Sys2Proof.Machine.execRestart s
  | .orderStart => Sys2Proof.Machine.execOrderStart s
  | .resetPinRelease => Sys2Proof.Machine.execResetPinRelease s

end Sys2Proof.Machine
end

