-- ==== Sys2Proof/Safety.lean ====
section
/-! DEFINITION. The words the statements use: what a start leaves, what a return to copper leaves, the ranges of Table 1.1,
and the invariants that every step keeps. -/

namespace Sys2Proof.Machine

/-! ## What stays the same -/

/-- Every item of the station but the trunk (circuits, fallback list, wait queue, calendar, reports) is the same. -/
def State.sameOutside (s t : State) : Prop := { t with trunk := s.trunk } = s

/-- Every circuit but `c` is the same. -/
def Trunk.sameOthers (c : Nat) (t u : Trunk) : Prop := ∀ d, d ≠ c → u.circuit d = t.circuit d

/-- The lists of the trunk but the reports are the same. -/
def Trunk.sameLists (t u : Trunk) : Prop :=
  u.fallback = t.fallback ∧ u.waitQueue = t.waitQueue ∧ u.calendar = t.calendar

/-- No report is entered and none is counted. -/
def Trunk.sameReports (t u : Trunk) : Prop := u.reports = t.reports ∧ u.reportOverflow = t.reportOverflow

/-- A change within the record of circuit `c` alone. -/
def Trunk.onlyRecord (c : Nat) (t u : Trunk) : Prop := t.sameOthers c u ∧ t.sameLists u ∧ t.sameReports u

/-- Nothing that can be read of the trunk has changed. -/
def Trunk.unchanged (t u : Trunk) : Prop := (∀ d, u.circuit d = t.circuit d) ∧ t.sameLists u ∧ t.sameReports u

/-- R153: the report is at the tail of the queue, or is counted as lost when the queue held 64. -/
def Trunk.entered (rep : Report) (t u : Trunk) : Prop :=
  (t.reports.length < 64 → u.reports = t.reports ++ [rep] ∧ u.reportOverflow = t.reportOverflow) ∧
  (64 ≤ t.reports.length → u.reports = t.reports ∧ u.reportOverflow = min (t.reportOverflow + 1) 255)

/-- R154: the last reported kind after a change of state whose report is handed to the queue of `t`. -/
def Trunk.kindAfter (k : ReportKind) (t : Trunk) : Option ReportKind := if t.reports.length < 64 then some k else none

/-- A report about circuit `c`, whose binding is `b`, entered when the cycle count is `n` (R152). -/
def aboutCircuit (n c : Nat) (b : Binding) (kind : ReportKind) (variant : Option ReportVariant) (detail : Option Nat)
    (flags : SpliceFlags) : Report :=
  ⟨kind, some c, some b.peer, n % 4294967296, variant, detail, flags⟩

/-- A report about a peer station (R152). -/
def aboutStation (n p : Nat) (kind : ReportKind) : Report :=
  ⟨kind, none, some p, n % 4294967296, none, none, ⟨false, false, false⟩⟩

/-- The list without circuit `c`'s record. -/
def withoutRecord (c : Nat) (fs : List FallbackRecord) : List FallbackRecord := fs.filter (fun f => decide (f.circuit ≠ c))

/-- The record of circuit `c` that is created LIVE in the frame of `x`: P is the next frame and the timers are loaded, the
hold when it is above 0 (R96). -/
def Ctx.liveRecord (x : Ctx) (c : Nat) : FallbackRecord :=
  ⟨c, some ⟨x.frame + 1, x.settings.params.settle,
    if x.settings.params.spliceHold = 0 then none else some x.settings.params.spliceHold, true⟩⟩

/-- Record `r'` is `r` spliced SEAMLESS at O = `o` (R17, R71, R77, R82). The last reported kind is left to the statement that
uses this. -/
def Circuit.splicedSeamless (o : Word) (r r' : Circuit) : Prop :=
  { r' with lastReported := none } = { r with
    state := .spliced
    lastReported := none
    stateTimer := 0
    legacyReleased := false
    deferredRevert := false
    align := { r.align with idleQualify := 0 }
    splice := ⟨some o, some 0, some (.splice .seamless), ⟨false, false, false⟩, r.splice.quietRun, none, true, false, false⟩ }

/-- Record `r'` is `r` committed by a forced commit, with the legacy release that a peer phase of COMMITTED brings (R19, R22,
R95). The last reported kind is left to the statement that uses this. -/
def Circuit.committedFrom (r r' : Circuit) : Prop :=
  { r' with lastReported := none } = { r with
    state := .committed
    lastReported := none
    stateTimer := 0
    legacyReleased := r.legacyReleased || decide (r.peerPhase = some .committed)
    deferredRevert := false
    align := { r.align with idleQualify := 0 }
    splice := { r.splice with ripe := false } }

/-- The removal of circuit `c`'s record starts no serving: it has none, or none waits, or the flag is set
(R98). -/
def State.servesNone (c : Nat) (s : State) : Prop :=
  s.paused = true ∨ s.trunk.waitQueue = [] ∨ ∀ f ∈ s.trunk.fallback, f.circuit ≠ c

/-! ## A frame that begins -/

/-- The frame in which the command is taken. -/
def State.frame (s : State) : Word := s.frameCount.getD 0

/-- From `s` to `t` every slot has passed between the two highways (R33): what was heard and sent is theirs, the delivered
supervision is the copper receive supervision (R37), and nothing else has changed. -/
def State.passedSlots (sw lg : Highway) (s t : State) : Prop :=
  s.sameOutside t ∧ s.trunk.sameLists t.trunk ∧ s.trunk.sameReports t.trunk ∧
  ∀ c, c < 256 → (t.circuit c).path.rx = slotOf lg c ∧ (t.circuit c).path.tx = slotOf sw c ∧
    (t.circuit c).deliveredCode = (slotOf lg c).code ∧
    { t.circuit c with
      deliveredCode := (s.circuit c).deliveredCode
      path := { (t.circuit c).path with rx := (s.circuit c).path.rx, tx := (s.circuit c).path.tx } } = s.circuit c

/-- The record of circuit `c` when the frame after frame `f` is opened is `r`. The marker asks for the path selection at once
(log 4), and the slot does not play fibre in the frame; the station is in LISTENING or OPERATING; no guard runs and neither a
splice nor a reverse splice takes effect in the frame. -/
def State.selectsAt (f : Word) (o : FrameOrder) (c : Nat) (r : Circuit) (s : State) : Prop :=
  s.stationState.passes = false ∧ s.missCount < 16 ∧ s.frameCount = some f ∧ s.finishFrame.sendsRestart = false ∧
    o.selectFirst = true ∧ c < 256 ∧ r = s.finishFrame.circuit c ∧ r.guard = none ∧ r.splice.switchPoint = false ∧
    (r.state.onFibre = true → ∃ run, r.splice.fill = some run ∧ run.count < 65536 ∧ (f + 1 - run.start).toNat < run.count)

/-- The path selection of the open frame is still to be done, with it the slot of circuit `c`, whose record is `r`. The fill
frames of its last splice, if they run, do not end in this frame. -/
def State.selectionDue (c : Nat) (r : Circuit) (s : State) : Prop :=
  s.stationState.passes = false ∧ s.todo.select = true ∧ c < 256 ∧ r = s.circuit c ∧ r.path.given = false ∧
    ∀ run, r.splice.fill = some run → s.frame - run.start ≠ BitVec.ofNat 16 run.count

/-- The row of the frame is built at station `n`, from `s` to `t` (R111, R112, R114): every circuit of row `k` has its cell in
row order; release cells remaining go down by one, and a circuit whose count has reached 0 leaves the row (R109). -/
def State.rowBuilt (n k : Nat) (s t : State) : Prop :=
  t.bearerPlaces = (s.trunk.row k).map (fun d => bearerCellBytes n s.frame d (s.circuit d)) ∧
  { t with bearerPlaces := s.bearerPlaces, todo := s.todo, trunk := s.trunk } = s ∧ t.todo.build = false ∧
  t.trunk.row k = (s.trunk.row k).filter (fun d => decide (¬((s.circuit d).state = .copper ∧ (s.circuit d).releaseCells = 1))) ∧
  (∀ j, j ≠ k → t.trunk.row j = s.trunk.row j) ∧ (∀ d, d ∉ s.trunk.row k → t.circuit d = s.circuit d) ∧
  (∀ d ∈ s.trunk.row k, (s.circuit d).state ≠ .copper ∨ (s.circuit d).releaseCells = 0 → t.circuit d = s.circuit d) ∧
  (∀ d ∈ s.trunk.row k, (s.circuit d).state = .copper → (s.circuit d).releaseCells = 1 →
    t.circuit d = { s.circuit d with releaseCells := 0, calendarRow := none }) ∧
  (∀ d ∈ s.trunk.row k, (s.circuit d).state = .copper → 1 < (s.circuit d).releaseCells →
    t.circuit d = { s.circuit d with releaseCells := (s.circuit d).releaseCells - 1 }) ∧
  t.trunk.fallback = s.trunk.fallback ∧ t.trunk.waitQueue = s.trunk.waitQueue ∧ s.trunk.sameReports t.trunk

/-- Row `k` lists each circuit once, and the record of each names the row (R106). -/
def State.rowSound (k : Nat) (s : State) : Prop :=
  (s.trunk.row k).Nodup ∧ ∀ d ∈ s.trunk.row k, (s.circuit d).calendarRow = some k

/-! ## Commands one after another -/

/-- The station after commands carried out in turn. -/
def State.doAll (is : List Instr) (s : State) : State :=
  is.foldl (fun u i => match exec i u with
    | .next t => t
    | _ => u) s

/-- The commands of the events that can be due in a frame, in the order in which the closing of a frame takes them (log 5). -/
def dueCommands : List Instr :=
  (List.range 15).map Instr.peerLoss ++
  ((List.range 256).map (fun c => [Instr.alignmentTimeout c, .bridgeIdleWatchdog c, .streamLoss c, .peerHoldExpiry c,
    .holdExpiry c, .settleExpiry c])).flatten ++
  [Instr.listeningEnd] ++ (List.range 256).map Instr.windowJudgement

/-- The command of an order's row. -/
def commandOf : OrderRow → Instr
  | .cut => .cut
  | .revert => .revert
  | .revertLast => .revertLast
  | .force => .force
  | .commit => .commit
  | .pause => .pause
  | .resume => .resume
  | .queryCircuit => .queryCircuit
  | .queryStation => .queryStation
  | .takeReports => .takeReports
  | .restart => .restart

/-! ## An order taken -/

/-- The order unit takes orders and `o` is at the head of the order queue (R141, R143, R149). -/
def State.headIs (o : Order) (rest : List Order) (s : State) : Prop :=
  s.stationState.onStar = true ∧ s.replyQueue.length < 8 ∧ s.restartTaken = false ∧ s.orderQueue = o :: rest

/-- The order has left the queue and its reply stands at the tail of the reply queue (R141, R142). -/
def State.answered (o : Order) (rest : List Order) (outcome : ReplyOutcome) (reason : Option Reason) (payload : List Byte)
    (s t : State) : Prop :=
  t.orderQueue = rest ∧ t.replyQueue = s.replyQueue ++ [⟨o.source, o.tag, o.value, outcome, reason, payload⟩]

/-- Apart from the two queues and the trunk the station is the same. -/
def State.sameButQueues (s t : State) : Prop :=
  { t with orderQueue := s.orderQueue, replyQueue := s.replyQueue, trunk := s.trunk } = s

/-- The payload of a reply about circuit `c` (12, section 12.3). -/
def circuitReply (c : Nat) : List Byte := [BitVec.ofNat 8 c, 0x80]

/-- Presence bit `i` of a query segment, counted from bit 7 of its first byte downward (R160). -/
def presenceBit (bs : List Byte) (i : Nat) : Bool := (byteAt bs (i / 8)).getLsbD (7 - i % 8)

/-- The report kinds with their codes, in the order of Table 11.1 (Table 12.5). -/
def reportKinds : List (ReportKind × Nat) :=
  [(.started, 1), (.peerLost, 2), (.peerBack, 3), (.peerRestart, 4), (.aligned, 5), (.alignTimeout, 6), (.alignLost, 7),
   (.bridgeIdle, 8), (.delayExcess, 9), (.spliced, 10), (.reverted, 11), (.committed, 12), (.forcedCommit, 13),
   (.legacyReleased, 14), (.held, 15), (.down, 16), (.laneFull, 17), (.mismatch, 18)]

/-- The variants of a report with their codes: start causes, splice kinds, reverse splice kinds (Table 12.5). -/
def reportVariants : List (ReportVariant × Nat) :=
  [(.start .power, 1), (.start .pin, 2), (.start .order, 3), (.start .timing, 4),
   (.splice .seamless, 1), (.splice .quiet, 2), (.splice .forced, 3), (.splice .idle, 4),
   (.reverse .planned, 5), (.reverse .forced, 6), (.reverse .urgent, 7)]

/-- The eleven bytes of a report by field (Table 12.5; bit 7 of byte 1: log 44). An absent item's bytes are 0 (R157). -/
def Report.laidOutAs (bs : List Byte) (r : Report) : Prop :=
  bs.length = 11 ∧ (∀ k ∈ reportKinds, k.1 = r.kind → (byteAt bs 0).toNat = k.2) ∧
  (∀ i, bitOf (byteAt bs 1) i = [r.circuit.isSome, r.station.isSome, r.variant.isSome, r.detail.isSome,
    r.flags.lostActivity, r.flags.blind, r.flags.activityGap, false].getD i false) ∧
  (∀ c, r.circuit = some c → c < 256 → (byteAt bs 2).toNat = c) ∧ (r.circuit = none → byteAt bs 2 = 0) ∧
  (∀ p, r.station = some p → p < 256 → (byteAt bs 3).toNat = p) ∧ (r.station = none → byteAt bs 3 = 0) ∧
  (∀ v ∈ reportVariants, r.variant = some v.1 → (byteAt bs 4).toNat = v.2) ∧ (r.variant = none → byteAt bs 4 = 0) ∧
  (∀ d, r.detail = some d → d < 65536 → fieldAt bs 5 2 = d) ∧ (r.detail = none → fieldAt bs 5 2 = 0) ∧
  (r.time < 4294967296 → fieldAt bs 7 4 = r.time)

/-- The reply reasons with their codes, in the order of the reason table (R142). -/
def replyReasons : List (Reason × Nat) :=
  [(.notConfigured, 1), (.notReady, 2), (.notBound, 3), (.mismatch, 4), (.peerAbsent, 5), (.laneFull, 6), (.busy, 7),
   (.wrongState, 8), (.noFallback, 9), (.badOperand, 10)]

/-- The place of a reply cell of station `n` by field (R142, Table 12.1 and the reply body; bits 7..6 of byte 1: log 44). -/
def Reply.laidOutAs (n : Nat) (place : List Byte) (r : Reply) : Prop :=
  (byteAt place 0).toNat = 128 + n ∧
  (byteAt place 1).toNat % 16 = r.addressee ∧
  (∀ w ∈ [(ReplyOutcome.done, 0), (.partialDone, 1), (.refused, 2)], w.1 = r.outcome → (byteAt place 1).toNat / 16 = w.2) ∧
  byteAt place 2 = r.tag ∧ (byteAt place 3).toNat = r.value ∧
  (∀ w ∈ replyReasons, r.reason = some w.1 → (byteAt place 4).toNat = w.2) ∧ (r.reason = none → byteAt place 4 = 0) ∧
  byteAt place 5 = crc8 (place.take 5) ∧
  (byteAt place 6).toNat = r.payload.length ∧ (place.drop 7).take r.payload.length = r.payload ∧
  fieldAt place (7 + r.payload.length) 2 = (crc16 ((place.drop 6).take (1 + r.payload.length))).toNat ∧
  ∀ i, 9 + r.payload.length ≤ i → byteAt place i = 0

/-! ## A cell heard -/

/-- A place that the lane receiver takes from the lane and that is a cell (R117, R119, R158). -/
def State.takesCell (lane : Nat) (place : List Byte) (s : State) : Prop :=
  s.stationState.onStar = true ∧ lane < 15 ∧ s.stationNo ≠ some lane ∧ isEmptyPlace place = false

/-- The bearer cell passes the header check and the accept mask (R119, R120). -/
def State.heedsBearer (lane : Nat) (place : List Byte) (ph : Phase) (s : State) : Prop :=
  s.takesCell lane place ∧ headerOk lane place = true ∧ kindOf place = 1 ∧ phaseOf place = some ph ∧
    s.settings.acceptMask.getLsbD lane = true

/-- Window `w` of the table is in force and maps the sender's circuit of the cell to local circuit `c` (R128). -/
def State.mapsCell (lane : Nat) (place : List Byte) (w : Window) (c : Nat) (s : State) : Prop :=
  s.windows.find? (Window.maps lane (senderCircuitOf place)) = some w ∧
    c = w.localBase + (senderCircuitOf place - w.peerBase)

/-- This frame's boundary has brought circuit `c` no expiry of its silence count (R15, R21, R52). -/
def State.notSilent (c : Nat) (s : State) : Prop :=
  s.ctx.counted = false ∨
    (((s.circuit c).state.beforeSplice = true → (s.circuit c).silence < s.settings.params.bridgeIdle) ∧
      ((s.circuit c).state.onFibre = true → (s.circuit c).silence < s.settings.params.streamLoss))

/-- The cell is delivered to circuit `c` (R128), and no expiry of its silence count stands before it. -/
def State.delivers (lane : Nat) (place : List Byte) (ph : Phase) (c : Nat) (s : State) : Prop :=
  s.heedsBearer lane place ph ∧ c < 256 ∧ s.notSilent c ∧ ∃ w, s.mapsCell lane place w c ∧ w.matched = true

/-- The first SSN, the supervision code and the samples of a bearer cell (Table 12.1). -/
def ssnOf (place : List Byte) : Word := BitVec.ofNat 16 ((byteAt place 2).toNat * 256 + (byteAt place 3).toNat)
def codeOf (place : List Byte) : Code := BitVec.ofNat 4 ((byteAt place 4).toNat % 16)
def sampleOf (place : List Byte) (i : Nat) : Byte := byteAt place (6 + i)

/-- R60: the judging list `js` after the window of SSN `a` of a cell that arrives in frame `f` is offered to it at Obase `ob`:
the window enters unless its J − A is outside 0..511, its SSN stands in the list, or the list holds 16. -/
def windowEntered (f a ob : Word) (js : List JudgeEntry) : List JudgeEntry :=
  if 0 ≤ (a + ob + 263 - f).toInt ∧ (a + ob + 263 - f).toInt ≤ 511 ∧ (∀ e ∈ js, e.ssn ≠ a) ∧ js.length < 16 then
    js ++ [⟨a, a + ob + 263⟩]
  else js

/-- R47: the playout buffer of `r'` is that of `r` with the forty samples of the cell written to their positions. -/
def Circuit.wroteCell (place : List Byte) (r r' : Circuit) : Prop :=
  (∀ i, i < 40 → r'.positionOf (ssnOf place + BitVec.ofNat 16 i) =
    ⟨sampleOf place i, some (ssnOf place + BitVec.ofNat 16 i), codeOf place⟩) ∧
  ∀ u : Word, (∀ i, i < 40 → u.toNat % 512 ≠ (ssnOf place + BitVec.ofNat 16 i).toNat % 512) → r'.positionOf u = r.positionOf u

/-! ## What a start leaves (Table 9.2, R3) -/

/-- R3, with R46, R53, R55, R57 and R110. -/
def Circuit.atStart (r : Circuit) : Prop :=
  r.state = .vacant ∧ r.binding = none ∧ r.legacyReleased = false ∧ r.deferredRevert = false ∧ r.peerPhase = none ∧
  r.align.obase = none ∧ r.align.offset = none ∧ r.splice.playOffset = none ∧ r.splice.deficit = none ∧
  r.splice.lastKind = none ∧ r.calendarRow = none ∧ r.lastReported = none ∧
  r.align.candidates = .whole ∧ r.align.contributing = 0 ∧ r.align.verifyMiss = 0 ∧ r.align.judging = [] ∧
  r.ring = [] ∧ r.splice.flags = ⟨false, false, false⟩ ∧
  r.copperCode = 0 ∧ r.fibreCode = 0 ∧ r.deliveredCode = 0 ∧ r.guard = none ∧ r.splice.quietRun = 0 ∧
  r.align.idleQualify = 0 ∧ r.stateTimer = 0 ∧ r.silence = 0 ∧ r.releaseCells = 0 ∧
  r.counters = ⟨0, 0, 0, 0, 0, 0⟩ ∧
  r.path.lastSample = 255 ∧ r.path.runCount = 0 ∧ r.capture = List.replicate 40 255 ∧ r.captureCode = 0 ∧
  (∀ f, r.historyAt f = 255) ∧ (∀ t, r.positionOf t = ⟨255, none, 0⟩)

/-- Table 9.2: every station-level item after a start of cause `k`. -/
def State.atStart (k : StartCause) (s : State) : Prop :=
  s.stationState = .reset ∧ s.startCause = k ∧ s.stationNo = none ∧ s.configFault = none ∧
  s.clampCount = 0 ∧ s.clampedItems = [] ∧ s.bootReading = false ∧ s.frameCount = none ∧ s.missCount = 0 ∧ s.cycleCount = 0 ∧
  s.settings.law = .mu ∧ s.settings.idleCode = 0 ∧ s.settings.oosCode = 15 ∧
  (∀ p, p < 15 → s.settings.acceptMask.getLsbD p = true) ∧ s.settings.policy = .hold ∧
  s.settings.params = ⟨16, 160, 80, 24, 2000, 40, 4, 400, 12000, 8, 100, 400⟩ ∧
  s.windows.length = 8 ∧ (∀ w ∈ s.windows, w.validity = .notLoaded ∧ w.matched = false) ∧
  (∀ p, s.peer p = ⟨.absent, 0, false, none, none, 0, 0⟩) ∧
  (∀ k, s.trunk.row k = []) ∧ s.trunk.fallback = [] ∧ s.trunk.waitQueue = [] ∧ s.paused = false ∧
  s.orderQueue = [] ∧ s.replyQueue = [] ∧ s.orderOverflow = 0 ∧ s.restartTaken = false ∧
  s.trunk.reports = [⟨.started, none, none, 0, some (.start k), none, ⟨false, false, false⟩⟩] ∧ s.trunk.reportOverflow = 0 ∧
  (∀ c, (s.circuit c).atStart)

/-! ## What a return to copper leaves (R16, R20, R57) -/

/-- Circuit record `r'` is `r` returned to COPPER with four release cells: offsets, deficit and ring gone, the alignment
items as at an entry to COPPER, the calendar row and everything else as they were. The last splice kind, the flags, the
fill frames and the last reported kind are left to the statement that uses this. -/
def Circuit.backOnCopper (r r' : Circuit) : Prop :=
  r'.state = .copper ∧ r'.releaseCells = 4 ∧ r'.align = ⟨none, .whole, 0, none, 0, 0, []⟩ ∧ r'.ring = [] ∧
  r'.splice.playOffset = none ∧ r'.splice.deficit = none ∧ r'.splice.quietRun = r.splice.quietRun ∧
  r'.stateTimer = 0 ∧ r'.deferredRevert = false ∧ r'.legacyReleased = false ∧
  r'.calendarRow = r.calendarRow ∧ r'.binding = r.binding ∧ r'.peerPhase = r.peerPhase ∧ r'.silence = r.silence ∧
  r'.copperCode = r.copperCode ∧ r'.fibreCode = r.fibreCode ∧ r'.deliveredCode = r.deliveredCode ∧ r'.guard = r.guard ∧
  r'.counters = r.counters ∧ r'.path = r.path ∧ r'.capture = r.capture ∧ r'.captureCode = r.captureCode ∧
  r'.history = r.history ∧ r'.playout = r.playout

/-- Circuit record `r'` is `r` newly entered to BRIDGING by R8, before any cell: every tag of the playout buffer is
absent, and what R8 does not name stays. -/
def Circuit.newlyBridging (p : Params) (row : Nat) (r r' : Circuit) : Prop :=
  r'.state = .bridging ∧ r'.calendarRow = some row ∧ r'.silence = 0 ∧ r'.stateTimer = p.alignTimeout ∧
  r'.align = ⟨none, .whole, 0, none, 0, 0, []⟩ ∧ r'.ring = [] ∧
  r'.splice.playOffset = none ∧ r'.splice.deficit = none ∧ r'.splice.lastKind = r.splice.lastKind ∧
  r'.splice.flags = r.splice.flags ∧ r'.deferredRevert = false ∧ r'.legacyReleased = false ∧ r'.peerPhase = none ∧
  r'.lastReported = none ∧ r'.releaseCells = r.releaseCells ∧ r'.binding = r.binding ∧ r'.guard = r.guard ∧
  r'.counters = r.counters ∧ r'.history = r.history ∧ r'.path = r.path ∧ r'.capture = r.capture ∧
  (∀ t, r'.playoutAt t = none)

/-! ## What the loss or the restart of a peer station leaves (R7, R127) -/

/-- Record `r'` is what the loss or the restart of its peer station makes of `r` in frame `f`. -/
def Circuit.tookPeerEvent (st : Settings) (f : Word) (r r' : Circuit) : Prop :=
  (r.state.beforeSplice = true → { r with peerPhase := none }.backOnCopper r' ∧ r'.splice.lastKind = r.splice.lastKind ∧
    r'.splice.flags = r.splice.flags) ∧
  (r.state = .spliced ∨ r.state = .revertWait → { r with peerPhase := none }.backOnCopper r' ∧
    r'.splice.lastKind = some (.reverse .urgent) ∧ r'.splice.flags = (r.judgeReverse st (f + 1)).1 ∧ r'.splice.fill = none ∧
    r'.splice.switchPoint = true) ∧
  (r.state = .committed → r'.state = .held ∧ r'.stateTimer = st.params.peerHold ∧ r'.peerPhase = none ∧
    r'.legacyReleased = r.legacyReleased ∧ r'.calendarRow = r.calendarRow ∧ r'.align.offset = r.align.offset ∧
    r'.splice.playOffset = r.splice.playOffset ∧ r'.splice.deficit = r.splice.deficit ∧ r'.splice.fill = none) ∧
  (r.state = .vacant ∨ r.state = .copper ∨ r.state = .held ∨ r.state = .down → r' = { r with peerPhase := none })

/-- The loss or the restart of station `p` has been handed to every circuit bound to it, from `s` to `t`, with no circuit
waiting for a record: each takes it by its state, the others are untouched, and the records of those that leave fibre or the
wait for it are gone. -/
def State.handedPeerEvent (p : Nat) (s t : State) : Prop :=
  (∀ c, c < 256 →
    ((∀ b, (s.circuit c).binding = some b → b.peer ≠ p) → t.circuit c = s.circuit c) ∧
    (∀ b, (s.circuit c).binding = some b → b.peer = p → (s.circuit c).tookPeerEvent s.settings s.frame (t.circuit c))) ∧
  t.trunk.calendar = s.trunk.calendar ∧ t.trunk.waitQueue = [] ∧ t.trunk.fallback.Sublist s.trunk.fallback ∧
  ∀ f ∈ s.trunk.fallback, (f ∉ t.trunk.fallback ↔
    (∃ b, (s.circuit f.circuit).binding = some b ∧ b.peer = p) ∧
      ((s.circuit f.circuit).state.beforeSplice = true ∨ (s.circuit f.circuit).state = .spliced ∨
        (s.circuit f.circuit).state = .revertWait))

/-! ## A beacon heard (R124, R129) -/

/-- The entry of a station after its beacon: what R124 sets, and the two counters as they were. -/
def heardFrom (place : List Byte) (e : PeerEntry) : PeerEntry :=
  ⟨.present, 0, true, some (fieldAt place 6 6), if (byteAt place 2).getLsbD 6 then none else some (digestAt place 12),
    e.unbound, e.headerErrors⟩

/-- The matched flags of the windows to station `p` are formed from the digest of its beacon, and nothing else of a window
changes. -/
def State.matchedFrom (p : Nat) (place : List Byte) (s t : State) : Prop :=
  t.windows.length = s.windows.length ∧
  ∀ (j : Nat) (w : Window), s.windows[j]? = some w →
    (w.peer ≠ p → t.windows[j]? = some w) ∧
    (w.peer = p → ∃ v, t.windows[j]? = some v ∧ { v with matched := w.matched } = w ∧
      (v.matched = true ↔ w.enabled = true ∧ w.validity = .valid ∧ (byteAt place 2).getLsbD 6 = false ∧
        ∃ d ∈ digestAt place 12, d.valid = true ∧ d.peer = s.stationNo.getD 15 ∧ d.localBase = w.peerBase ∧
          d.peerBase = w.localBase ∧ d.length = w.length))

/-! ## Ranges (Tables 1.1 and 4.2) -/

/-- Table 4.2 in the units of the rules, with the settle time at least the splice hold (R135). -/
def Params.inRange (p : Params) : Prop :=
  8 ≤ p.guard ∧ p.guard ≤ 64 ∧ p.dmax ≤ 224 ∧ 40 ≤ p.qmin ∧ p.qmin ≤ 400 ∧ p.threshold ≤ 127 ∧
  200 ≤ p.alignTimeout ∧ p.alignTimeout ≤ 12000 ∧ 4 ≤ p.bridgeIdle ∧ p.bridgeIdle ≤ 200 ∧
  2 ≤ p.streamLoss ∧ p.streamLoss ≤ 20 ∧ p.spliceHold ≤ 2000 ∧ 200 ≤ p.settle ∧ p.settle ≤ 120000 ∧
  2 ≤ p.sigGuard ∧ p.sigGuard ≤ 40 ∧ 20 ≤ p.idleQualify ∧ p.idleQualify ≤ 1000 ∧
  100 ≤ p.peerHold ∧ p.peerHold ≤ 2000 ∧ p.spliceHold ≤ p.settle

/-- A candidate set is a set of positions 0..448 in rising order, and never empty (R57, R65). -/
def Candidates.inRange : Candidates → Prop
  | .whole => True
  | .positions ks => ks ≠ [] ∧ ks.Pairwise (· < ·) ∧ ∀ k ∈ ks, k < 449

/-- A binding names a window 0..7, a station 0..14 and a circuit 0..255 (R1, R117, R136). -/
def Binding.inRange (b : Binding) : Prop := b.window ≤ 7 ∧ b.peer ≤ 14 ∧ b.circuit ≤ 255

/-- The ranges of Table 1.1, R1, R53, R57 and R110. The deficit, and with it the count of the fill frames
of a splice (R77), is held under 224, the largest Dmax of Table 4.2. -/
def Circuit.inRange (r : Circuit) : Prop :=
  r.align.candidates.inRange ∧ r.align.contributing ≤ 3 ∧ r.align.verifyMiss ≤ 3 ∧ r.align.idleQualify ≤ 1000 ∧
  r.align.judging.length ≤ 16 ∧ r.ring.length ≤ 16 ∧ (∀ d, r.splice.deficit = some d → d ≤ 224) ∧
  (∀ run, r.splice.fill = some run → run.count ≤ 224) ∧
  r.splice.quietRun ≤ 400 ∧ (∀ g, r.guard = some g → g.left ≤ 40) ∧ r.stateTimer ≤ 12000 ∧ r.silence ≤ 65535 ∧
  r.releaseCells ≤ 4 ∧ (∀ k, r.calendarRow = some k → k < 40) ∧
  r.counters.received ≤ 65535 ∧ r.counters.late ≤ 65535 ∧ r.counters.early ≤ 65535 ∧ r.counters.concealed ≤ 65535 ∧
  r.counters.mismatches ≤ 65535 ∧ r.counters.fills ≤ 65535 ∧ r.path.runCount ≤ 40 ∧ r.capture.length = 40 ∧
  ∀ b, r.binding = some b → b.inRange

/-- The legacy-released flag is set only in COMMITTED, HELD and DOWN (R22). -/
def Circuit.releaseInStep (r : Circuit) : Prop :=
  r.legacyReleased = true → r.state = .committed ∨ r.state = .held ∨ r.state = .down

/-- The canonical form of a circuit's sample stores. -/
def Circuit.storesCanonical (r : Circuit) : Prop :=
  Table.wf startSample r.history = true ∧ Table.wf PlayoutEntry.start r.playout = true

/-! ## Invariants of the station -/

/-- Every record stays in its ranges, with parameters in theirs. -/
def State.recordsInRange (s : State) : Prop := s.settings.params.inRange ∧ ∀ c, (s.circuit c).inRange

/-- R22 for every circuit. -/
def State.releasesInStep (s : State) : Prop := ∀ c, (s.circuit c).releaseInStep

/-- Every store of the station is in canonical form. -/
def State.storesCanonical (s : State) : Prop :=
  Table.wf Circuit.start s.trunk.circuits = true ∧ Table.wf ([] : List Nat) s.trunk.calendar = true ∧
  Table.wf PeerEntry.start s.peers = true ∧ ∀ c, (s.circuit c).storesCanonical

/-- The capacities of Table 4.1, and the counts that stop at their largest value. -/
def State.withinCapacity (s : State) : Prop :=
  s.orderQueue.length ≤ 4 ∧ s.orderOverflow ≤ 255 ∧ s.replyQueue.length ≤ 8 ∧ s.trunk.reports.length ≤ 64 ∧
  s.trunk.reportOverflow ≤ 255 ∧ s.trunk.fallback.length ≤ 8 ∧ (∀ k, (s.trunk.row k).length ≤ 6) ∧
  s.windows.length = 8 ∧ s.missCount ≤ 16 ∧ s.cycleCount < 281474976710656 ∧
  (∀ p, (s.peer p).miss ≤ 4 ∧ (s.peer p).unbound ≤ 255 ∧ (s.peer p).headerErrors ≤ 255)

/-- R6, R33: outside LISTENING and OPERATING every circuit is VACANT and holds nothing; in LISTENING every circuit is VACANT
or COPPER and holds nothing, until the frame of the fourth boundary (R138; log 40). -/
def State.quietBeforeOperating (s : State) : Prop :=
  s.stage ≠ .operating →
    s.trunk.fallback = [] ∧ s.trunk.waitQueue = [] ∧ (∀ k, s.trunk.row k = []) ∧
    ∀ c, (s.circuit c).calendarRow = none ∧ (s.circuit c).releaseCells = 0 ∧
      ((s.circuit c).state = .vacant ∨ (s.stationState = .listening ∧ (s.circuit c).state = .copper))

/-- R93, R99: the holdings of Table 1.2. A circuit waits in the queue exactly when it is SPLICE_PENDING, and at most once.
At most 8
records are held. It has a record exactly when it is SPLICE_WAIT (PENDING), SPLICED or REVERT_WAIT (LIVE), and at most one. -/
def Trunk.holdingsAgree (t : Trunk) : Prop :=
  t.fallback.length ≤ 8 ∧ t.waitQueue.Nodup ∧ (∀ c, c ∈ t.waitQueue ↔ (t.circuit c).state = .splicePending) ∧
  (t.fallback.map FallbackRecord.circuit).Nodup ∧
  (∀ c, (∃ f ∈ t.fallback, f.circuit = c ∧ f.live = none) ↔ (t.circuit c).state = .spliceWait) ∧
  (∀ c, (∃ f ∈ t.fallback, f.circuit = c ∧ f.live ≠ none) ↔
    (t.circuit c).state = .spliced ∨ (t.circuit c).state = .revertWait)

/-- The states in which a circuit holds a calendar place (R106). -/
def Circuit.needsPlace (r : Circuit) : Prop :=
  r.state.beforeSplice = true ∨ r.state.onFibre = true ∨ r.state = .held ∨ (r.state = .copper ∧ 0 < r.releaseCells)

/-- R106: a circuit occupies at most one place, and one exactly when its state needs it; its record names the row; release
cells remain in COPPER only. -/
def Trunk.calendarAgrees (t : Trunk) : Prop :=
  (∀ k, (t.row k).Nodup) ∧ (∀ k c, c ∈ t.row k ↔ (t.circuit c).calendarRow = some k) ∧
  (∀ c, (t.circuit c).calendarRow ≠ none ↔ (t.circuit c).needsPlace) ∧
  (∀ c, 0 < (t.circuit c).releaseCells → (t.circuit c).state = .copper)

/-- The holdings and the calendar agree with the states, and before OPERATING there are none. -/
def State.placesAgree (s : State) : Prop := s.quietBeforeOperating ∧ s.trunk.holdingsAgree ∧ s.trunk.calendarAgrees

end Sys2Proof.Machine
end

