-- ==== Sys2Proof/Certificates/Slice0/Obligations.lean ====
section
/-! DEFINITION. The statements for the provers. Each is about the commands of the part; the rules of spec/ it rests on are
named in its docstring, and what is the model's own choice is said there with the number of its log entry. -/

open Sys2Proof Sys2Proof.Machine

/-! ## Steps and starts -/

/-- A step carries out the command at the front of the queue with the rest of the queue waiting. With none, it does the next
of the works that the open frame's marker has put among the frame's commands, or idles when there is none: both are the
model's choice (log 1, 39). -/
def Obligations.StepRunsFrontCommand : Prop :=
  (∀ (s : State) (i : Instr) (rest : List Instr), s.pending = i :: rest → step s = exec i { s with pending := rest }) ∧
  (∀ s : State, s.pending = [] → s.todo.between = [] → step s = .next s) ∧
  ∀ (s : State) (w : Work) (ws : List Work), s.pending = [] → s.todo.between = w :: ws →
    step s = .next ({ s with todo := { s.todo with between := ws } }.doWork w)

/-- Every command completes: none faults and none is refused. It leaves the waiting commands alone, and only POWER_ON and the
two commands of the reset pin change what is known of the power and of the pin. -/
def Obligations.EveryCommandCompletes : Prop :=
  ∀ (i : Instr) (s : State), ∃ t, exec i s = .next t ∧ t.pending = s.pending ∧
    (i ≠ .powerOn → t.powerGood = s.powerGood) ∧
    (i ≠ .resetPin → i ≠ .resetPinRelease → t.pinAsserted = s.pinAsserted)

/-- R132, R139, Table 9.2, R3: the commands that are starts leave every item at its start value, with their cause. That the
release of the pin with power good is itself a start of cause PIN, which sets every item again, is DEDUCED (log 43). A pin
released while power is not good leaves the station as it was, held by the power (R132); a release of a pin that is not
asserted and a TIMING_LOSS without 16 misses or in RESET change nothing, which is the model's choice (log 3). -/
def Obligations.StartCommandsSetTable92 : Prop :=
  ∀ s : State,
    (∃ t, exec .powerOn s = .next t ∧ t.atStart .power ∧ t.powerGood = true ∧ t.pinAsserted = s.pinAsserted) ∧
    (∃ t, exec .resetPin s = .next t ∧ t.atStart .pin ∧ t.pinAsserted = true ∧ t.powerGood = s.powerGood) ∧
    (s.pinAsserted = true → s.powerGood = true →
      ∃ t, exec .resetPinRelease s = .next t ∧ t.atStart .pin ∧ t.pinAsserted = false ∧ t.powerGood = true) ∧
    (s.pinAsserted = true → s.powerGood = false → exec .resetPinRelease s = .next { s with pinAsserted := false }) ∧
    (s.pinAsserted = false → exec .resetPinRelease s = .next s) ∧
    (16 ≤ s.missCount → s.stationState ≠ .reset →
      ∃ t, exec .timingLoss s = .next t ∧ t.atStart .timing ∧ t.powerGood = s.powerGood ∧ t.pinAsserted = s.pinAsserted) ∧
    (s.missCount < 16 ∨ s.stationState = .reset → exec .timingLoss s = .next s)

/-- R149, R118: with the RESTART's reply in the service place of the open frame, ORDER_START sends the lane frame that
carries it and takes a start of cause ORDER. With the reply at the head of the reply queue and the place still to be filled
in a frame of position 1..39, the place is filled with it and the same follows. That the open frame is closed by the command,
with its lane frame sent, is DEDUCED (log 35). The lane frame stays readable after the start, and with such a reply neither
in the place nor about to be put there nothing happens: both are the model's choice (log 28, 3). R132, R117, R149: a marker,
come or missed, that closes the frame whose service place carries the RESTART's reply sends the lane frame with the reply and
takes the start of cause ORDER (DEDUCED, log 35), after which the lane frame stays readable (log 28). A missed marker leaves
the station in RESET with the start values, but for what passes in its slots (R33; log 36), and so does one that comes while
the pin or the power holds it there. Any other marker that comes begins frame 0 of the new start. -/
def Obligations.OrderStartFollowsRestartReply : Prop :=
  (∀ (s : State) (r : Reply), s.stationState.onStar = true → s.missCount < 16 → r.value = 10 → r.outcome = .done →
    (s.restartTaken = true →
      (s.todo.service = false ∧ s.servicePlace = .reply r) ∨
        (s.todo.service = true ∧ s.frame.toNat % 40 ≠ 0 ∧ ∃ rest, s.replyQueue = r :: rest) →
      ∃ t, exec .orderStart s = .next t ∧ t.atStart .order ∧
        ∃ f, t.laneOut = some f ∧ f.service = padTo 68 (r.bytes (s.stationNo.getD 15))) ∧
    (s.restartTaken = false → exec .orderStart s = .next s) ∧
    ((∀ q, s.servicePlace = .reply q → q.value ≠ 10 ∨ q.outcome ≠ .done) →
      s.todo.service = false ∨ s.frame.toNat % 40 = 0 ∨
        (∀ q rest, s.replyQueue = q :: rest → q.value ≠ 10 ∨ q.outcome ≠ .done) →
      exec .orderStart s = .next s)) ∧
  (∀ (s : State) (r : Reply) (sw lg : Highway) (straps : BitVec 4) (o : FrameOrder),
    s.stationState.onStar = true → s.missCount < 16 → r.value = 10 → r.outcome = .done →
    s.finishFrame.restartTaken = true → s.finishFrame.servicePlace = .reply r →
    (∀ i, i = .missedFrameMarker sw lg o ∨ (i = .frameMarker sw lg straps o ∧ (s.pinAsserted = true ∨ s.powerGood = false)) →
      ∃ t, exec i s = .next t ∧ t.powerGood = s.powerGood ∧ t.pinAsserted = s.pinAsserted ∧
        (∃ f, t.laneOut = some f ∧ f.service = padTo 68 (r.bytes (s.stationNo.getD 15))) ∧
        ∃ u : State, u.atStart .order ∧ u.passedSlots sw lg t) ∧
    (s.pinAsserted = false → s.powerGood = true →
      ∃ t, exec (.frameMarker sw lg straps o) s = .next t ∧
        (∃ f, t.laneOut = some f ∧ f.service = padTo 68 (r.bytes (s.stationNo.getD 15))) ∧
        t.startCause = .order ∧ t.frameCount = some 0 ∧ t.missCount = 0 ∧ t.cycleCount = 0 ∧ t.stationNo = some straps.toNat ∧
        t.restartTaken = false ∧ t.orderQueue = [] ∧ t.replyQueue = [] ∧
        t.stationState = (if straps = 15 then .offStar else .loading)))

/-- R29, R32, R33, R37: in RESET no frame and no miss is counted, every slot passes between the two highways, and the
delivered supervision is the copper receive supervision. The pin or the power holds the station there whatever marker comes
(R132). A marker that is missed is counted there no more than one that comes (DEDUCED, log 34), and what passes is shown at
each marker that comes there, missed or not (DESIGN CHOICE, log 36). R28, R132, R133: the first marker after a start begins
frame 0, in LOADING with the station number read and the boot read begun, or in OFF_STAR with straps of 15. R29, R132: a
frame that follows the sixteenth miss is not begun before the station has taken a start of cause TIMING. A marker that comes
then begins frame 0 of the new start; another miss leaves the station in RESET with the start values, but for what passes in
its slots: the delivered supervision there is the copper receive supervision of that marker (R33, R37; log 36). That the next
marker, come or missed, takes the start where no TIMING_LOSS has, is DEDUCED (log 22). What other commands of the frame of
the sixteenth miss do before that start is not stated here (DESIGN CHOICE, log 46). -/
def Obligations.MarkersInResetAndTimingLoss : Prop :=
  (∀ (s : State) (sw lg : Highway) (straps : BitVec 4) (o : FrameOrder) (i : Instr),
    s.stationState = .reset →
    i = .missedFrameMarker sw lg o ∨ (i = .frameMarker sw lg straps o ∧ (s.pinAsserted = true ∨ s.powerGood = false)) →
    ∃ t, exec i s = .next t ∧ s.passedSlots sw lg t) ∧
  (∀ (s : State) (sw lg : Highway) (straps : BitVec 4) (o : FrameOrder),
    s.stationState = .reset → s.frameCount = none → s.pinAsserted = false → s.powerGood = true →
    ∃ t, exec (.frameMarker sw lg straps o) s = .next t ∧ t.frameCount = some 0 ∧ t.stationNo = some straps.toNat ∧
      t.cycleCount = s.cycleCount ∧ t.missCount = s.missCount ∧
      (straps = 15 → t.stationState = .offStar ∧ t.bootReading = false) ∧
      (straps ≠ 15 → t.stationState = .loading ∧ t.bootReading = true) ∧
      t.windows = s.windows ∧ t.settings = s.settings ∧ t.orderQueue = s.orderQueue ∧ t.replyQueue = s.replyQueue) ∧
  (∀ (s : State) (sw lg : Highway) (straps : BitVec 4) (o : FrameOrder),
    s.stationState ≠ .reset → 16 ≤ s.missCount →
    (∃ t, exec (.missedFrameMarker sw lg o) s = .next t ∧ t.powerGood = s.powerGood ∧ t.pinAsserted = s.pinAsserted ∧
      ∃ u : State, u.atStart .timing ∧ u.passedSlots sw lg t) ∧
    (s.pinAsserted = false → s.powerGood = true →
      ∃ t, exec (.frameMarker sw lg straps o) s = .next t ∧ t.startCause = .timing ∧ t.frameCount = some 0 ∧
        t.missCount = 0 ∧ t.cycleCount = 0 ∧ t.stationNo = some straps.toNat ∧
        t.stationState = (if straps = 15 then .offStar else .loading)))

/-- R28, R29, R32, R55, R110, R122, 4.1: a marker closes the open frame and begins the next. F goes on by one and the cycle
count goes on at a cycle boundary; the miss count is 0 after a marker that came and one more after one that did not. Every
slot takes the frame's samples and codes into its record, its copper history and its capture line, and the legacy port obeys
the flag. -/
def Obligations.MarkersAdvanceFrames : Prop :=
  ∀ (s : State) (f : Word) (sw lg : Highway) (straps : BitVec 4) (o : FrameOrder) (i : Instr) (miss : Nat),
    s.stationState ≠ .reset → s.missCount < 16 → s.frameCount = some f → s.finishFrame.sendsRestart = false →
    (i = .frameMarker sw lg straps o ∧ miss = 0) ∨ (i = .missedFrameMarker sw lg o ∧ miss = s.missCount + 1) →
    ∃ t, exec i s = .next t ∧ t.frameCount = some (f + 1) ∧ t.missCount = miss ∧
      t.cycleCount = (if (f + 1).toNat % 40 = 0 then min (s.cycleCount + 1) 281474976710655 else s.cycleCount) ∧
      t.stationState = s.finishFrame.stationState ∧ t.stationNo = s.stationNo ∧ t.startCause = s.startCause ∧
      ∀ c, c < 256 →
        (t.circuit c).copperCode = (slotOf lg c).code ∧ (t.circuit c).historyAt (f + 1) = (slotOf lg c).sample ∧
        (∀ g : Word, g.toNat % 512 ≠ (f + 1).toNat % 512 → (t.circuit c).historyAt g = (s.finishFrame.circuit c).historyAt g) ∧
        (t.circuit c).capture = (s.finishFrame.circuit c).capture.drop 1 ++ [(slotOf sw c).sample] ∧
        (t.circuit c).captureCode = (slotOf sw c).code ∧
        (t.circuit c).path.tx =
          (if (t.circuit c).legacyReleased = true ∧ t.stationState.passes = false then
            ⟨idleCodeOf t.settings.law, t.settings.oosCode⟩ else slotOf sw c)

/-- R4, R97, R125: what a cycle boundary counts, seen in a command that changes nothing else: a LISTENING_END outside
LISTENING. The boundary of a frame is counted once. An entry whose fourth miss it counts stands PRESENT with a miss count of
4 until the PEER_LOSS or the close of the same frame makes it LOST (DESIGN CHOICE, log 42). R138: LISTENING ends at the
fourth boundary after its entry. The entry to OPERATING changes nothing else. From the frame of that boundary the rules of
OPERATING hold, before LISTENING_END is taken in it too, which is DEDUCED (log 40). Before it a LISTENING_END does no more
than count the frame's boundary (log 3). R4, R52, R78, R88, R118, R141: what the closing of a frame does that no command of
the frame has done. Which events are taken, and in which order, is DESIGN CHOICE (log 4, 5): the boundary is counted; the due
events are taken as their commands one after another would take them; the waiting orders are taken one after another, each as
its own command takes it, while the reply queue has room; the idle tests, the path selection and the quiet-run commands come
after those or, with the late flag, before them; then come the row, the service place and the orders that its reply has let
through. No order that can be taken is left waiting. A state timer, a settle or a hold that the count brings to 0 stands at 0
after it, in the same circuit state (DESIGN CHOICE, log 47). -/
def Obligations.BoundaryCountsAndListening : Prop :=
  (∀ s : State, s.todo.boundary = true → s.stationState ≠ .listening →
    ∃ t, exec .listeningEnd s = .next t ∧ t.todo.boundary = false ∧ t.listenLeft = s.listenLeft ∧
      (∀ c, c < 256 →
        (t.circuit c).stateTimer = (if (s.circuit c).state = .bridging ∨ (s.circuit c).state = .held
          then (s.circuit c).stateTimer - 1 else (s.circuit c).stateTimer) ∧
        (t.circuit c).silence = (if (s.circuit c).state = .vacant ∨ (s.circuit c).state = .copper ∨ (s.circuit c).state = .down
          then (s.circuit c).silence else min ((s.circuit c).silence + 1) 65535) ∧
        { t.circuit c with stateTimer := (s.circuit c).stateTimer, silence := (s.circuit c).silence } = s.circuit c) ∧
      (t.trunk.fallback.length = s.trunk.fallback.length ∧ ∀ (j : Nat) (f : FallbackRecord), s.trunk.fallback[j]? = some f →
        (f.live = none → t.trunk.fallback[j]? = some f) ∧
        (∀ l, f.live = some l → l.fresh = true → t.trunk.fallback[j]? = some f) ∧
        (∀ l, f.live = some l → l.fresh = false →
          t.trunk.fallback[j]? = some ⟨f.circuit, some ⟨l.frame, l.settle - 1, l.hold.map (fun h => h - 1), false⟩⟩)) ∧
      (∀ p, p < 15 →
        (s.peer p).state = .present →
          t.peer p = { s.peer p with heard := false, miss := if (s.peer p).heard then (s.peer p).miss else min ((s.peer p).miss + 1) 4 }) ∧
      (∀ p, p < 15 → (s.peer p).state ≠ .present → t.peer p = s.peer p) ∧
      t.trunk.waitQueue = s.trunk.waitQueue ∧ t.trunk.calendar = s.trunk.calendar ∧ s.trunk.sameReports t.trunk) ∧
  (∀ s : State, let u := s.settleBoundary
    s.stationState = .listening →
    (u.listenLeft = 0 → exec .listeningEnd s = .next { u with stationState := .operating }) ∧
    (u.listenLeft ≠ 0 → exec .listeningEnd s = .next u) ∧
    u.listenLeft = (if s.todo.boundary then s.listenLeft - 1 else s.listenLeft) ∧
    (s.stage = .operating ↔ u.listenLeft = 0) ∧ (s.stage = .listening ↔ u.listenLeft ≠ 0)) ∧
  (∀ s : State, let u := s.settleBoundary
    (s.todo.late = false →
      s.finishFrame = (((u.doAll dueCommands).takeAll).countIdles.giveAll.takeQuiet).buildRow.fillService.takeAll.sendLane) ∧
    (s.todo.late = true →
      s.finishFrame = (((u.countIdles.giveAll.takeQuiet).doAll dueCommands).takeAll).buildRow.fillService.takeAll.sendLane) ∧
    (s.takeQuiet = (List.range 256).foldl
      (fun v c => (v.onTrunk (fun x t => t.quietSplice x c)).onTrunk (fun x t => t.quietReverse x c)) s) ∧
    (∀ c, c < 256 → (s.circuit c).path.given = true →
      exec (.quietRunSplice c) s = .next (s.onTrunk (fun x t => t.quietSplice x c)) ∧
      exec (.quietRunReverseSplice c) s = .next (s.onTrunk (fun x t => t.quietReverse x c))) ∧
    (∀ (o : Order) (rest : List Order) (row : OrderRow), s.headIs o rest → o.row = some row →
      ∃ v, exec (commandOf row) s = .next v ∧ v.orderQueue = rest ∧ s.takeAll = v.takeAll) ∧
    (s.stationState.onStar = false ∨ 8 ≤ s.replyQueue.length ∨ s.restartTaken = true ∨ s.orderQueue = [] → s.takeAll = s) ∧
    (s.finishFrame.stationState.onStar = false ∨ 8 ≤ s.finishFrame.replyQueue.length ∨ s.finishFrame.restartTaken = true ∨
      s.finishFrame.orderQueue = []))

/-! ## The boot record -/

/-- R133, R134: the read of the boot record ends 1 to 40 frames after it began. The first test that fails puts the station in
CONFIG_BAD with its fault, and every setting, window and circuit stays as the start left it. A completion outside that time
changes nothing (DEDUCED, log 21). The time is told by the frame count, so after its wrap too (DESIGN CHOICE, log 45). -/
def Obligations.BootRecordFailures : Prop :=
  ∀ (s : State) (f : Word) (bytes : List Byte),
    s.stationState = .loading → s.bootReading = true → s.frameCount = some f →
    (1 ≤ f.toNat → f.toNat ≤ 40 → ∀ fault : ConfigFault,
      (bytesFrom (bootRecord bytes) 0 4 ≠ [0x3A, 0xC5, 0x5C, 0xA3] ∧ fault = .noMemory) ∨
      (bytesFrom (bootRecord bytes) 0 4 = [0x3A, 0xC5, 0x5C, 0xA3] ∧ byteAt (bootRecord bytes) 4 ≠ 1 ∧
        fault = .unknownVersion) ∨
      (bytesFrom (bootRecord bytes) 0 4 = [0x3A, 0xC5, 0x5C, 0xA3] ∧ byteAt (bootRecord bytes) 4 = 1 ∧
        (crc16 (bytesFrom (bootRecord bytes) 0 66)).toNat ≠ fieldAt (bootRecord bytes) 66 2 ∧ fault = .checkFailed) →
      exec (.bootReadComplete bytes) s =
        .next { s with stationState := .configBad, configFault := some fault, bootReading := false }) ∧
    (f = 0 ∨ 40 < f.toNat → exec (.bootReadComplete bytes) s = .next s)

/-- R1, R134, R137, R138: a record that passes the three tests binds the circuits and begins LISTENING, in frames 1 to 40 of
LOADING (log 21, 45). Each circuit in the local range of an enabled and VALID window is in COPPER with that window, its peer
and the circuit that lies as far above the peer base; every other circuit stays as it was. R129, R136: the windows of a good
record. Each keeps what the record gave it, and no matched flag is set. A window that is not enabled is NOT_ENABLED; an
enabled one is VALID exactly when both its ranges end by 256, its peer is neither 15 nor this station, and it collides with
no VALID window before it. Otherwise it is INVALID with the reason of the first test that fails, in the order LOCAL_RANGE,
PEER_RANGE, PEER_NUMBER, LOCAL_OVERLAP, PEER_OVERLAP. -/
def Obligations.BootWindowsBindCircuits : Prop :=
  (∀ (s : State) (f : Word) (bytes : List Byte),
    s.stationState = .loading → s.bootReading = true → s.frameCount = some f → 1 ≤ f.toNat → f.toNat ≤ 40 →
    bootFault (bootRecord bytes) = none →
    ∃ t, exec (.bootReadComplete bytes) s = .next t ∧ t.stationState = .listening ∧ t.bootReading = false ∧
      t.listenLeft = (if s.todo.boundary then 5 else 4) ∧ t.configFault = s.configFault ∧
      (∀ (j : Nat) (w : Window) (c : Nat), t.windows[j]? = some w → w.enabled = true → w.validity = .valid →
        w.localBase ≤ c → c < w.localBase + w.length →
        (t.circuit c).state = .copper ∧ (t.circuit c).binding = some ⟨j, w.peer, w.peerBase + (c - w.localBase)⟩) ∧
      (∀ c, (∀ w ∈ t.windows, w.enabled = true → w.validity = .valid → ¬(w.localBase ≤ c ∧ c < w.localBase + w.length)) →
        t.circuit c = s.circuit c) ∧
      s.trunk.sameLists t.trunk ∧ s.trunk.sameReports t.trunk ∧ t.peers = s.peers ∧ t.orderQueue = s.orderQueue ∧
      t.replyQueue = s.replyQueue ∧ t.cycleCount = s.cycleCount ∧ t.frameCount = s.frameCount) ∧
  (∀ (s : State) (f : Word) (bytes : List Byte) (j : Nat),
    let m := bootRecord bytes
    s.stationState = .loading → s.bootReading = true → s.frameCount = some f → 1 ≤ f.toNat → f.toNat ≤ 40 →
    bootFault m = none → j < 8 →
    ∃ t w, exec (.bootReadComplete bytes) s = .next t ∧ t.windows.length = 8 ∧ t.windows[j]? = some w ∧
      w.enabled = (byteAt m (34 + 4 * j)).getLsbD 7 ∧ w.peer = (byteAt m (34 + 4 * j)).toNat % 16 ∧
      w.localBase = (byteAt m (35 + 4 * j)).toNat ∧ w.peerBase = (byteAt m (36 + 4 * j)).toNat ∧
      w.length = (byteAt m (37 + 4 * j)).toNat + 1 ∧ w.matched = false ∧
      (w.validity = .notEnabled ↔ w.enabled = false) ∧
      (w.validity = .valid ↔ w.enabled = true ∧ w.localBase + w.length ≤ 256 ∧ w.peerBase + w.length ≤ 256 ∧
        w.peer ≠ 15 ∧ w.peer ≠ s.stationNo.getD 15 ∧
        ∀ i v, i < j → t.windows[i]? = some v → v.validity = .valid →
          (w.localBase + w.length ≤ v.localBase ∨ v.localBase + v.length ≤ w.localBase) ∧
          (v.peer = w.peer → w.peerBase + w.length ≤ v.peerBase ∨ v.peerBase + v.length ≤ w.peerBase)) ∧
      (w.validity = .localRange ↔ w.enabled = true ∧ 256 < w.localBase + w.length) ∧
      (w.validity = .peerRange ↔ w.enabled = true ∧ w.localBase + w.length ≤ 256 ∧ 256 < w.peerBase + w.length) ∧
      (w.validity = .peerNumber ↔ w.enabled = true ∧ w.localBase + w.length ≤ 256 ∧ w.peerBase + w.length ≤ 256 ∧
        (w.peer = 15 ∨ w.peer = s.stationNo.getD 15)) ∧
      (w.validity = .localOverlap ↔ w.enabled = true ∧ w.localBase + w.length ≤ 256 ∧ w.peerBase + w.length ≤ 256 ∧
        w.peer ≠ 15 ∧ w.peer ≠ s.stationNo.getD 15 ∧
        ∃ i v, i < j ∧ t.windows[i]? = some v ∧ v.validity = .valid ∧
          w.localBase < v.localBase + v.length ∧ v.localBase < w.localBase + w.length) ∧
      (w.validity = .peerOverlap ↔ w.enabled = true ∧ w.localBase + w.length ≤ 256 ∧ w.peerBase + w.length ≤ 256 ∧
        w.peer ≠ 15 ∧ w.peer ≠ s.stationNo.getD 15 ∧
        (∀ i v, i < j → t.windows[i]? = some v → v.validity = .valid →
          w.localBase + w.length ≤ v.localBase ∨ v.localBase + v.length ≤ w.localBase) ∧
        ∃ i v, i < j ∧ t.windows[i]? = some v ∧ v.validity = .valid ∧ v.peer = w.peer ∧
          w.peerBase < v.peerBase + v.length ∧ v.peerBase < w.peerBase + w.length))

/-- R30, R32, R92, R120, R135, Table 4.2: the settings of a good record, whose read ends in frames 1 to 40 (log 21, 45).
Every parameter is brought into its range and a time is turned into the smallest number of whole cycles that is not shorter;
the settle time is then at least the splice hold. Each correction is one clamped item, and the clamp count is their number.
-/
def Obligations.BootParametersClamped : Prop :=
  ∀ (s : State) (f : Word) (bytes : List Byte),
    let m := bootRecord bytes
    let v := fun k => fieldAt m (10 + 2 * k) 2
    s.stationState = .loading → s.bootReading = true → s.frameCount = some f → 1 ≤ f.toNat → f.toNat ≤ 40 →
    bootFault m = none →
    ∃ t, exec (.bootReadComplete bytes) s = .next t ∧
      t.settings.params.guard = max 8 (min (v 0) 64) ∧ t.settings.params.dmax = min (v 1) 224 ∧
      t.settings.params.qmin = max 40 (min (v 2) 400) ∧ t.settings.params.threshold = min (v 3) 127 ∧
      t.settings.params.alignTimeout = 200 * max 1 (min (v 4) 60) ∧
      t.settings.params.bridgeIdle = (max 20 (min (v 5) 1000) + 4) / 5 ∧
      t.settings.params.streamLoss = (max 10 (min (v 6) 100) + 4) / 5 ∧
      t.settings.params.spliceHold = 200 * min (v 7) 10 ∧
      t.settings.params.settle = max (200 * max 1 (min (v 8) 600)) (200 * min (v 7) 10) ∧
      t.settings.params.sigGuard = (max 10 (min (v 9) 200) + 4) / 5 ∧
      t.settings.params.idleQualify = (max 100 (min (v 10) 5000) + 4) / 5 ∧
      t.settings.params.peerHold = (max 500 (min (v 11) 10000) + 4) / 5 ∧
      t.settings.law = (if byteAt m 5 = 1 then .a else .mu) ∧ t.settings.policy = (if byteAt m 6 = 1 then .roll else .hold) ∧
      t.settings.idleCode = BitVec.ofNat 4 ((byteAt m 7).toNat / 16) ∧
      t.settings.oosCode = BitVec.ofNat 4 ((byteAt m 7).toNat % 16) ∧
      (∀ p, p < 15 → t.settings.acceptMask.getLsbD p = (fieldAt m 8 2).testBit p) ∧
      t.clampCount = t.clampedItems.length ∧ t.clampedItems.Nodup ∧
      (ClampItem.param .guard ∈ t.clampedItems ↔ v 0 < 8 ∨ 64 < v 0) ∧
      (ClampItem.param .dmax ∈ t.clampedItems ↔ 224 < v 1) ∧
      (ClampItem.param .qmin ∈ t.clampedItems ↔ v 2 < 40 ∨ 400 < v 2) ∧
      (ClampItem.param .threshold ∈ t.clampedItems ↔ 127 < v 3) ∧
      (ClampItem.param .alignTimeout ∈ t.clampedItems ↔ v 4 < 1 ∨ 60 < v 4) ∧
      (ClampItem.param .bridgeIdle ∈ t.clampedItems ↔ v 5 < 20 ∨ 1000 < v 5) ∧
      (ClampItem.param .streamLoss ∈ t.clampedItems ↔ v 6 < 10 ∨ 100 < v 6) ∧
      (ClampItem.param .spliceHold ∈ t.clampedItems ↔ 10 < v 7) ∧
      (ClampItem.param .settle ∈ t.clampedItems ↔ v 8 < 1 ∨ 600 < v 8) ∧
      (ClampItem.param .sigGuard ∈ t.clampedItems ↔ v 9 < 10 ∨ 200 < v 9) ∧
      (ClampItem.param .idleQualify ∈ t.clampedItems ↔ v 10 < 100 ∨ 5000 < v 10) ∧
      (ClampItem.param .peerHold ∈ t.clampedItems ↔ v 11 < 500 ∨ 10000 < v 11) ∧
      (ClampItem.settleRaised ∈ t.clampedItems ↔ max 1 (min (v 8) 600) < min (v 7) 10) ∧
      (ClampItem.policyCode ∈ t.clampedItems ↔ 1 < (byteAt m 6).toNat) ∧
      (ClampItem.lawCode ∈ t.clampedItems ↔ 1 < (byteAt m 5).toNat)

/-- R1, R133, R135, R136, R139: between one start and the next nothing changes the station number, the start cause, the
configuration fault, the settings, the windows apart from their matched flags, or the binding of a circuit, but the end of
the boot read; and the station state, but the end of LISTENING too. A marker keeps them all outside RESET, with fewer than 16
misses and no RESTART's reply leaving with the frame it closes: there it is a start (R29, R149). The other commands leave the
frame, cycle and miss counts alone. -/
def Obligations.ConfigurationFixedBetweenStarts : Prop :=
  (∀ (i : Instr) (s t : State), exec i s = .next t →
    (∀ sw lg st o, i ≠ .frameMarker sw lg st o) → (∀ sw lg o, i ≠ .missedFrameMarker sw lg o) → (∀ m, i ≠ .bootReadComplete m) →
    i ≠ .powerOn → i ≠ .resetPin → i ≠ .resetPinRelease → i ≠ .timingLoss → i ≠ .orderStart →
    t.stationNo = s.stationNo ∧ t.startCause = s.startCause ∧ t.configFault = s.configFault ∧ t.settings = s.settings ∧
      t.clampCount = s.clampCount ∧ t.clampedItems = s.clampedItems ∧ t.frameCount = s.frameCount ∧
      t.cycleCount = s.cycleCount ∧ t.missCount = s.missCount ∧ (i ≠ .listeningEnd → t.stationState = s.stationState) ∧
      t.windows.map (fun w => { w with matched := false }) = s.windows.map (fun w => { w with matched := false }) ∧
      ∀ c, (t.circuit c).binding = (s.circuit c).binding) ∧
  ∀ (s t : State) (i : Instr) (sw lg : Highway) (straps : BitVec 4) (o : FrameOrder),
    i = .frameMarker sw lg straps o ∨ i = .missedFrameMarker sw lg o →
    s.stationState ≠ .reset → s.missCount < 16 → s.finishFrame.sendsRestart = false → exec i s = .next t →
    t.stationNo = s.stationNo ∧ t.startCause = s.startCause ∧ t.configFault = s.configFault ∧ t.settings = s.settings ∧
      t.clampCount = s.clampCount ∧ t.clampedItems = s.clampedItems ∧ t.bootReading = s.bootReading ∧ t.windows = s.windows ∧
      (t.stationState = s.stationState ∨ (s.stationState = .listening ∧ t.stationState = .operating)) ∧
      ∀ c, (t.circuit c).binding = (s.circuit c).binding

/-! ## Sample paths and supervision -/

/-- R30, R31: the magnitude index of both laws, bit by bit for A-law; the idle codes have index 0, so fill is quiet at every
threshold; a threshold of 127 makes every sample quiet. -/
def Obligations.MagnitudeIndexAndQuiet : Prop :=
  (∀ b : Byte, b.toNat < 128 → magnitude .mu b + b.toNat = 127) ∧
  (∀ b : Byte, 128 ≤ b.toNat → magnitude .mu b + b.toNat = 255) ∧
  (∀ (b : Byte) (i : Nat), i < 7 → (magnitude .a b).testBit i = (b.getLsbD i != decide (i % 2 = 0))) ∧
  (∀ b : Byte, magnitude .a b < 128) ∧ (∀ l : Law, magnitude l (idleCodeOf l) = 0) ∧
  (∀ (st : Settings) (b : Byte), isActive st b = true ↔ st.params.threshold < magnitude st.law b) ∧
  ∀ (st : Settings) (b : Byte), st.params.threshold = 127 → isActive st b = false

/-- R34 to R38, R53, R54: the sample and the code given to the switch in a frame follow the circuit's source, which follows
its state; the sample given becomes the last sample and the code the delivered supervision. A concealed frame repeats the
last sample while the run count is below 40 and gives the idle code from then on. A run of fill frames is taken at counts
below 65536; those of the part are at most 224 (the invariant StepKeepsRecords). R34, R35, R47: a slot in SPLICED,
REVERT_WAIT or COMMITTED plays fibre at the playout offset, and its read is made after the frame's cells (DEDUCED, log 31):
no order of works gives it as the frame begins (log 4). In the path selection that closes the frame, a present sample is
given with its cell's code and an absent one is concealed. A guard that runs gives the frozen code; one whose count has
reached 0 has ended (R40). R33: in LOADING, OFF_STAR and CONFIG_BAD the slot passes, sample and supervision, whatever its
guard. R6, R33, R34, R36: a marker, come or missed, fixes the source of every slot for its frame by the circuit's state; a
slot not asked for as the frame begins is given later. R35 to R38, R53, R54, R76: the path selection that closes the frame
gives each slot that has not been given (log 4), by its source: COPPER the frame's copper sample and code, FILL the idle
code, OUT_OF_SERVICE the idle code with the out-of-service value, HOLDOVER what a concealed frame gives. A guard that runs
gives its frozen code in OPERATING and LISTENING. The sample given updates the quiet-run count; with the path selection asked
for as the frame begins it is said too whether the update has found a quiet run (R78, R88). -/
def Obligations.SlotGivenBySource : Prop :=
  (∀ (s : State) (f : Word) (sw lg : Highway) (straps : BitVec 4) (o : FrameOrder) (i : Instr) (c : Nat) (r : Circuit),
    s.selectsAt f o c r → i = .frameMarker sw lg straps o ∨ i = .missedFrameMarker sw lg o →
    ∃ t, exec i s = .next t ∧
      (t.circuit c).path.lastSample = (t.circuit c).path.rx.sample ∧ (t.circuit c).deliveredCode = (t.circuit c).path.rx.code ∧
      (r.state = .vacant ∨ r.state = .copper ∨ r.state.beforeSplice = true →
        (t.circuit c).path.rx = slotOf lg c ∧ (t.circuit c).path.runCount = 0) ∧
      (r.state = .down →
        (t.circuit c).path.rx = ⟨idleCodeOf t.settings.law, t.settings.oosCode⟩ ∧ (t.circuit c).path.runCount = 0) ∧
      (∀ run, r.state.onFibre = true → r.splice.fill = some run → run.count < 65536 →
        (f + 1 - run.start).toNat < run.count →
        (t.circuit c).path.rx = ⟨idleCodeOf t.settings.law, r.deliveredCode⟩ ∧ (t.circuit c).path.runCount = 0 ∧
          (t.circuit c).counters.fills = min (r.counters.fills + 1) 65535) ∧
      (r.state = .held →
        (t.circuit c).path.rx.sample =
            (if r.path.runCount < 40 then r.path.lastSample else idleCodeOf t.settings.law) ∧
          (t.circuit c).path.rx.code = r.deliveredCode ∧ (t.circuit c).path.runCount = min (r.path.runCount + 1) 40 ∧
          (t.circuit c).counters.concealed = min (r.counters.concealed + 1) 65535) ∧
      (t.circuit c).splice.quietRun =
        (if isActive t.settings (t.circuit c).path.rx.sample = true then 0 else min (r.splice.quietRun + 1) 400) ∧
      ((t.circuit c).splice.ripe = true ↔
        (r.state = .spliceWait ∨ r.state = .revertWait) ∧ t.settings.params.qmin ≤ (t.circuit c).splice.quietRun)) ∧
  ((∀ (s : State) (f p : Word) (sw lg : Highway) (straps : BitVec 4) (o : FrameOrder) (i : Instr) (c : Nat) (r : Circuit),
    i = .frameMarker sw lg straps o ∨ i = .missedFrameMarker sw lg o → s.stationState.passes = false → s.missCount < 16 → s.frameCount = some f → s.finishFrame.sendsRestart = false → c < 256 →
    r = s.finishFrame.circuit c → r.state.onFibre = true → r.splice.fill = none → r.splice.playOffset = some p →
    ∃ t, exec i s = .next t ∧ (t.circuit c).path.source = .fibre p ∧
      (t.circuit c).path.given = false ∧ (t.circuit c).path.rx = r.path.rx) ∧
  (∀ (s : State) (c : Nat) (p : Word) (r : Circuit), let t := s.giveAll
    s.selectionDue c r → r.path.source = .fibre p →
    (t.circuit c).path.given = true ∧ (t.circuit c).path.lastSample = (t.circuit c).path.rx.sample ∧
      (t.circuit c).deliveredCode = (t.circuit c).path.rx.code ∧
      (∀ b, r.playoutAt (s.frame - p) = some b →
        (t.circuit c).path.rx.sample = b ∧ (t.circuit c).path.runCount = 0 ∧ (t.circuit c).counters = r.counters ∧
          ((∀ g, r.guard = some g → g.left = 0) → (t.circuit c).path.rx.code = (r.positionOf (s.frame - p)).code)) ∧
      (r.playoutAt (s.frame - p) = none →
        (t.circuit c).path.rx.sample =
            (if r.path.runCount < 40 then r.path.lastSample else idleCodeOf s.settings.law) ∧
          (t.circuit c).path.runCount = min (r.path.runCount + 1) 40 ∧
          (t.circuit c).counters.concealed = min (r.counters.concealed + 1) 65535 ∧
          ((∀ g, r.guard = some g → g.left = 0) → (t.circuit c).path.rx.code = r.deliveredCode)) ∧
      (∀ g, r.guard = some g → g.left ≠ 0 → (t.circuit c).path.rx.code = g.frozen))) ∧
  (∀ (s : State) (f : Word) (sw lg : Highway) (straps : BitVec 4) (o : FrameOrder) (i : Instr) (c : Nat),
    i = .frameMarker sw lg straps o ∨ i = .missedFrameMarker sw lg o →
    s.stationState ≠ .reset → s.stationState.passes = true → s.missCount < 16 → s.frameCount = some f →
    s.finishFrame.sendsRestart = false → o.selectFirst = true → c < 256 → (s.finishFrame.circuit c).state.onFibre = false →
    ∃ t, exec i s = .next t ∧ (t.circuit c).path.rx = slotOf lg c ∧
      (t.circuit c).path.tx = slotOf sw c ∧ (t.circuit c).deliveredCode = (slotOf lg c).code ∧
      (t.circuit c).path.runCount = 0) ∧
  ((∀ (s : State) (f : Word) (sw lg : Highway) (straps : BitVec 4) (o : FrameOrder) (i : Instr) (c : Nat) (r : Circuit),
    i = .frameMarker sw lg straps o ∨ i = .missedFrameMarker sw lg o → s.stationState ≠ .reset → s.missCount < 16 →
    s.frameCount = some f → s.finishFrame.sendsRestart = false → c < 256 → r = s.finishFrame.circuit c →
    ∃ t, exec i s = .next t ∧ (o.selectFirst = false → (t.circuit c).path.given = false ∧ (t.circuit c).path.rx = r.path.rx) ∧
      (s.stationState.passes = false →
        (r.state = .vacant ∨ r.state = .copper ∨ r.state.beforeSplice = true → (t.circuit c).path.source = .copper) ∧
        (r.state = .held → (t.circuit c).path.source = .holdover) ∧
        (r.state = .down → (t.circuit c).path.source = .outOfService) ∧
        (∀ run, r.state.onFibre = true → r.splice.fill = some run → run.count < 65536 →
          (f + 1 - run.start).toNat < run.count →
          (t.circuit c).path.source = .fill)) ∧
      (s.stationState.passes = true → (t.circuit c).path.source = .copper)) ∧
  (∀ (s : State) (c : Nat) (r : Circuit), let t := s.giveAll
    s.selectionDue c r →
    (t.circuit c).path.given = true ∧ (t.circuit c).path.lastSample = (t.circuit c).path.rx.sample ∧
      (t.circuit c).deliveredCode = (t.circuit c).path.rx.code ∧
      (t.circuit c).splice.quietRun =
        (if isActive s.settings (t.circuit c).path.rx.sample = true then 0 else min (r.splice.quietRun + 1) 400) ∧
      (r.path.source = .copper → (t.circuit c).path.rx.sample = (slotOf s.legacyIn c).sample ∧
        (t.circuit c).path.runCount = 0 ∧ (t.circuit c).counters = r.counters ∧
        ((∀ g, r.guard = some g → g.left = 0) → (t.circuit c).path.rx.code = (slotOf s.legacyIn c).code)) ∧
      (r.path.source = .fill → (t.circuit c).path.rx.sample = idleCodeOf s.settings.law ∧ (t.circuit c).path.runCount = 0 ∧
        (t.circuit c).counters = { r.counters with fills := min (r.counters.fills + 1) 65535 } ∧
        ((∀ g, r.guard = some g → g.left = 0) → (t.circuit c).path.rx.code = r.deliveredCode)) ∧
      (r.path.source = .outOfService → (t.circuit c).path.rx.sample = idleCodeOf s.settings.law ∧
        (t.circuit c).path.runCount = 0 ∧ (t.circuit c).counters = r.counters ∧
        ((∀ g, r.guard = some g → g.left = 0) → (t.circuit c).path.rx.code = s.settings.oosCode)) ∧
      (r.path.source = .holdover → (t.circuit c).path.rx.sample =
          (if r.path.runCount < 40 then r.path.lastSample else idleCodeOf s.settings.law) ∧
        (t.circuit c).path.runCount = min (r.path.runCount + 1) 40 ∧
        (t.circuit c).counters = { r.counters with concealed := min (r.counters.concealed + 1) 65535 } ∧
        ((∀ g, r.guard = some g → g.left = 0) → (t.circuit c).path.rx.code = r.deliveredCode)) ∧
      (∀ g, r.guard = some g → g.left ≠ 0 → (t.circuit c).path.rx.code = g.frozen)) ∧
  (∀ (s : State) (c : Nat), let t := s.giveAll
    s.stationState.passes = true → s.todo.select = true → c < 256 → (s.circuit c).path.given = false →
    (s.circuit c).path.source = .copper → (s.circuit c).state.onFibre = false →
    (t.circuit c).path.rx = slotOf s.legacyIn c ∧ (t.circuit c).deliveredCode = (slotOf s.legacyIn c).code ∧
      (t.circuit c).path.runCount = 0))

/-- R29, R39, R40, R41, R76: at the frame P of a splice or Q of a reverse splice the guard is loaded in full and the code
delivered in the frame before is delivered again, whether the frame begins with a marker or without one, and whether its
slots are given at once or later. The quiet-run count starts anew with the frame's own sample. Where the circuit has entered
DOWN in the frame of the decision no guard starts at P, and the count starts anew all the same (DEDUCED, log 33). A guard
that runs is counted at each later cycle boundary, and gives its frozen code in every slot that has been given. A guard of 1
stays so in another frame; at a cycle boundary it is counted to 0, and a slot that has been given has ended it and has the
code of its source (R37, R38), while a slot still to be given keeps it at 0 (DESIGN CHOICE, log 47). A fill run is taken
there at a count below 65536. -/
def Obligations.GuardFreezesSupervision : Prop :=
  ∀ (s : State) (f : Word) (sw lg : Highway) (straps : BitVec 4) (o : FrameOrder) (i : Instr) (c : Nat),
    i = .frameMarker sw lg straps o ∨ i = .missedFrameMarker sw lg o →
    s.stationState.passes = false → s.missCount < 16 → s.frameCount = some f → s.finishFrame.sendsRestart = false →
    c < 256 → 0 < s.finishFrame.settings.params.sigGuard →
    ((s.finishFrame.circuit c).splice.switchPoint = true → (s.finishFrame.circuit c).splice.guardOff = false →
      ∃ t, exec i s = .next t ∧
        (t.circuit c).guard = some ⟨t.settings.params.sigGuard, (s.finishFrame.circuit c).deliveredCode⟩ ∧
        (t.circuit c).deliveredCode = (s.finishFrame.circuit c).deliveredCode ∧
        ((t.circuit c).path.given = true → (t.circuit c).path.rx.code = (s.finishFrame.circuit c).deliveredCode) ∧
        (t.circuit c).splice.quietRun ≤ 1 ∧ (t.circuit c).splice.switchPoint = false) ∧
    ((s.finishFrame.circuit c).splice.switchPoint = true → (s.finishFrame.circuit c).splice.guardOff = true →
      ∃ t, exec i s = .next t ∧ (t.circuit c).guard = none ∧ (t.circuit c).splice.quietRun ≤ 1 ∧
        (t.circuit c).splice.switchPoint = false) ∧
    (∀ g, (s.finishFrame.circuit c).splice.switchPoint = false → (s.finishFrame.circuit c).guard = some g → 1 < g.left →
      ∃ t, exec i s = .next t ∧
        ((t.circuit c).path.given = true → (t.circuit c).deliveredCode = g.frozen ∧ (t.circuit c).path.rx.code = g.frozen) ∧
        (t.circuit c).guard = some ⟨if (f + 1).toNat % 40 = 0 then g.left - 1 else g.left, g.frozen⟩) ∧
    (∀ g, (s.finishFrame.circuit c).splice.switchPoint = false → (s.finishFrame.circuit c).guard = some g → g.left = 1 →
      ∃ t, exec i s = .next t ∧
        ((f + 1).toNat % 40 ≠ 0 → (t.circuit c).guard = some ⟨1, g.frozen⟩ ∧
          ((t.circuit c).path.given = true → (t.circuit c).deliveredCode = g.frozen ∧ (t.circuit c).path.rx.code = g.frozen)) ∧
        ((f + 1).toNat % 40 = 0 →
          ((t.circuit c).path.given = false → (t.circuit c).guard = some ⟨0, g.frozen⟩) ∧
          ((t.circuit c).path.given = true →
            (t.circuit c).guard = none ∧ (t.circuit c).deliveredCode = (t.circuit c).path.rx.code ∧
            ((t.circuit c).path.source = .copper → (t.circuit c).path.rx.code = (slotOf lg c).code) ∧
            ((t.circuit c).path.source = .outOfService → (t.circuit c).path.rx.code = t.settings.oosCode) ∧
            ((t.circuit c).path.source = .holdover →
              (t.circuit c).path.rx.code = (s.finishFrame.circuit c).deliveredCode) ∧
            ((t.circuit c).path.source = .fill →
              (∀ run, (s.finishFrame.circuit c).splice.fill = some run → run.count < 65536) →
              (t.circuit c).path.rx.code = (s.finishFrame.circuit c).deliveredCode))))

/-- R40: a guard whose count has reached 0 ends; before that a GUARD_END changes nothing (log 3). R36: at frame P + n the
fill count is used up and the path selector delivers FIBRE at the playout offset. In any other frame, for a circuit with no
fill frames running and for one off fibre, FILL_END changes nothing (log 3). -/
def Obligations.GuardAndFillRunOut : Prop :=
  (∀ (s : State) (c : Nat), c < 256 →
    ∃ t, exec (.guardEnd c) s = .next t ∧ s.sameOutside t ∧ s.trunk.sameOthers c t.trunk ∧ s.trunk.sameLists t.trunk ∧
      s.trunk.sameReports t.trunk ∧
      ((∃ g, (s.circuit c).guard = some g ∧ g.left = 0) → t.circuit c = { s.circuit c with guard := none }) ∧
      ((∀ g, (s.circuit c).guard = some g → g.left ≠ 0) → t.circuit c = s.circuit c)) ∧
  (∀ (s : State) (c : Nat), c < 256 →
    (∀ run, (s.circuit c).splice.fill = some run → (s.circuit c).state.onFibre = true →
      s.frame = run.start + BitVec.ofNat 16 run.count →
      ∃ t, exec (.fillEnd c) s = .next t ∧ s.sameOutside t ∧ s.trunk.onlyRecord c t.trunk ∧
        (∀ p, (s.circuit c).splice.playOffset = some p → (t.circuit c).path.source = .fibre p) ∧
        { t.circuit c with
          path := { (t.circuit c).path with source := (s.circuit c).path.source }
          splice := { (t.circuit c).splice with fill := some run } } = s.circuit c ∧ (t.circuit c).splice.fill = none) ∧
    ((∀ run, (s.circuit c).splice.fill = some run → (s.circuit c).state.onFibre = true →
        s.frame ≠ run.start + BitVec.ofNat 16 run.count) →
      ∃ t, exec (.fillEnd c) s = .next t ∧ s.sameOutside t ∧ s.trunk.unchanged t.trunk))

/-! ## Cells heard on the star -/

/-- R119, R158: a cell that fails the header check, or a beacon or order cell that fails its body check, is dropped and
counted in the entry of the lane's station; an empty place, and any place on a lane or in a station state in which the
station takes none, changes nothing; a reply is dropped without a count. A damaged beacon is counted whatever the accept mask
holds, since the body check comes before the mask (DEDUCED, log 19). The four cell commands sort a place by its own kind
(DESIGN CHOICE, log 20). R119, R158: the header check asks for a kind of 1 to 4, the lane's own number as the sender, one of
the six phases in a bearer cell, and the CRC-8 of bytes 0 to 4 in byte 5. -/
def Obligations.PlacesCheckedAndDamageCounted : Prop :=
  (∀ (s : State) (lane : Nat) (place : List Byte) (i : Instr),
    i = .bearerCell lane place ∨ i = .beacon lane place ∨ i = .orderCell lane place ∨ i = .replyCell lane place →
    (s.takesCell lane place →
      headerOk lane place = false ∨ (kindOf place = 2 ∧ beaconBodyOk place = false) ∨
        (kindOf place = 3 ∧ orderBodyOk place = false) →
      ∃ t, exec i s = .next t ∧ { t with peers := s.peers } = s ∧
        t.peer lane = { s.peer lane with headerErrors := min ((s.peer lane).headerErrors + 1) 255 } ∧
        ∀ q, q ≠ lane → t.peer q = s.peer q) ∧
    (s.takesCell lane place → headerOk lane place = true → kindOf place = 4 → exec i s = .next s) ∧
    (s.stationState.onStar = false ∨ 15 ≤ lane ∨ s.stationNo = some lane ∨ isEmptyPlace place = true → exec i s = .next s)) ∧
  (∀ (lane : Nat) (place : List Byte),
    headerOk lane place = true ↔
      1 ≤ (byteAt place 0).toNat / 32 ∧ (byteAt place 0).toNat / 32 ≤ 4 ∧ (byteAt place 0).toNat % 16 = lane ∧
      ((byteAt place 0).toNat / 32 = 1 → 1 ≤ (byteAt place 4).toNat / 16 % 8 ∧ (byteAt place 4).toNat / 16 % 8 ≤ 6) ∧
      byteAt place 5 = crc8 [byteAt place 0, byteAt place 1, byteAt place 2, byteAt place 3, byteAt place 4])

/-- R121, R140, R141: an order cell that passes its checks and is addressed to this station or to all joins the order queue,
or is counted when the queue holds four; one with another target is dropped. The waiting orders that can be taken are taken
before it joins (log 9). The accept mask does not apply to it (R120). -/
def Obligations.OrderCellsQueued : Prop :=
  ∀ (s : State) (lane : Nat) (place : List Byte), let u := s.takeAll
    s.takesCell lane place → headerOk lane place = true → kindOf place = 3 → orderBodyOk place = true →
    (((byteAt place 1).toNat % 16 = 15 ∨ s.stationNo = some ((byteAt place 1).toNat % 16)) → u.orderQueue.length < 4 →
      ∃ t o, exec (.orderCell lane place) s = .next t ∧ { t with orderQueue := u.orderQueue } = u ∧
        t.orderQueue = u.orderQueue ++ [o] ∧ o.source = lane ∧ o.tag = byteAt place 2 ∧ o.value = (byteAt place 3).toNat ∧
        o.kind = (byteAt place 4).toNat ∧ o.operand = (byteAt place 6).toNat ∧ o.segment = (byteAt place 7).toNat) ∧
    (((byteAt place 1).toNat % 16 = 15 ∨ s.stationNo = some ((byteAt place 1).toNat % 16)) → 4 ≤ u.orderQueue.length →
      exec (.orderCell lane place) s = .next { u with orderOverflow := min (u.orderOverflow + 1) 255 }) ∧
    ((byteAt place 1).toNat % 16 ≠ 15 → s.stationNo ≠ some ((byteAt place 1).toNat % 16) →
      exec (.orderCell lane place) s = .next s) ∧
    (s.orderQueue = [] ∨ 8 ≤ s.replyQueue.length ∨ s.restartTaken = true → u = s) ∧
    (u.orderQueue = [] ∨ 8 ≤ u.replyQueue.length ∨ u.restartTaken = true)

/-- R120, R124, R129: a beacon that passes its checks and the mask makes its station PRESENT and heard, stores its cycle
count and its digest, and forms the matched flags of the windows to that station again. A station that was LOST and comes
back with a count not below the stored one is reported PEER_BACK; a first beacon, or one from a PRESENT station with such a
count, enters no report. One from a station outside the mask changes nothing. A loss that this frame's boundary has brought
is not pending here (DEDUCED, log 7). -/
def Obligations.BeaconsKeepThePeerTable : Prop :=
  ∀ (s : State) (p : Nat) (place : List Byte),
    s.takesCell p place → headerOk p place = true → kindOf place = 2 → beaconBodyOk place = true →
    (s.settings.acceptMask.getLsbD p = false → exec (.beacon p place) s = .next s) ∧
    (s.settings.acceptMask.getLsbD p = true → (s.peer p).lossDue = false →
      (s.peer p).state = .absent ∨ (∃ n, (s.peer p).cycles = some n ∧ n ≤ fieldAt place 6 6) →
      ∃ t, exec (.beacon p place) s = .next t ∧ t.peer p = heardFrom place (s.peer p) ∧ (∀ q, q ≠ p → t.peer q = s.peer q) ∧
        { t with peers := s.peers, windows := s.windows, trunk := s.trunk } = s ∧
        t.trunk.circuits = s.trunk.circuits ∧ s.trunk.sameLists t.trunk ∧
        ((s.peer p).state = .lost → s.trunk.entered (aboutStation s.cycleCount p .peerBack) t.trunk) ∧
        ((s.peer p).state ≠ .lost → s.trunk.sameReports t.trunk) ∧ s.matchedFrom p place t)

/-- R10, R120, R128: a bearer cell of no window, or of a window that is not matched, is counted in the sender's entry and is
not delivered. In OPERATING, from the frame of R138's fourth boundary on (DEDUCED, log 40), its phase enters a MISMATCH
report for a circuit in COPPER, unless it is RELEASE or the filter drops it; that release cells remaining do not keep the
report out is DEDUCED (log 50). One from a station outside the mask changes nothing. -/
def Obligations.UnboundBearerCells : Prop :=
  ∀ (s : State) (p : Nat) (place : List Byte) (ph : Phase),
    s.takesCell p place → headerOk p place = true → kindOf place = 1 → phaseOf place = some ph →
    (s.settings.acceptMask.getLsbD p = false → exec (.bearerCell p place) s = .next s) ∧
    (s.settings.acceptMask.getLsbD p = true →
      (s.windows.find? (Window.maps p (senderCircuitOf place)) = none ∨
        ∃ w c, s.mapsCell p place w c ∧ w.matched = false) →
      ∃ t, exec (.bearerCell p place) s = .next t ∧
        t.peer p = { s.peer p with unbound := min ((s.peer p).unbound + 1) 255 } ∧ (∀ q, q ≠ p → t.peer q = s.peer q) ∧
        { t with peers := s.peers, trunk := s.trunk } = s ∧ s.trunk.sameLists t.trunk ∧
        (∀ d, { t.circuit d with lastReported := (s.circuit d).lastReported } = s.circuit d) ∧
        (s.windows.find? (Window.maps p (senderCircuitOf place)) = none → s.trunk.sameReports t.trunk) ∧
        (∀ w c b, s.mapsCell p place w c → c < 256 → (s.circuit c).binding = some b →
          (s.stage = .operating ∧ (s.circuit c).state = .copper ∧ ph ≠ .release ∧
            (s.circuit c).lastReported ≠ some .mismatch →
            s.trunk.entered (aboutCircuit s.cycleCount c b .mismatch none none ⟨false, false, false⟩) t.trunk) ∧
          (s.stage ≠ .operating ∨ (s.circuit c).state ≠ .copper ∨ ph = .release ∨
            (s.circuit c).lastReported = some .mismatch → s.trunk.sameReports t.trunk)))

/-- R7, R10, R42, R43: a cell delivered to a circuit in COPPER that does not follow it (RELEASE, or release cells remaining,
or a station that is not OPERATING, which holds until the frame of R138's fourth boundary (DEDUCED, log 40), or a peer that
is not PRESENT) is counted, ends the silence, sets the fibre-received supervision and stores its phase. Its samples and its
arrival offset are not kept. The same holds for a circuit in DOWN at the phases that do not re-bridge it (R26). -/
def Obligations.CellIgnoredOnCopper : Prop :=
  ∀ (s : State) (p c : Nat) (place : List Byte) (ph : Phase),
    s.delivers p place ph c →
    ((s.circuit c).state = .copper ∧ (ph = .release ∨ (s.circuit c).releaseCells ≠ 0 ∨ s.stage ≠ .operating ∨
        ∃ b, (s.circuit c).binding = some b ∧ (s.peer b.peer).state ≠ .present)) ∨
      ((s.circuit c).state = .down ∧ ph ≠ .bridging ∧ ph ≠ .aligned) →
    ∃ t, exec (.bearerCell p place) s = .next t ∧ s.sameOutside t ∧ s.trunk.onlyRecord c t.trunk ∧
      t.circuit c = { s.circuit c with
        counters := { (s.circuit c).counters with received := min ((s.circuit c).counters.received + 1) 65535 }
        silence := 0
        fibreCode := codeOf place
        peerPhase := some ph }

/-- R8, R10, R25, R45, R47, R58, R60, R107: a follow, and a re-bridge from DOWN that the calendar grants. In OPERATING, from
the frame of R138's fourth boundary on (DEDUCED, log 40), a cell announcing a fibre phase to a circuit in COPPER with no
release cells and a PRESENT peer, and a cell announcing BRIDGING or ALIGNED to a circuit in DOWN, brings it into BRIDGING in
the emptiest row of the calendar. The cell is its first: its arrival offset is Obase and stands alone in the ring, its
samples are in the playout buffer and nothing else is, its window waits for frame J, and its phase is stored. No guard
starts, no report is entered, and the legacy-released flag is clear. R10, R107, R154: a follow that finds every row full is
ignored, with a LANE_FULL report that the filter may drop. So is a re-bridge from DOWN (R25). -/
def Obligations.FollowBridgesOrIsRefused : Prop :=
  (∀ (s : State) (p c k : Nat) (place : List Byte) (ph : Phase) (b : Binding),
    s.delivers p place ph c → (s.circuit c).binding = some b →
    ((s.circuit c).state = .copper ∧ (s.circuit c).releaseCells = 0 ∧ ph ≠ .release ∧ s.stage = .operating ∧
        (s.peer b.peer).state = .present) ∨
      ((s.circuit c).state = .down ∧ (ph = .bridging ∨ ph = .aligned)) →
    (s.circuit c).calendarRow = none → k < 40 → (s.trunk.row k).length < 6 →
    (∀ j, j < 40 → (s.trunk.row k).length < (s.trunk.row j).length ∨
      ((s.trunk.row k).length = (s.trunk.row j).length ∧ k ≤ j)) →
    ∃ t, exec (.bearerCell p place) s = .next t ∧ s.sameOutside t ∧ s.trunk.sameOthers c t.trunk ∧
      t.trunk.row k = s.trunk.row k ++ [c] ∧ (∀ j, j ≠ k → t.trunk.row j = s.trunk.row j) ∧
      t.trunk.fallback = s.trunk.fallback ∧ t.trunk.waitQueue = s.trunk.waitQueue ∧ s.trunk.sameReports t.trunk ∧
      (t.circuit c).state = .bridging ∧ (t.circuit c).calendarRow = some k ∧ (t.circuit c).silence = 0 ∧
      (t.circuit c).stateTimer = s.settings.params.alignTimeout ∧
      (t.circuit c).align.obase = some (s.frame - ssnOf place) ∧ (t.circuit c).ring = [s.frame - ssnOf place] ∧
      (t.circuit c).align.candidates = .whole ∧ (t.circuit c).align.contributing = 0 ∧ (t.circuit c).align.offset = none ∧
      (t.circuit c).align.verifyMiss = 0 ∧ (t.circuit c).align.idleQualify = 0 ∧
      (t.circuit c).align.judging = [⟨ssnOf place, s.frame + 263⟩] ∧
      (t.circuit c).splice.playOffset = none ∧ (t.circuit c).splice.deficit = none ∧
      (t.circuit c).splice.lastKind = (s.circuit c).splice.lastKind ∧ (t.circuit c).splice.flags = (s.circuit c).splice.flags ∧
      (t.circuit c).splice.switchPoint = (s.circuit c).splice.switchPoint ∧ (t.circuit c).guard = (s.circuit c).guard ∧
      (t.circuit c).deferredRevert = false ∧ (t.circuit c).legacyReleased = false ∧ (t.circuit c).peerPhase = some ph ∧
      (t.circuit c).lastReported = none ∧ (t.circuit c).history = (s.circuit c).history ∧
      (t.circuit c).fibreCode = codeOf place ∧
      (t.circuit c).counters =
        { (s.circuit c).counters with received := min ((s.circuit c).counters.received + 1) 65535 } ∧
      (∀ i, i < 40 → (t.circuit c).positionOf (ssnOf place + BitVec.ofNat 16 i) =
        ⟨sampleOf place i, some (ssnOf place + BitVec.ofNat 16 i), codeOf place⟩) ∧
      (∀ u : Word, (∀ i, i < 40 → u ≠ ssnOf place + BitVec.ofNat 16 i) → (t.circuit c).playoutAt u = none)) ∧
  (∀ (s : State) (p c : Nat) (place : List Byte) (ph : Phase) (b : Binding),
    s.delivers p place ph c → (s.circuit c).binding = some b → (s.circuit c).calendarRow = none →
    (∀ k, k < 40 → 6 ≤ (s.trunk.row k).length) →
    ((s.circuit c).state = .copper ∧ (s.circuit c).releaseCells = 0 ∧ ph ≠ .release ∧ s.stage = .operating ∧
      (s.peer b.peer).state = .present) ∨ ((s.circuit c).state = .down ∧ (ph = .bridging ∨ ph = .aligned)) →
    ∃ t, exec (.bearerCell p place) s = .next t ∧ s.sameOutside t ∧ s.trunk.sameOthers c t.trunk ∧ s.trunk.sameLists t.trunk ∧
      (t.circuit c).state = (s.circuit c).state ∧ (t.circuit c).peerPhase = some ph ∧ (t.circuit c).ring = (s.circuit c).ring ∧
      (t.circuit c).playout = (s.circuit c).playout ∧
      ((s.circuit c).lastReported ≠ some .laneFull →
        s.trunk.entered (aboutCircuit s.cycleCount c b .laneFull none none ⟨false, false, false⟩) t.trunk) ∧
      ((s.circuit c).lastReported = some .laneFull → s.trunk.sameReports t.trunk))

/-- R43, R45, R47 to R50, R60: a cell delivered to a circuit on fibre or HELD, whose phase leaves the state as it is, is
judged by its lead at O′. With a lead of 473 or more it is early: counted, pushed to the ring, and neither written nor handed
on. With 472 or less it is written, and with a negative lead it is late and counted so. The ring keeps the newest sixteen. A
cell that is written offers its window to the judging list on fibre with O present and the copper leg not released; else the
list stays. R22, R23, R43, R51: the same of COMMITTED heard in COMMITTED, and of SPLICED or COMMITTED that brings a HELD
circuit back: the work is done in COMMITTED at the unchanged O′. A circuit whose copper leg is released by then takes no
window; whether a cell that brings one back without that is itself a window is free (DESIGN CHOICE, log 38). R42, R43, R45,
R47, R58, R60: a cell delivered in BRIDGING, ALIGNED, SPLICE_PENDING or SPLICE_WAIT, with another phase than RELEASE, is
counted, pushed to the ring and written, whatever the arrival then brings at the splice unit. The first after a CUT fixes
Obase, and a later one leaves it. The cell offers its window to the judging list at Obase. R12, R13, R51, R74: in
SPLICE_PENDING, and in ALIGNED with fewer than 16 offsets in the ring or the pause flag set, nothing else changes; BRIDGING
is in IdleTestInBridging. -/
def Obligations.DeliveredCellsWorkByState : Prop :=
  (∀ (s : State) (p c : Nat) (place : List Byte) (ph : Phase) (o : Word),
    s.delivers p place ph c → (s.circuit c).splice.playOffset = some o → (s.circuit c).ring.length ≤ 16 →
    (((s.circuit c).state = .spliced ∨ (s.circuit c).state = .revertWait) ∧ ph ≠ .release) ∨
      ((s.circuit c).state = .committed ∧ (ph = .spliced ∨ ph = .reverting)) ∨
      ((s.circuit c).state = .held ∧ ph = .reverting) →
    ∃ t, exec (.bearerCell p place) s = .next t ∧ s.sameOutside t ∧ s.trunk.onlyRecord c t.trunk ∧
      t.circuit c = { s.circuit c with
        silence := 0
        fibreCode := codeOf place
        peerPhase := some ph
        ring := ((s.circuit c).ring ++ [s.frame - ssnOf place]).drop ((s.circuit c).ring.length - 15)
        counters := (t.circuit c).counters
        playout := (t.circuit c).playout
        align := (t.circuit c).align } ∧
      (473 ≤ (o - (s.frame - ssnOf place)).toInt →
        (t.circuit c).playout = (s.circuit c).playout ∧ (t.circuit c).align = (s.circuit c).align ∧
          (t.circuit c).counters = { (s.circuit c).counters with
            received := min ((s.circuit c).counters.received + 1) 65535
            early := min ((s.circuit c).counters.early + 1) 65535 }) ∧
      ((o - (s.frame - ssnOf place)).toInt ≤ 472 →
        (s.circuit c).wroteCell place (t.circuit c) ∧
        (∀ ob, (s.circuit c).align.obase = some ob → (s.circuit c).state.onFibre = true → (s.circuit c).align.offset ≠ none →
          (s.circuit c).legacyReleased = false → (t.circuit c).align = { (s.circuit c).align with
            judging := windowEntered s.frame (ssnOf place) ob (s.circuit c).align.judging }) ∧
        ((s.circuit c).state = .held ∨ (s.circuit c).align.offset = none ∨ (s.circuit c).legacyReleased = true ∨
            (s.circuit c).align.obase = none →
          (t.circuit c).align = (s.circuit c).align)) ∧
      ((o - (s.frame - ssnOf place)).toInt ≤ -1 →
        (t.circuit c).counters = { (s.circuit c).counters with
          received := min ((s.circuit c).counters.received + 1) 65535
          late := min ((s.circuit c).counters.late + 1) 65535 }) ∧
      (0 ≤ (o - (s.frame - ssnOf place)).toInt → (o - (s.frame - ssnOf place)).toInt ≤ 472 →
        (t.circuit c).counters =
          { (s.circuit c).counters with received := min ((s.circuit c).counters.received + 1) 65535 })) ∧
  (∀ (s : State) (p c : Nat) (place : List Byte) (ph : Phase) (o : Word) (released : Bool) (idle : Nat),
    s.delivers p place ph c → (s.circuit c).splice.playOffset = some o →
    ((s.circuit c).state = .committed ∧ ph = .committed ∧ released = true ∧ idle = (s.circuit c).align.idleQualify) ∨
      ((s.circuit c).state = .held ∧ (ph = .spliced ∨ ph = .committed) ∧ idle = 0 ∧
        released = ((s.circuit c).legacyReleased || decide (ph = .committed) || decide ((s.circuit c).peerPhase = some .committed))) →
    ∃ t, exec (.bearerCell p place) s = .next t ∧ s.sameOutside t ∧ s.trunk.sameOthers c t.trunk ∧ s.trunk.sameLists t.trunk ∧
      t.circuit c = { s.circuit c with
        state := .committed
        stateTimer := if (s.circuit c).state = .held then 0 else (s.circuit c).stateTimer
        legacyReleased := released
        lastReported := (t.circuit c).lastReported
        silence := 0
        fibreCode := codeOf place
        peerPhase := some ph
        ring := pushRing (s.circuit c).ring (s.frame - ssnOf place)
        counters := (t.circuit c).counters
        playout := (t.circuit c).playout
        align := { (s.circuit c).align with idleQualify := idle, judging := (t.circuit c).align.judging }
        splice := { (s.circuit c).splice with ripe := (t.circuit c).splice.ripe } } ∧
      (473 ≤ (o - (s.frame - ssnOf place)).toInt →
        (t.circuit c).playout = (s.circuit c).playout ∧ (t.circuit c).align.judging = (s.circuit c).align.judging ∧
          (t.circuit c).counters = { (s.circuit c).counters with
            received := min ((s.circuit c).counters.received + 1) 65535
            early := min ((s.circuit c).counters.early + 1) 65535 }) ∧
      ((o - (s.frame - ssnOf place)).toInt ≤ 472 → (s.circuit c).wroteCell place (t.circuit c) ∧
        (released = true ∨ (s.circuit c).align.offset = none ∨ (s.circuit c).align.obase = none →
          (t.circuit c).align.judging = (s.circuit c).align.judging) ∧
        ∀ ob, (s.circuit c).align.obase = some ob →
          (t.circuit c).align.judging = (s.circuit c).align.judging ∨
            (t.circuit c).align.judging = windowEntered s.frame (ssnOf place) ob (s.circuit c).align.judging) ∧
      ((o - (s.frame - ssnOf place)).toInt ≤ -1 →
        (t.circuit c).counters = { (s.circuit c).counters with
          received := min ((s.circuit c).counters.received + 1) 65535
          late := min ((s.circuit c).counters.late + 1) 65535 }) ∧
      (0 ≤ (o - (s.frame - ssnOf place)).toInt → (o - (s.frame - ssnOf place)).toInt ≤ 472 →
        (t.circuit c).counters =
          { (s.circuit c).counters with received := min ((s.circuit c).counters.received + 1) 65535 })) ∧
  (∀ (s : State) (p c : Nat) (place : List Byte) (ph : Phase),
    s.delivers p place ph c → (s.circuit c).state.beforeSplice = true → ph ≠ .release →
    ∃ t, exec (.bearerCell p place) s = .next t ∧ s.sameOutside t ∧ t.trunk.calendar = s.trunk.calendar ∧
      t.circuit c = { s.circuit c with
        silence := 0
        fibreCode := codeOf place
        peerPhase := some ph
        ring := pushRing (s.circuit c).ring (s.frame - ssnOf place)
        counters := { (s.circuit c).counters with received := min ((s.circuit c).counters.received + 1) 65535 }
        playout := (t.circuit c).playout
        align := { (t.circuit c).align with
          candidates := (s.circuit c).align.candidates
          contributing := (s.circuit c).align.contributing
          verifyMiss := (s.circuit c).align.verifyMiss }
        state := (t.circuit c).state
        splice := (t.circuit c).splice
        stateTimer := (t.circuit c).stateTimer
        deferredRevert := (t.circuit c).deferredRevert
        legacyReleased := (t.circuit c).legacyReleased
        lastReported := (t.circuit c).lastReported } ∧
      (s.circuit c).wroteCell place (t.circuit c) ∧
      (∀ ob, (s.circuit c).align.obase = some ob ∨
          ((s.circuit c).align.obase = none ∧ (s.circuit c).state = .bridging ∧ ob = s.frame - ssnOf place) →
        (t.circuit c).align.obase = some ob ∧
          (t.circuit c).align.judging = windowEntered s.frame (ssnOf place) ob (s.circuit c).align.judging) ∧
      ((s.circuit c).align.obase = none → (s.circuit c).state ≠ .bridging →
        (t.circuit c).align.obase = none ∧ (t.circuit c).align.judging = (s.circuit c).align.judging) ∧
      ((s.circuit c).state = .splicePending ∨ ((s.circuit c).state = .aligned ∧
          ((pushRing (s.circuit c).ring (s.frame - ssnOf place)).length ≠ 16 ∨ s.paused = true)) →
        s.trunk.onlyRecord c t.trunk ∧ t.circuit c = { s.circuit c with
          silence := 0
          fibreCode := codeOf place
          peerPhase := some ph
          ring := pushRing (s.circuit c).ring (s.frame - ssnOf place)
          counters := { (s.circuit c).counters with received := min ((s.circuit c).counters.received + 1) 65535 }
          playout := (t.circuit c).playout
          align := { (s.circuit c).align with judging := (t.circuit c).align.judging } }))

/-- R49: an early cell is discarded. Its samples are not written and the early-cells counter goes up by one, stopping at
65535; the updates of R42, the phase of R43 and the push of R45 are done all the same; the alignment unit and the splice unit
are not handed it. A cell has a lead in the states that hold a playout offset and where its phase leaves one; where the phase
does nothing but be stored, nothing else of the circuit changes. -/
def Obligations.EarlyCellDiscarded : Prop :=
  ∀ (s : State) (p c : Nat) (place : List Byte) (ph : Phase) (o : Word),
    s.delivers p place ph c → (s.circuit c).splice.playOffset = some o → 473 ≤ (o - (s.frame - ssnOf place)).toInt →
    (s.circuit c).state.onFibre = true ∨ (s.circuit c).state = .held → ph ≠ .release →
    ((s.circuit c).state = .committed ∨ (s.circuit c).state = .held → ph ≠ .bridging ∧ ph ≠ .aligned) →
    ∃ t, exec (.bearerCell p place) s = .next t ∧ s.sameOutside t ∧ s.trunk.sameOthers c t.trunk ∧
      s.trunk.sameLists t.trunk ∧
      (t.circuit c).playout = (s.circuit c).playout ∧
      (t.circuit c).counters = { (s.circuit c).counters with
        received := min ((s.circuit c).counters.received + 1) 65535
        early := min ((s.circuit c).counters.early + 1) 65535 } ∧
      (t.circuit c).silence = 0 ∧ (t.circuit c).fibreCode = codeOf place ∧ (t.circuit c).peerPhase = some ph ∧
      (t.circuit c).ring = pushRing (s.circuit c).ring (s.frame - ssnOf place) ∧
      (t.circuit c).align.judging = (s.circuit c).align.judging ∧ (t.circuit c).align.obase = (s.circuit c).align.obase ∧
      (t.circuit c).align.offset = (s.circuit c).align.offset ∧
      (t.circuit c).align.candidates = (s.circuit c).align.candidates ∧
      (t.circuit c).splice.playOffset = some o ∧ (t.circuit c).splice.deficit = (s.circuit c).splice.deficit ∧
      (((s.circuit c).state = .spliced ∨ (s.circuit c).state = .revertWait ∨
          ((s.circuit c).state = .committed ∧ (ph = .spliced ∨ ph = .reverting)) ∨
          ((s.circuit c).state = .held ∧ ph = .reverting)) →
        s.trunk.sameReports t.trunk ∧ t.circuit c = { s.circuit c with
          counters := (t.circuit c).counters
          silence := 0
          fibreCode := codeOf place
          peerPhase := some ph
          ring := pushRing (s.circuit c).ring (s.frame - ssnOf place) })

/-- R7, R16, R42, R98, R114: RELEASE from the peer abandons a circuit in BRIDGING, ALIGNED, SPLICE_PENDING or SPLICE_WAIT. It
is back on COPPER with four release cells and its row; its place in the splice wait queue and its record are gone, and no
report is entered. The cell is counted and its phase stored, and it is kept in no ring and no buffer. R20, R24, R52, R83,
R98, R114: RELEASE from the peer makes an URGENT reverse splice from SPLICED and REVERT_WAIT, and from COMMITTED and HELD
while the legacy-released flag is clear. The record goes with it. The cell is kept in no ring and no buffer. R24, R26, R41,
R109: RELEASE to a COMMITTED or HELD circuit whose copper leg is withdrawn brings it DOWN. It leaves the calendar and its
guard ends; the legacy-released flag stays set. -/
def Obligations.ReleasePhaseByState : Prop :=
  (∀ (s : State) (p c : Nat) (place : List Byte),
    s.delivers p place .release c → s.servesNone c → (s.circuit c).state.beforeSplice = true →
    ∃ t, exec (.bearerCell p place) s = .next t ∧ s.sameOutside t ∧ s.trunk.sameOthers c t.trunk ∧
      { s.circuit c with
        counters := { (s.circuit c).counters with received := min ((s.circuit c).counters.received + 1) 65535 }
        silence := 0
        fibreCode := codeOf place
        peerPhase := some .release }.backOnCopper (t.circuit c) ∧
      (t.circuit c).splice.lastKind = (s.circuit c).splice.lastKind ∧ (t.circuit c).splice.flags = (s.circuit c).splice.flags ∧
      (t.circuit c).splice.switchPoint = (s.circuit c).splice.switchPoint ∧
      t.trunk.fallback = withoutRecord c s.trunk.fallback ∧
      t.trunk.waitQueue = s.trunk.waitQueue.filter (fun d => decide (d ≠ c)) ∧ t.trunk.calendar = s.trunk.calendar ∧
      s.trunk.sameReports t.trunk) ∧
  (∀ (s : State) (p c : Nat) (place : List Byte) (b : Binding),
    s.delivers p place .release c → (s.circuit c).binding = some b → s.servesNone c →
    (s.circuit c).state = .spliced ∨ (s.circuit c).state = .revertWait ∨
      (((s.circuit c).state = .committed ∨ (s.circuit c).state = .held) ∧ (s.circuit c).legacyReleased = false) →
    ∃ t, exec (.bearerCell p place) s = .next t ∧ s.sameOutside t ∧ s.trunk.sameOthers c t.trunk ∧
      t.trunk.fallback = withoutRecord c s.trunk.fallback ∧ t.trunk.waitQueue = s.trunk.waitQueue ∧
      t.trunk.calendar = s.trunk.calendar ∧
      (t.circuit c).state = .copper ∧ (t.circuit c).releaseCells = 4 ∧ (t.circuit c).peerPhase = some .release ∧
      (t.circuit c).ring = [] ∧ (t.circuit c).align = ⟨none, .whole, 0, none, 0, 0, []⟩ ∧
      (t.circuit c).splice.playOffset = none ∧ (t.circuit c).splice.deficit = none ∧ (t.circuit c).splice.fill = none ∧
      (t.circuit c).splice.lastKind = some (.reverse .urgent) ∧ (t.circuit c).splice.switchPoint = true ∧
      (t.circuit c).splice.flags = ((s.circuit c).judgeReverse s.settings (s.frame + 1)).1 ∧
      (t.circuit c).deferredRevert = false ∧ (t.circuit c).legacyReleased = false ∧ (t.circuit c).stateTimer = 0 ∧
      (t.circuit c).silence = 0 ∧ (t.circuit c).calendarRow = (s.circuit c).calendarRow ∧
      (t.circuit c).playout = (s.circuit c).playout ∧
      s.trunk.entered (aboutCircuit s.cycleCount c b .reverted (some (.reverse .urgent))
        ((s.circuit c).judgeReverse s.settings (s.frame + 1)).2
        ((s.circuit c).judgeReverse s.settings (s.frame + 1)).1) t.trunk) ∧
  (∀ (s : State) (p c : Nat) (place : List Byte) (b : Binding),
    s.delivers p place .release c → (s.circuit c).binding = some b →
    (s.circuit c).state = .committed ∨ (s.circuit c).state = .held → (s.circuit c).legacyReleased = true →
    ∃ t, exec (.bearerCell p place) s = .next t ∧ s.sameOutside t ∧ s.trunk.sameOthers c t.trunk ∧
      t.trunk.fallback = s.trunk.fallback ∧ t.trunk.waitQueue = s.trunk.waitQueue ∧
      (∀ k, (s.circuit c).calendarRow = some k → t.trunk.row k = (s.trunk.row k).filter (fun d => decide (d ≠ c))) ∧
      (∀ k, (s.circuit c).calendarRow ≠ some k → t.trunk.row k = s.trunk.row k) ∧
      (t.circuit c).state = .down ∧ (t.circuit c).calendarRow = none ∧ (t.circuit c).legacyReleased = true ∧
      (t.circuit c).guard = none ∧ (t.circuit c).stateTimer = 0 ∧ (t.circuit c).ring = [] ∧
      (t.circuit c).align.obase = none ∧ (t.circuit c).align.offset = none ∧ (t.circuit c).splice.playOffset = none ∧
      (t.circuit c).splice.deficit = none ∧ (t.circuit c).align.judging = [] ∧ (t.circuit c).peerPhase = some .release ∧
      s.trunk.entered (aboutCircuit s.cycleCount c b .down none none ⟨false, false, false⟩) t.trunk)

/-- R22, R23: COMMITTED from the peer releases the copper leg of a COMMITTED circuit whose flag is clear, and SPLICED or
COMMITTED brings a HELD circuit back to COMMITTED with its offsets unchanged. R8, R25, R46, R58: BRIDGING or ALIGNED from the
peer of a COMMITTED or HELD circuit is an URGENT reverse splice into BRIDGING. The row is kept, the flag cleared, the playout
tags are marked absent, and the cell is the first of the new bridging. -/
def Obligations.PhasesOnCommittedAndHeld : Prop :=
  (∀ (s : State) (p c : Nat) (place : List Byte) (b : Binding) (ph : Phase),
    s.delivers p place ph c → (s.circuit c).binding = some b →
    ((s.circuit c).state = .committed → ph = .committed → (s.circuit c).legacyReleased = false →
      (s.circuit c).lastReported ≠ some .legacyReleased →
      ∃ t, exec (.bearerCell p place) s = .next t ∧ s.sameOutside t ∧ s.trunk.sameOthers c t.trunk ∧
        s.trunk.sameLists t.trunk ∧ (t.circuit c).state = .committed ∧ (t.circuit c).legacyReleased = true ∧
        (t.circuit c).peerPhase = some .committed ∧ (t.circuit c).splice = (s.circuit c).splice ∧
        (t.circuit c).align.offset = (s.circuit c).align.offset ∧
        s.trunk.entered (aboutCircuit s.cycleCount c b .legacyReleased none none ⟨false, false, false⟩) t.trunk) ∧
    ((s.circuit c).state = .held → ph = .spliced ∨ ph = .committed →
      ∃ t, exec (.bearerCell p place) s = .next t ∧ s.sameOutside t ∧ s.trunk.sameOthers c t.trunk ∧
        s.trunk.sameLists t.trunk ∧ (t.circuit c).state = .committed ∧ (t.circuit c).stateTimer = 0 ∧
        (t.circuit c).peerPhase = some ph ∧ (t.circuit c).silence = 0 ∧
        (t.circuit c).splice.playOffset = (s.circuit c).splice.playOffset ∧
        (t.circuit c).splice.deficit = (s.circuit c).splice.deficit ∧
        (t.circuit c).align.offset = (s.circuit c).align.offset ∧
        (t.circuit c).legacyReleased =
          ((s.circuit c).legacyReleased || decide (ph = .committed) || decide ((s.circuit c).peerPhase = some .committed)))) ∧
  (∀ (s : State) (p c : Nat) (place : List Byte) (b : Binding) (ph : Phase),
    s.delivers p place ph c → (s.circuit c).binding = some b →
    (s.circuit c).state = .committed ∨ (s.circuit c).state = .held → ph = .bridging ∨ ph = .aligned →
    ∃ t, exec (.bearerCell p place) s = .next t ∧ s.sameOutside t ∧ s.trunk.sameOthers c t.trunk ∧
      s.trunk.sameLists t.trunk ∧
      (t.circuit c).state = .bridging ∧ (t.circuit c).calendarRow = (s.circuit c).calendarRow ∧
      (t.circuit c).legacyReleased = false ∧ (t.circuit c).peerPhase = some ph ∧
      (t.circuit c).stateTimer = s.settings.params.alignTimeout ∧ (t.circuit c).silence = 0 ∧
      (t.circuit c).align.obase = some (s.frame - ssnOf place) ∧ (t.circuit c).ring = [s.frame - ssnOf place] ∧
      (t.circuit c).align.offset = none ∧ (t.circuit c).splice.playOffset = none ∧ (t.circuit c).splice.deficit = none ∧
      (t.circuit c).splice.lastKind = some (.reverse .urgent) ∧ (t.circuit c).splice.switchPoint = true ∧
      (t.circuit c).splice.fill = none ∧
      (t.circuit c).splice.flags = ((s.circuit c).judgeReverse s.settings (s.frame + 1)).1 ∧
      (∀ u : Word, (∀ i, i < 40 → u ≠ ssnOf place + BitVec.ofNat 16 i) → (t.circuit c).playoutAt u = none) ∧
      s.trunk.entered (aboutCircuit s.cycleCount c b .reverted (some (.reverse .urgent))
        ((s.circuit c).judgeReverse s.settings (s.frame + 1)).2
        ((s.circuit c).judgeReverse s.settings (s.frame + 1)).1) t.trunk)

/-! ## Alignment -/

/-- R59: the 449 positions stand for the offsets from Obase − 224 through Obase + 224; position 224 is Obase itself; every
offset differs from Obase by −224..+224; at a low Obase the domain begins at Obase + 65312 and goes on from 0, and at a high
one it ends past 65535 in the same way; without Obase the positions stand for no offset. -/
def Obligations.SearchDomainOffsets : Prop :=
  (∀ (ob : Word) (k : Nat), k < 449 → (domainOffset ob k - ob).toInt = (k : Int) - 224) ∧
  (∀ ob : Word, domainOffset ob 224 = ob) ∧
  (∀ (ob : Word) (k : Nat), ob.toNat < 224 → k + ob.toNat < 224 → (domainOffset ob k).toNat = ob.toNat + 65312 + k) ∧
  (∀ (ob : Word) (k : Nat), k < 449 → 224 ≤ k + ob.toNat → k + ob.toNat ≤ 65759 →
    (domainOffset ob k).toNat = ob.toNat + k - 224) ∧
  (∀ (ob : Word) (k : Nat), k < 449 → 65759 < k + ob.toNat → (domainOffset ob k).toNat = ob.toNat + k - 224 - 65536) ∧
  ∀ r : Circuit, r.align.obase = none → r.lowestOffset = none

/-- R62, R63: the window of SSN s is conclusive exactly when its 40 samples are all present and at least 8 of them are
active; a position is in its match set exactly when the copper of every frame s + i + X equals the playout sample of SSN s +
i. R11, R61, R65, R69: a conclusive window with a match set that is not empty narrows the carried set to the intersection, or
starts it again from the match set when they share nothing; the contributing count goes up to at most 3, or starts again at
1. One position with a count of 3 is alignment found: the circuit is ALIGNED with the offset of that position, and an ALIGNED
report is entered. The entry keeps the narrowed set, its count and the verification mismatch count as they are (R57, R65;
DEDUCED, log 41). In each case the whole record of the circuit is given, so that what is not named is as it was. R62, R65: a
window judged in BRIDGING that is not conclusive changes nothing but leaves the list. -/
def Obligations.MatchSetNarrowsCandidates : Prop :=
  (∀ (st : Settings) (r : Circuit) (s ob : Word),
    (r.conclusive st s = true ↔
      (∀ i, i < 40 → (r.playoutAt (s + BitVec.ofNat 16 i)).isSome = true) ∧
      8 ≤ ((List.range 40).filter (fun i =>
        decide (st.params.threshold < magnitude st.law (r.positionOf (s + BitVec.ofNat 16 i)).sample))).length) ∧
    ∀ k, k ∈ r.matchSet s ob ↔ k < 449 ∧ ∀ i, i < 40 →
      r.historyAt (s + BitVec.ofNat 16 i + domainOffset ob k) = (r.positionOf (s + BitVec.ofNat 16 i)).sample) ∧
  (∀ (s : State) (c : Nat) (e : JudgeEntry) (ob : Word) (b : Binding) (ks : List Nat) (n : Nat),
    c < 256 → (s.circuit c).state = .bridging → s.trunk.dueWindow s.ctx c = some e →
    (s.circuit c).align.obase = some ob → (s.circuit c).binding = some b →
    (s.circuit c).align.candidates.inRange →
    (s.circuit c).conclusive s.settings e.ssn = true → (s.circuit c).matchSet e.ssn ob ≠ [] →
    ((s.circuit c).align.candidates.meet ((s.circuit c).matchSet e.ssn ob) ≠ [] →
      ks = (s.circuit c).align.candidates.meet ((s.circuit c).matchSet e.ssn ob) ∧
        n = min ((s.circuit c).align.contributing + 1) 3) →
    ((s.circuit c).align.candidates.meet ((s.circuit c).matchSet e.ssn ob) = [] →
      ks = (s.circuit c).matchSet e.ssn ob ∧ n = 1) →
    ∃ t, exec (.windowJudgement c) s = .next t ∧ s.sameOutside t ∧ s.trunk.sameOthers c t.trunk ∧
      s.trunk.sameLists t.trunk ∧
      (t.circuit c).align.candidates.toList = ks ∧ (t.circuit c).align.contributing = n ∧
      (t.circuit c).align.obase = some ob ∧ (t.circuit c).counters = (s.circuit c).counters ∧
      (t.circuit c).align.judging = (s.circuit c).align.judging.filter (fun d => decide (d ≠ e)) ∧
      (t.circuit c).align.verifyMiss = (s.circuit c).align.verifyMiss ∧
      (∀ k, ks = [k] → n = 3 →
        t.circuit c = { s.circuit c with
            state := .aligned
            lastReported := s.trunk.kindAfter .aligned
            stateTimer := 0
            legacyReleased := false
            splice := { (s.circuit c).splice with ripe := false }
            align := { (s.circuit c).align with
              candidates := (t.circuit c).align.candidates
              contributing := 3
              offset := some (domainOffset ob k)
              judging := (s.circuit c).align.judging.filter (fun d => decide (d ≠ e)) } } ∧
          s.trunk.entered (aboutCircuit s.cycleCount c b .aligned none (some (domainOffset ob k).toNat) ⟨false, false, false⟩)
            t.trunk) ∧
      ((∀ k, ks ≠ [k]) ∨ n ≠ 3 →
        t.circuit c = { s.circuit c with align := { (s.circuit c).align with
            candidates := (t.circuit c).align.candidates
            contributing := n
            judging := (s.circuit c).align.judging.filter (fun d => decide (d ≠ e)) } } ∧ s.trunk.sameReports t.trunk)) ∧
  (∀ (s : State) (c : Nat) (e : JudgeEntry), c < 256 → (s.circuit c).state = .bridging → s.trunk.dueWindow s.ctx c = some e →
    (s.circuit c).conclusive s.settings e.ssn = false →
    ∃ t, exec (.windowJudgement c) s = .next t ∧ s.sameOutside t ∧ s.trunk.onlyRecord c t.trunk ∧
      t.circuit c = { s.circuit c with align := { (s.circuit c).align with
        judging := (s.circuit c).align.judging.filter (fun d => decide (d ≠ e)) } })

/-- R64: a conclusive window judged in BRIDGING whose match set is empty puts the candidate set back to all 449 positions and
the contributing count to 0, and counts one mismatch window. Obase and the alignment timeout are kept, and nothing else of
the circuit changes but that the window has left the list (R61). -/
def Obligations.EmptyMatchSetIsMismatch : Prop :=
  ∀ (s : State) (c : Nat) (e : JudgeEntry) (ob : Word), c < 256 → (s.circuit c).state = .bridging →
    s.trunk.dueWindow s.ctx c = some e → (s.circuit c).align.obase = some ob →
    (s.circuit c).conclusive s.settings e.ssn = true → (∀ k, k < 449 → (s.circuit c).matchesAt e.ssn (domainOffset ob k) = false) →
    ∃ t, exec (.windowJudgement c) s = .next t ∧ s.sameOutside t ∧ s.trunk.onlyRecord c t.trunk ∧
      t.circuit c = { s.circuit c with
        align := { (s.circuit c).align with
          candidates := .whole
          contributing := 0
          judging := (s.circuit c).align.judging.filter (fun d => decide (d ≠ e)) }
        counters := { (s.circuit c).counters with mismatches := min ((s.circuit c).counters.mismatches + 1) 65535 } }

/-- R11, R61, R66, R68: a conclusive window judged at O that matches ends the run of mismatches; one that does not is
counted, and the third in a row is alignment lost. Before the splice the circuit is back in BRIDGING with its ring, its
Obase, its silence count and its row; on fibre it keeps its state and O′ and loses O. An inconclusive window changes nothing
but leaves the list; a match and a first or second mismatch change nothing but what is named of them. R61: with no window due
in the frame a WINDOW_JUDGEMENT changes nothing (log 3); a window due in COPPER, HELD or DOWN, or on fibre without O or with
the legacy leg released, is dropped and nothing but the list changes. -/
def Obligations.VerificationAtO : Prop :=
  (∀ (s : State) (c : Nat) (e : JudgeEntry) (o : Word) (b : Binding), c < 256 →
    (s.circuit c).state = .aligned ∨ (s.circuit c).state = .splicePending ∨ (s.circuit c).state = .spliceWait ∨
      ((s.circuit c).state.onFibre = true ∧ (s.circuit c).legacyReleased = false) →
    s.trunk.dueWindow s.ctx c = some e → (s.circuit c).align.offset = some o → (s.circuit c).binding = some b →
    s.servesNone c → (s.circuit c).align.verifyMiss < 3 →
    ∃ t, exec (.windowJudgement c) s = .next t ∧ s.sameOutside t ∧ s.trunk.sameOthers c t.trunk ∧
      t.trunk.calendar = s.trunk.calendar ∧
      (t.circuit c).align.judging = (s.circuit c).align.judging.filter (fun d => decide (d ≠ e)) ∧
      (t.circuit c).align.obase = (s.circuit c).align.obase ∧ (t.circuit c).ring = (s.circuit c).ring ∧
      (t.circuit c).silence = (s.circuit c).silence ∧ (t.circuit c).calendarRow = (s.circuit c).calendarRow ∧
      (t.circuit c).splice.playOffset = (s.circuit c).splice.playOffset ∧
      ((s.circuit c).conclusive s.settings e.ssn = false →
        s.trunk.onlyRecord c t.trunk ∧ t.circuit c = { s.circuit c with align := { (s.circuit c).align with
          judging := (s.circuit c).align.judging.filter (fun d => decide (d ≠ e)) } }) ∧
      ((s.circuit c).conclusive s.settings e.ssn = true → (s.circuit c).matchesAt e.ssn o = true →
        s.trunk.onlyRecord c t.trunk ∧ t.circuit c = { s.circuit c with align := { (s.circuit c).align with
          verifyMiss := 0
          judging := (s.circuit c).align.judging.filter (fun d => decide (d ≠ e)) } }) ∧
      ((s.circuit c).conclusive s.settings e.ssn = true → (s.circuit c).matchesAt e.ssn o = false →
        (t.circuit c).counters =
            { (s.circuit c).counters with mismatches := min ((s.circuit c).counters.mismatches + 1) 65535 } ∧
          ((s.circuit c).align.verifyMiss < 2 →
            s.trunk.onlyRecord c t.trunk ∧ t.circuit c = { s.circuit c with
              counters := (t.circuit c).counters
              align := { (s.circuit c).align with
                verifyMiss := (s.circuit c).align.verifyMiss + 1
                judging := (s.circuit c).align.judging.filter (fun d => decide (d ≠ e)) } }) ∧
          ((s.circuit c).align.verifyMiss = 2 →
            (t.circuit c).align.verifyMiss = 0 ∧ (t.circuit c).align.offset = none ∧
            ((s.circuit c).state.onFibre = true → (t.circuit c).state = (s.circuit c).state ∧
              t.trunk.waitQueue = s.trunk.waitQueue ∧ t.trunk.fallback = s.trunk.fallback ∧
              (t.circuit c).splice = (s.circuit c).splice ∧
              ((s.circuit c).lastReported ≠ some .alignLost →
                s.trunk.entered (aboutCircuit s.cycleCount c b .alignLost none none ⟨false, false, false⟩) t.trunk)) ∧
            ((s.circuit c).state.beforeSplice = true → (t.circuit c).state = .bridging ∧
              t.trunk.waitQueue = s.trunk.waitQueue.filter (fun d => decide (d ≠ c)) ∧
              t.trunk.fallback = withoutRecord c s.trunk.fallback ∧
              (t.circuit c).align.candidates = .whole ∧ (t.circuit c).align.contributing = 0 ∧
              (t.circuit c).splice.deficit = none ∧ (t.circuit c).stateTimer = s.settings.params.alignTimeout ∧
              s.trunk.entered (aboutCircuit s.cycleCount c b .alignLost none none ⟨false, false, false⟩) t.trunk))) ∧
      (¬((s.circuit c).conclusive s.settings e.ssn = true ∧ (s.circuit c).matchesAt e.ssn o = false ∧
          (s.circuit c).align.verifyMiss = 2) →
        (t.circuit c).state = (s.circuit c).state ∧ (t.circuit c).align.offset = some o ∧ s.trunk.sameReports t.trunk ∧
          t.trunk.waitQueue = s.trunk.waitQueue ∧ t.trunk.fallback = s.trunk.fallback)) ∧
  (∀ (s : State) (c : Nat), c < 256 →
    ((∀ e ∈ (s.circuit c).align.judging, e.frame ≠ s.frame) → exec (.windowJudgement c) s = .next s) ∧
    (∀ e, s.trunk.dueWindow s.ctx c = some e →
      ((s.circuit c).state.onFibre = true ∧ ((s.circuit c).align.offset = none ∨ (s.circuit c).legacyReleased = true)) ∨
        (s.circuit c).state = .copper ∨ (s.circuit c).state = .held ∨ (s.circuit c).state = .down →
      ∃ t, exec (.windowJudgement c) s = .next t ∧ s.sameOutside t ∧ s.trunk.onlyRecord c t.trunk ∧
        t.circuit c = { s.circuit c with align := { (s.circuit c).align with
          judging := (s.circuit c).align.judging.filter (fun d => decide (d ≠ e)) } }))

/-- R70: the idle-qualify count of a frame, its test asked for as the frame begins (log 4), made for this circuit alone
between two commands of the frame (log 39), or made at the close of the frame for every circuit not tested yet (log 5). In
the four states before the splice it is 0 when either direction is not idle, or in BRIDGING before Obase; with both idle it
goes up by one at a cycle boundary and stays as it is in any other frame. In the other states it is left alone. The frame
tests a circuit once. -/
def Obligations.IdleQualifyCount : Prop :=
  (∀ (s : State) (f : Word) (sw lg : Highway) (straps : BitVec 4) (o : FrameOrder) (i : Instr) (c : Nat) (r : Circuit),
    i = .frameMarker sw lg straps o ∨ i = .missedFrameMarker sw lg o →
    s.stationState ≠ .reset → s.missCount < 16 → s.frameCount = some f → s.finishFrame.sendsRestart = false →
    o.idleFirst = true → c < 256 → r = s.finishFrame.circuit c →
    ∃ t, exec i s = .next t ∧
      (t.circuit c).align.idleQualify =
        (if r.state = .bridging ∨ r.state = .aligned ∨ r.state = .splicePending ∨ r.state = .spliceWait then
          if (r.state = .bridging ∧ r.align.obase = none) ∨ (slotOf sw c).code ≠ s.settings.idleCode ∨
              r.fibreCode ≠ s.settings.idleCode then 0
          else if (f + 1).toNat % 40 = 0 then min (r.align.idleQualify + 1) 1000 else r.align.idleQualify
        else r.align.idleQualify)) ∧
  (∀ (s : State) (ws : List Work) (c : Nat) (r : Circuit), s.pending = [] → s.todo.between = .idle c :: ws → s.todo.idle = true →
    c < 256 → r = s.circuit c →
    (c ∉ s.todo.tested →
      ∃ t, step s = .next t ∧ t.todo = { s.todo with between := ws, tested := c :: s.todo.tested } ∧
        { t with todo := s.todo, trunk := s.trunk } = s ∧ s.trunk.onlyRecord c t.trunk ∧
        t.circuit c = { r with align := { r.align with idleQualify :=
          (if r.state = .bridging ∨ r.state = .aligned ∨ r.state = .splicePending ∨ r.state = .spliceWait then
            if (r.state = .bridging ∧ r.align.obase = none) ∨ (slotOf s.switchIn c).code ≠ s.settings.idleCode ∨
                r.fibreCode ≠ s.settings.idleCode then 0
            else if s.frame.toNat % 40 = 0 then min (r.align.idleQualify + 1) 1000 else r.align.idleQualify
          else r.align.idleQualify) } }) ∧
    (c ∈ s.todo.tested → step s = .next { s with todo := { s.todo with between := ws } } ∧ s.countIdles.circuit c = r)) ∧
  (∀ (s : State) (c : Nat) (r : Circuit), let t := s.countIdles
    s.todo.idle = true → c < 256 → r = s.circuit c →
    { t with todo := s.todo, trunk := s.trunk } = s ∧ t.todo = { s.todo with idle := false } ∧ s.trunk.sameLists t.trunk ∧
      s.trunk.sameReports t.trunk ∧ (c ∈ s.todo.tested → t.circuit c = r) ∧
      (c ∉ s.todo.tested → t.circuit c = { r with align := { r.align with idleQualify :=
        (if r.state = .bridging ∨ r.state = .aligned ∨ r.state = .splicePending ∨ r.state = .spliceWait then
          if (r.state = .bridging ∧ r.align.obase = none) ∨ (slotOf s.switchIn c).code ≠ s.settings.idleCode ∨
              r.fibreCode ≠ s.settings.idleCode then 0
          else if s.frame.toNat % 40 = 0 then min (r.align.idleQualify + 1) 1000 else r.align.idleQualify
        else r.align.idleQualify) } }))

/-! ## Expiries -/

/-- R14, R15, R16, R98, R114: the alignment timeout of a circuit in BRIDGING, and the bridge idle watchdog of one before its
splice, abandon it: back on COPPER with four release cells and its row, its queue place and its record gone, and a report of
the cause. The watchdog is compared at a boundary that has been counted (log 8). R14, R15: an ALIGNMENT_TIMEOUT with the
timer running or in another state than BRIDGING, and a BRIDGE_IDLE_WATCHDOG with the count below the bridge idle time, at no
counted boundary (DEDUCED, log 8) or in another state than the four, change nothing but the count of the frame's boundary
(DESIGN CHOICE, log 3). -/
def Obligations.ExpiriesAbandon : Prop :=
  (∀ (s : State) (c : Nat) (b : Binding) (i : Instr) (k : ReportKind), let u := s.settleBoundary
    c < 256 → (u.circuit c).binding = some b → u.servesNone c →
    (i = .alignmentTimeout c ∧ k = .alignTimeout ∧ (u.circuit c).state = .bridging ∧ (u.circuit c).stateTimer = 0) ∨
      (i = .bridgeIdleWatchdog c ∧ k = .bridgeIdle ∧ (u.circuit c).state.beforeSplice = true ∧ u.ctx.counted = true ∧
        u.settings.params.bridgeIdle ≤ (u.circuit c).silence) →
    ∃ t, exec i s = .next t ∧ u.sameOutside t ∧ u.trunk.sameOthers c t.trunk ∧
      (u.circuit c).backOnCopper (t.circuit c) ∧ (t.circuit c).splice.lastKind = (u.circuit c).splice.lastKind ∧
      (t.circuit c).splice.flags = (u.circuit c).splice.flags ∧
      (t.circuit c).lastReported = u.trunk.kindAfter k ∧
      t.trunk.fallback = withoutRecord c u.trunk.fallback ∧
      t.trunk.waitQueue = u.trunk.waitQueue.filter (fun d => decide (d ≠ c)) ∧ t.trunk.calendar = u.trunk.calendar ∧
      u.trunk.entered (aboutCircuit u.cycleCount c b k none none ⟨false, false, false⟩) t.trunk) ∧
  (∀ (s : State) (c : Nat), let u := s.settleBoundary
    ((u.circuit c).state ≠ .bridging ∨ (u.circuit c).stateTimer ≠ 0 → exec (.alignmentTimeout c) s = .next u) ∧
    ((u.circuit c).state.beforeSplice = false ∨ u.ctx.counted = false ∨ (u.circuit c).silence < u.settings.params.bridgeIdle →
      exec (.bridgeIdleWatchdog c) s = .next u))

/-- R20, R21, R23, R36: stream loss of a circuit in SPLICED or REVERT_WAIT is an URGENT reverse splice; a COMMITTED circuit
enters HELD with the peer hold loaded, its offsets and its legacy-released flag kept and its fill frames ended. Of the
alignment items the idle-qualify count becomes 0 and the judging list empty at the entry to HELD, and the others keep what
they held (R57; DEDUCED, log 41). In HELD and in the other states nothing happens. The count is compared at a boundary that
has been counted (DEDUCED, log 8). R21: a STREAM_LOSS with the count below the stream loss time, or at no counted boundary,
changes nothing but the count of the frame's boundary (DESIGN CHOICE, log 3). R23, R26, R41, R109: the peer hold of a HELD
circuit expires: it enters DOWN with a DOWN report, leaves the calendar, and keeps its legacy-released flag. Obase, O, O′ and
D become absent, a guard and fill frames end, the idle-qualify count is 0 and the judging list empty; the candidate set and
the two counts keep what they held (R57; DEDUCED, log 41). A guard that is still to start is cancelled (DEDUCED, log 33). A
PEER_HOLD_EXPIRY that is not due changes nothing but the count of the frame's boundary (DESIGN CHOICE, log 3). -/
def Obligations.StreamLossThenPeerHold : Prop :=
  (∀ (s : State) (c : Nat) (b : Binding), let u := s.settleBoundary
    c < 256 → (u.circuit c).binding = some b → u.ctx.counted = true →
    u.settings.params.streamLoss ≤ (u.circuit c).silence →
    ((u.circuit c).state = .spliced ∨ (u.circuit c).state = .revertWait → u.servesNone c →
      ∃ t, exec (.streamLoss c) s = .next t ∧ u.sameOutside t ∧ u.trunk.sameOthers c t.trunk ∧
        (u.circuit c).backOnCopper (t.circuit c) ∧ (t.circuit c).splice.lastKind = some (.reverse .urgent) ∧
        (t.circuit c).splice.flags = ((u.circuit c).judgeReverse u.settings (u.frame + 1)).1 ∧
        (t.circuit c).splice.fill = none ∧ (t.circuit c).splice.switchPoint = true ∧
        t.trunk.fallback = withoutRecord c u.trunk.fallback ∧ t.trunk.waitQueue = u.trunk.waitQueue ∧
        t.trunk.calendar = u.trunk.calendar ∧
        u.trunk.entered (aboutCircuit u.cycleCount c b .reverted (some (.reverse .urgent))
          ((u.circuit c).judgeReverse u.settings (u.frame + 1)).2
          ((u.circuit c).judgeReverse u.settings (u.frame + 1)).1) t.trunk) ∧
    ((u.circuit c).state = .committed →
      ∃ t, exec (.streamLoss c) s = .next t ∧ u.sameOutside t ∧ u.trunk.sameOthers c t.trunk ∧
        u.trunk.sameLists t.trunk ∧
        t.circuit c = { u.circuit c with
          state := .held
          stateTimer := u.settings.params.peerHold
          align := { (u.circuit c).align with idleQualify := 0, judging := [] }
          splice := { (u.circuit c).splice with fill := none, ripe := false }
          lastReported := u.trunk.kindAfter .held } ∧
        u.trunk.entered (aboutCircuit u.cycleCount c b .held none none ⟨false, false, false⟩) t.trunk) ∧
    ((u.circuit c).state.onFibre = false → exec (.streamLoss c) s = .next u)) ∧
  (∀ (s : State) (c : Nat), let u := s.settleBoundary
    u.ctx.counted = false ∨ (u.circuit c).silence < u.settings.params.streamLoss → exec (.streamLoss c) s = .next u) ∧
  (∀ (s : State) (c : Nat) (b : Binding), let u := s.settleBoundary
    c < 256 → (u.circuit c).binding = some b →
    ((u.circuit c).state = .held → (u.circuit c).stateTimer = 0 →
      ∃ t, exec (.peerHoldExpiry c) s = .next t ∧ u.sameOutside t ∧ u.trunk.sameOthers c t.trunk ∧
        t.trunk.fallback = u.trunk.fallback ∧ t.trunk.waitQueue = u.trunk.waitQueue ∧
        (∀ k, (u.circuit c).calendarRow = some k → t.trunk.row k = (u.trunk.row k).filter (fun d => decide (d ≠ c))) ∧
        (∀ k, (u.circuit c).calendarRow ≠ some k → t.trunk.row k = u.trunk.row k) ∧
        t.circuit c = { u.circuit c with
          state := .down
          calendarRow := none
          stateTimer := 0
          guard := none
          ring := []
          align := { (u.circuit c).align with obase := none, offset := none, idleQualify := 0, judging := [] }
          splice := { (u.circuit c).splice with
            playOffset := none, deficit := none, fill := none, ripe := false, guardOff := true }
          lastReported := u.trunk.kindAfter .down } ∧
        u.trunk.entered (aboutCircuit u.cycleCount c b .down none none ⟨false, false, false⟩) t.trunk) ∧
    ((u.circuit c).state ≠ .held ∨ (u.circuit c).stateTimer ≠ 0 → exec (.peerHoldExpiry c) s = .next u))

/-- R18, R97: at the hold expiry the hold remaining of the LIVE record becomes absent. A SPLICED circuit with its revert
deferred enters REVERT_WAIT and the flag is cleared; otherwise its circuit is not touched. Before the hold has run out
nothing but the count of the frame's boundary changes (DESIGN CHOICE, log 3). R18, R19, R22, R97, R98: at the settle expiry a
SPLICED circuit is COMMITTED: its record is removed, a COMMITTED report is entered, O′, D, O and the flags stay, and the
copper leg is released at once when the stored phase is COMMITTED. With the revert deferred the expiry is the end of the hold
and the circuit enters REVERT_WAIT. In REVERT_WAIT nothing happens but the count of the frame's boundary (log 3). R97: a LIVE
record whose hold or settle remaining is above 0, and a circuit without a LIVE record, have no expiry due, and the command
changes nothing but the count of the frame's boundary (DESIGN CHOICE, log 3). Each expiry is an act apart from the count,
taken where the item stands at 0 (DESIGN CHOICE, log 47). -/
def Obligations.HoldAndSettleExpiry : Prop :=
  (∀ (s : State) (c : Nat) (l : LiveFields), let u := s.settleBoundary
    c < 256 → u.trunk.liveOf c = some l →
    (l.hold = some 0 →
      ∃ t, exec (.holdExpiry c) s = .next t ∧ u.sameOutside t ∧ u.trunk.sameOthers c t.trunk ∧
        t.trunk.waitQueue = u.trunk.waitQueue ∧ t.trunk.calendar = u.trunk.calendar ∧ u.trunk.sameReports t.trunk ∧
        t.trunk.liveOf c = some { l with hold := none } ∧
        t.trunk.fallback.map FallbackRecord.circuit = u.trunk.fallback.map FallbackRecord.circuit ∧
        (∀ f ∈ u.trunk.fallback, f.circuit ≠ c → f ∈ t.trunk.fallback) ∧
        ((u.circuit c).state = .spliced ∧ (u.circuit c).deferredRevert = true →
          (t.circuit c).state = .revertWait ∧ (t.circuit c).deferredRevert = false ∧
          (t.circuit c).splice.playOffset = (u.circuit c).splice.playOffset ∧
          (t.circuit c).calendarRow = (u.circuit c).calendarRow) ∧
        ((u.circuit c).state ≠ .spliced ∨ (u.circuit c).deferredRevert = false → t.circuit c = u.circuit c)) ∧
    (l.hold ≠ some 0 → exec (.holdExpiry c) s = .next u)) ∧
  (∀ (s : State) (c : Nat) (b : Binding) (l : LiveFields), let u := s.settleBoundary
    c < 256 → (u.circuit c).binding = some b → u.trunk.liveOf c = some l → l.settle = 0 →
    ((u.circuit c).state = .spliced → (u.circuit c).deferredRevert = false → u.servesNone c →
      (u.circuit c).legacyReleased = false →
      ∃ t, exec (.settleExpiry c) s = .next t ∧ u.sameOutside t ∧ u.trunk.sameOthers c t.trunk ∧
        t.trunk.fallback = withoutRecord c u.trunk.fallback ∧ t.trunk.waitQueue = u.trunk.waitQueue ∧
        t.trunk.calendar = u.trunk.calendar ∧ (t.circuit c).state = .committed ∧
        (t.circuit c).splice.playOffset = (u.circuit c).splice.playOffset ∧
        (t.circuit c).splice.deficit = (u.circuit c).splice.deficit ∧
        (t.circuit c).splice.flags = (u.circuit c).splice.flags ∧ (t.circuit c).splice.fill = (u.circuit c).splice.fill ∧
        (t.circuit c).align.offset = (u.circuit c).align.offset ∧
        (t.circuit c).legacyReleased = decide ((u.circuit c).peerPhase = some .committed) ∧
        (u.trunk.reports.length < 63 → t.trunk.reports = u.trunk.reports ++
          aboutCircuit u.cycleCount c b .committed none none ⟨false, false, false⟩ ::
            (if (u.circuit c).peerPhase = some .committed
              then [aboutCircuit u.cycleCount c b .legacyReleased none none ⟨false, false, false⟩] else []))) ∧
    ((u.circuit c).state = .spliced → (u.circuit c).deferredRevert = true →
      ∃ t, exec (.settleExpiry c) s = .next t ∧ u.sameOutside t ∧ u.trunk.sameOthers c t.trunk ∧
        (t.circuit c).state = .revertWait ∧ (t.circuit c).deferredRevert = false ∧
        t.trunk.liveOf c = some { l with hold := none } ∧ t.trunk.waitQueue = u.trunk.waitQueue ∧
        t.trunk.calendar = u.trunk.calendar ∧ u.trunk.sameReports t.trunk) ∧
    ((u.circuit c).state = .revertWait → exec (.settleExpiry c) s = .next u)) ∧
  (∀ (s : State) (c : Nat), let u := s.settleBoundary
    ((∀ l, u.trunk.liveOf c = some l → l.hold ≠ some 0) → exec (.holdExpiry c) s = .next u) ∧
    ((∀ l, u.trunk.liveOf c = some l → 0 < l.settle) → exec (.settleExpiry c) s = .next u))

/-- R125, R127, R153: the loss of a peer station. Its entry becomes LOST and a PEER_LOST report is entered before those of
its circuits; every circuit bound to it takes the loss by its state, and the others are left alone. With no circuit waiting
for a record nothing is served by it. Before four missed beacons, and of a station that is ABSENT or LOST, the command
changes nothing but the count of the frame's boundary (DESIGN CHOICE, log 3). R7, R124, R126, R127, R153: a beacon whose
cycle count is below the stored one is a restart of its station. Every circuit bound to the station, whatever its window,
takes it by its state: an abandon before the splice, an URGENT reverse splice in SPLICED and REVERT_WAIT, HELD from
COMMITTED, and its peer phase becomes NONE in every state. The PEER_RESTART report follows theirs, and the entry and the
matched flags are then set as by any beacon. No circuit waits for a record here, so none is served; a loss that this frame's
boundary has brought is not pending (DEDUCED, log 7). -/
def Obligations.PeerLossAndRestartHandedToCircuits : Prop :=
  (∀ (s : State) (p : Nat), let u := s.settleBoundary
    ((u.peer p).state = .present → p < 15 → 4 ≤ (u.peer p).miss → u.trunk.waitQueue = [] →
      ∃ t rest, exec (.peerLoss p) s = .next t ∧ t.peer p = { u.peer p with state := .lost } ∧
        (∀ q, q ≠ p → t.peer q = u.peer q) ∧ { t with peers := u.peers, trunk := u.trunk } = u ∧ u.handedPeerEvent p t ∧
        t.trunk.reports =
          (if u.trunk.reports.length < 64 then u.trunk.reports ++ [aboutStation u.cycleCount p .peerLost]
            else u.trunk.reports) ++ rest) ∧
    ((u.peer p).state ≠ .present ∨ (u.peer p).miss < 4 → exec (.peerLoss p) s = .next u)) ∧
  (∀ (s : State) (p n : Nat) (place : List Byte),
    s.takesCell p place → headerOk p place = true → kindOf place = 2 → beaconBodyOk place = true →
    s.settings.acceptMask.getLsbD p = true → (s.peer p).lossDue = false → (s.peer p).state ≠ .absent →
    (s.peer p).cycles = some n → fieldAt place 6 6 < n → s.trunk.waitQueue = [] →
    ∃ t, exec (.beacon p place) s = .next t ∧ t.peer p = heardFrom place (s.peer p) ∧ (∀ q, q ≠ p → t.peer q = s.peer q) ∧
      { t with peers := s.peers, windows := s.windows, trunk := s.trunk } = s ∧ s.matchedFrom p place t ∧
      s.handedPeerEvent p t ∧ (∃ more, t.trunk.reports = s.trunk.reports ++ more) ∧
      (t.trunk.reports.getLast? = some (aboutStation s.cycleCount p .peerRestart) ∨ 64 ≤ t.trunk.reports.length))

/-! ## Splices and reverse splices -/

/-- R73, R74: at O the deficit is the least fill that makes the smallest lead of the ring reach the guard G. R84 to R87: what
a reverse splice at frame Q skips, and its flags. Without O it is blind and has no skipped count. With no fill frames running
the range is the SSNs Q − O′ to Q − O − 1; within the fill frames of a splice at P it is P − O to Q − O − 1. The
lost-activity flag says that a sample of the range is active or is not in the buffer. -/
def Obligations.DeficitAndReverseJudgement : Prop :=
  (∀ (p : Params) (r : Circuit) (o : Word), r.align.offset = some o → r.ring ≠ [] →
    ∃ d, r.deficitNow p = some d ∧ (∀ e ∈ r.ring, (p.guard : Int) ≤ (o - e).toInt + d) ∧
      ∀ n : Nat, n < d → ∃ e ∈ r.ring, (o - e).toInt + n < p.guard) ∧
  (∀ (st : Settings) (q : Word) (r : Circuit),
    (r.align.offset = none → r.judgeReverse st q = (⟨false, true, false⟩, none)) ∧
    (∀ (o first : Word) (n : Nat), r.align.offset = some o →
      ((∃ run, r.splice.fill = some run ∧ (q - 1 - run.start).toInt < run.count ∧ first = run.start - o ∧
          n = (q - run.start).toNat) ∨
        ((∀ run, r.splice.fill = some run → (run.count : Int) ≤ (q - 1 - run.start).toInt) ∧
          ∃ o', r.splice.playOffset = some o' ∧ first = q - o' ∧ n = (o' - o).toNat)) →
      ∃ fl, r.judgeReverse st q = (fl, some n) ∧ fl.blind = false ∧ fl.activityGap = false ∧
        (fl.lostActivity = true ↔ ∃ k, k < n ∧ (r.playoutAt (first + BitVec.ofNat 16 k) = none ∨
          ∃ smp, r.playoutAt (first + BitVec.ofNat 16 k) = some smp ∧ isActive st smp = true))))

/-- R76, R77, R78, R82, R96: when the update of this frame has found Qmin quiet samples in SPLICE_WAIT, the splice is QUIET,
at O + D with D fill frames from the next frame P; the circuit's record becomes LIVE in its place with its timers loaded.
With no such update nothing happens (log 3). R20, R88: the same update in REVERT_WAIT makes a PLANNED reverse splice. R76,
R78, R88: giving a sample updates the quiet-run count, whatever the slot's source (copper, fill, fibre, a concealed frame,
out of service), and the update is what a quiet run is found by: in SPLICE_WAIT or REVERT_WAIT, at or above Qmin. The slot is
given by a quiet-run command, by the path selection that closes the frame (log 4), or alone between two commands of the frame
(log 39; there no slot that plays fibre: log 31). A quiet-run command whose slot has been given before it decides by that
update: that the circuit still waits between the two is DESIGN CHOICE (log 49). -/
def Obligations.QuietRunsDecide : Prop :=
  (∀ (s : State) (c d : Nat) (o : Word) (b : Binding), let u := s.giveSlotNow c
    c < 256 → (u.circuit c).binding = some b →
    ((u.circuit c).state = .spliceWait → (u.circuit c).splice.ripe = true → (u.circuit c).align.offset = some o →
      (u.circuit c).splice.deficit = some d → (∃ f, u.trunk.recordOf c = some f) →
      u.paused = true ∨ u.trunk.waitQueue = [] ∨ u.settings.policy = .hold →
      ∃ t, exec (.quietRunSplice c) s = .next t ∧ u.sameOutside t ∧ u.trunk.sameOthers c t.trunk ∧
        t.trunk.waitQueue = u.trunk.waitQueue ∧ t.trunk.calendar = u.trunk.calendar ∧
        (t.circuit c).state = .spliced ∧ (t.circuit c).splice.playOffset = some (o + BitVec.ofNat 16 d) ∧
        (t.circuit c).splice.deficit = some d ∧ (t.circuit c).splice.lastKind = some (.splice .quiet) ∧
        (t.circuit c).splice.flags = ⟨false, false, false⟩ ∧ (t.circuit c).splice.switchPoint = true ∧
        (t.circuit c).splice.fill = (if d = 0 then none else some ⟨u.frame + 1, d⟩) ∧
        (t.circuit c).align.offset = some o ∧ (t.circuit c).ring = (u.circuit c).ring ∧
        (t.circuit c).silence = (u.circuit c).silence ∧ (t.circuit c).deferredRevert = false ∧
        t.trunk.fallback.map FallbackRecord.circuit = u.trunk.fallback.map FallbackRecord.circuit ∧
        (∀ f ∈ u.trunk.fallback, f.circuit ≠ c → f ∈ t.trunk.fallback) ∧
        t.trunk.liveOf c = some ⟨u.frame + 1, u.settings.params.settle,
          if u.settings.params.spliceHold = 0 then none else some u.settings.params.spliceHold, true⟩ ∧
        u.trunk.entered (aboutCircuit u.cycleCount c b .spliced (some (.splice .quiet)) (some d) ⟨false, false, false⟩)
          t.trunk) ∧
    ((u.circuit c).state ≠ .spliceWait ∨ (u.circuit c).splice.ripe = false → exec (.quietRunSplice c) s = .next s)) ∧
  (∀ (s : State) (c : Nat) (b : Binding), let u := s.giveSlotNow c
    c < 256 → (u.circuit c).binding = some b → u.servesNone c →
    ((u.circuit c).state = .revertWait → (u.circuit c).splice.ripe = true →
      ∃ t, exec (.quietRunReverseSplice c) s = .next t ∧ u.sameOutside t ∧ u.trunk.sameOthers c t.trunk ∧
        (u.circuit c).backOnCopper (t.circuit c) ∧ (t.circuit c).splice.lastKind = some (.reverse .planned) ∧
        (t.circuit c).splice.flags = ((u.circuit c).judgeReverse u.settings (u.frame + 1)).1 ∧
        (t.circuit c).splice.fill = none ∧ (t.circuit c).splice.switchPoint = true ∧
        t.trunk.fallback = withoutRecord c u.trunk.fallback ∧ t.trunk.waitQueue = u.trunk.waitQueue ∧
        t.trunk.calendar = u.trunk.calendar ∧
        u.trunk.entered (aboutCircuit u.cycleCount c b .reverted (some (.reverse .planned))
          ((u.circuit c).judgeReverse u.settings (u.frame + 1)).2
          ((u.circuit c).judgeReverse u.settings (u.frame + 1)).1) t.trunk) ∧
    ((u.circuit c).state ≠ .revertWait ∨ (u.circuit c).splice.ripe = false → exec (.quietRunReverseSplice c) s = .next s)) ∧
  (∀ (s u : State) (c : Nat) (r : Circuit), r = s.circuit c → c < 256 → r.path.given = false →
    u = s.giveSlotNow c ∨ (u = s.giveAll ∧ s.todo.select = true) ∨
      (s.pending = [] ∧ s.todo.select = true ∧ (∃ ws, s.todo.between = .slot c :: ws) ∧ (∀ p, r.path.source ≠ .fibre p) ∧
        step s = .next u) →
    (u.circuit c).path.given = true ∧ (u.circuit c).state = r.state ∧
      ((∀ run, r.splice.fill = some run → s.frame - run.start ≠ BitVec.ofNat 16 run.count) →
        (r.path.source = .copper → (u.circuit c).path.rx.sample = (slotOf s.legacyIn c).sample) ∧
        (r.path.source = .fill ∨ r.path.source = .outOfService → (u.circuit c).path.rx.sample = idleCodeOf s.settings.law) ∧
        (∀ p b, r.path.source = .fibre p → r.playoutAt (s.frame - p) = some b → (u.circuit c).path.rx.sample = b) ∧
        ((∃ p, r.path.source = .fibre p ∧ r.playoutAt (s.frame - p) = none) ∨ r.path.source = .holdover →
          (u.circuit c).path.rx.sample = (if r.path.runCount < 40 then r.path.lastSample else idleCodeOf s.settings.law))) ∧
      (u.circuit c).splice.quietRun =
        (if isActive s.settings (u.circuit c).path.rx.sample = true then 0 else min (r.splice.quietRun + 1) 400) ∧
      ((u.circuit c).splice.ripe = true ↔
        (r.state = .spliceWait ∨ r.state = .revertWait) ∧ s.settings.params.qmin ≤ (u.circuit c).splice.quietRun)) ∧
  (∀ (s u : State) (c : Nat), c < 256 →
    u = s.giveSlotNow c ∨
      (s.pending = [] ∧ s.todo.select = true ∧ (∃ ws, s.todo.between = .slot c :: ws) ∧ step s = .next u) →
    s.trunk.onlyRecord c u.trunk)

/-- R75: an arrival in SPLICE_WAIT. The deficit is computed again from the ring that holds the cell's arrival offset. One
above Dmax returns the circuit to ALIGNED with a DELAY_EXCESS report and its record is removed; one of 0 is a SEAMLESS
splice; any other is kept, and an idle call then splices IDLE at it, after which O is absent (R68; DEDUCED, log 37). The
pause flag is not tested. -/
def Obligations.ArrivalInSpliceWait : Prop :=
  ∀ (s : State) (p c : Nat) (place : List Byte) (ph : Phase) (b : Binding) (o : Word) (d : Nat),
    s.delivers p place ph c → (s.circuit c).state = .spliceWait → ph ≠ .release → (s.circuit c).binding = some b →
    (s.circuit c).align.offset = some o → (∃ f, s.trunk.recordOf c = some f) →
    { s.circuit c with ring := pushRing (s.circuit c).ring (s.frame - ssnOf place) }.deficitNow s.settings.params = some d →
    s.trunk.waitQueue = [] →
    ∃ t, exec (.bearerCell p place) s = .next t ∧ s.sameOutside t ∧ s.trunk.sameOthers c t.trunk ∧
      t.trunk.waitQueue = [] ∧ t.trunk.calendar = s.trunk.calendar ∧ (t.circuit c).peerPhase = some ph ∧
      (t.circuit c).ring = pushRing (s.circuit c).ring (s.frame - ssnOf place) ∧
      (s.settings.params.dmax < d → (t.circuit c).state = .aligned ∧ (t.circuit c).splice.deficit = none ∧
        t.trunk.fallback = withoutRecord c s.trunk.fallback ∧
        s.trunk.entered (aboutCircuit s.cycleCount c b .delayExcess none (some d) ⟨false, false, false⟩) t.trunk) ∧
      (d = 0 → (t.circuit c).state = .spliced ∧ (t.circuit c).splice.playOffset = some o ∧
        (t.circuit c).splice.deficit = some 0 ∧ (t.circuit c).splice.lastKind = some (.splice .seamless) ∧
        (t.circuit c).splice.fill = none ∧
        s.trunk.entered (aboutCircuit s.cycleCount c b .spliced (some (.splice .seamless)) (some 0) ⟨false, false, false⟩)
          t.trunk) ∧
      (0 < d → d ≤ s.settings.params.dmax → s.settings.params.idleQualify ≤ (s.circuit c).align.idleQualify →
        (t.circuit c).state = .spliced ∧ (t.circuit c).splice.playOffset = some (o + BitVec.ofNat 16 d) ∧
        (t.circuit c).splice.deficit = some d ∧ (t.circuit c).splice.lastKind = some (.splice .idle) ∧
        (t.circuit c).splice.fill = some ⟨s.frame + 1, d⟩ ∧ (t.circuit c).align.offset = none ∧
        s.trunk.entered (aboutCircuit s.cycleCount c b .spliced (some (.splice .idle)) (some d) ⟨false, false, false⟩)
          t.trunk) ∧
      (0 < d → d ≤ s.settings.params.dmax → (s.circuit c).align.idleQualify < s.settings.params.idleQualify →
        (t.circuit c).state = .spliceWait ∧ (t.circuit c).splice.deficit = some d ∧
        t.trunk.fallback = s.trunk.fallback ∧ s.trunk.sameReports t.trunk)

/-- R13, R74, R94, R99: an arrival in ALIGNED with a full ring. A deficit within Dmax asks for a record: with room and no
queue the circuit splices SEAMLESS or waits with D and a PENDING record at the tail; otherwise, behind a queue, under HOLD or
with no LIVE record to give way, it joins the tail of the splice wait queue. A larger deficit leaves it ALIGNED with a
DELAY_EXCESS report, and a paused station does not evaluate it. R22, R95: under ROLL, with a full list and no queue, the
request of an arrival in ALIGNED is granted by a forced commit: the LIVE record nearest the head is removed and its circuit
COMMITTED, with a FORCED_COMMIT report that names the circuit that asked, and that circuit waits with D and a PENDING record
at the tail, or splices SEAMLESS with a LIVE one. -/
def Obligations.ArrivalInAligned : Prop :=
  (∀ (s : State) (p c : Nat) (place : List Byte) (ph : Phase) (b : Binding) (o : Word) (d : Nat),
    s.delivers p place ph c → (s.circuit c).state = .aligned → ph ≠ .release → (s.circuit c).binding = some b →
    (s.circuit c).align.offset = some o → s.trunk.recordOf c = none →
    { s.circuit c with ring := pushRing (s.circuit c).ring (s.frame - ssnOf place) }.deficitNow s.settings.params = some d →
    (pushRing (s.circuit c).ring (s.frame - ssnOf place)).length = 16 →
    s.paused = true ∨ s.settings.params.dmax < d ∨ s.trunk.waitQueue ≠ [] ∨ s.trunk.fallback.length < 8 ∨
      s.settings.policy = .hold ∨ (∀ f ∈ s.trunk.fallback, f.live = none) →
    ∃ t, exec (.bearerCell p place) s = .next t ∧ s.sameOutside t ∧ s.trunk.sameOthers c t.trunk ∧
      t.trunk.calendar = s.trunk.calendar ∧ (t.circuit c).peerPhase = some ph ∧
      (t.circuit c).ring = pushRing (s.circuit c).ring (s.frame - ssnOf place) ∧
      (s.paused = true → (t.circuit c).state = .aligned ∧ s.trunk.sameLists t.trunk ∧ s.trunk.sameReports t.trunk) ∧
      (s.paused = false → s.settings.params.dmax < d → (t.circuit c).state = .aligned ∧ s.trunk.sameLists t.trunk ∧
        ((s.circuit c).lastReported ≠ some .delayExcess →
          s.trunk.entered (aboutCircuit s.cycleCount c b .delayExcess none (some d) ⟨false, false, false⟩) t.trunk) ∧
        ((s.circuit c).lastReported = some .delayExcess → s.trunk.sameReports t.trunk)) ∧
      (s.paused = false → d = 0 → s.trunk.waitQueue = [] → s.trunk.fallback.length < 8 →
        (t.circuit c).state = .spliced ∧ (t.circuit c).splice.playOffset = some o ∧ (t.circuit c).splice.deficit = some 0 ∧
        (t.circuit c).splice.lastKind = some (.splice .seamless) ∧ t.trunk.waitQueue = [] ∧
        t.trunk.fallback = s.trunk.fallback ++ [⟨c, some ⟨s.frame + 1, s.settings.params.settle,
          if s.settings.params.spliceHold = 0 then none else some s.settings.params.spliceHold, true⟩⟩]) ∧
      (s.paused = false → 0 < d → d ≤ s.settings.params.dmax → s.trunk.waitQueue = [] → s.trunk.fallback.length < 8 →
        (t.circuit c).state = .spliceWait ∧ (t.circuit c).splice.deficit = some d ∧ t.trunk.waitQueue = [] ∧
        t.trunk.fallback = s.trunk.fallback ++ [⟨c, none⟩] ∧ s.trunk.sameReports t.trunk) ∧
      (s.paused = false → d ≤ s.settings.params.dmax → s.trunk.waitQueue ≠ [] ∨ 8 ≤ s.trunk.fallback.length →
        (t.circuit c).state = .splicePending ∧ t.trunk.waitQueue = s.trunk.waitQueue ++ [c] ∧
        t.trunk.fallback = s.trunk.fallback ∧ s.trunk.sameReports t.trunk)) ∧
  (∀ (s : State) (p c d v : Nat) (place : List Byte) (ph : Phase) (b bv : Binding) (o : Word) (before after : List FallbackRecord)
    (f : FallbackRecord),
    s.delivers p place ph c → (s.circuit c).state = .aligned → ph ≠ .release → (s.circuit c).binding = some b →
    (s.circuit c).align.offset = some o → s.trunk.recordOf c = none →
    { s.circuit c with ring := pushRing (s.circuit c).ring (s.frame - ssnOf place) }.deficitNow s.settings.params = some d →
    (pushRing (s.circuit c).ring (s.frame - ssnOf place)).length = 16 → s.paused = false → d ≤ s.settings.params.dmax →
    s.trunk.waitQueue = [] → s.trunk.fallback.length = 8 → s.settings.policy = .roll →
    s.trunk.fallback = before ++ f :: after → (∀ g ∈ before, g.live = none) → f.live ≠ none → f.circuit = v → v < 256 →
    (s.circuit v).binding = some bv → (s.circuit v).legacyReleased = false →
    ∃ t, exec (.bearerCell p place) s = .next t ∧ s.sameOutside t ∧ (∀ e, e ≠ c → e ≠ v → t.circuit e = s.circuit e) ∧
      t.trunk.calendar = s.trunk.calendar ∧ t.trunk.waitQueue = [] ∧ (t.circuit c).peerPhase = some ph ∧
      (t.circuit c).ring = pushRing (s.circuit c).ring (s.frame - ssnOf place) ∧
      (t.circuit v).state = .committed ∧ (t.circuit v).deferredRevert = false ∧
      (t.circuit v).splice.playOffset = (s.circuit v).splice.playOffset ∧
      (t.circuit v).splice.fill = (s.circuit v).splice.fill ∧ (t.circuit v).align.offset = (s.circuit v).align.offset ∧
      (t.circuit v).legacyReleased = decide ((s.circuit v).peerPhase = some .committed) ∧
      (s.trunk.reports.length < 64 → ∃ rest, t.trunk.reports = s.trunk.reports ++
        aboutCircuit s.cycleCount v bv .forcedCommit none (some c) ⟨false, false, false⟩ :: rest) ∧
      (d = 0 → (t.circuit c).state = .spliced ∧ (t.circuit c).splice.playOffset = some o ∧
        (t.circuit c).splice.deficit = some 0 ∧ (t.circuit c).splice.lastKind = some (.splice .seamless) ∧
        t.trunk.fallback = withoutRecord v s.trunk.fallback ++ [⟨c, some ⟨s.frame + 1, s.settings.params.settle,
          if s.settings.params.spliceHold = 0 then none else some s.settings.params.spliceHold, true⟩⟩]) ∧
      (0 < d → (t.circuit c).state = .spliceWait ∧ (t.circuit c).splice.deficit = some d ∧
        t.trunk.fallback = withoutRecord v s.trunk.fallback ++ [⟨c, none⟩]))

/-- R12, R77, R81: the idle test of a circuit in BRIDGING that is granted a record makes a blind IDLE splice: no fill, D
absent, the blind flag set, and O′ such that the smallest lead of the ring is the guard. R12: an arrival in BRIDGING whose
idle test fails (a count below the idle-qualify time, fewer than 16 offsets in the ring, or the pause flag), or whose request
is given no record (a queue, or a full list under HOLD or with no LIVE record), leaves the circuit in BRIDGING. Nothing else
changes than by the work on the cell, and the circuit is not queued. R12, R95: under ROLL, with a full list and no queue, the
request is granted by a forced commit of the LIVE record nearest the head, with a FORCED_COMMIT report that names the circuit
that asked, and that circuit makes the same blind IDLE splice. -/
def Obligations.IdleTestInBridging : Prop :=
  (∀ (s : State) (p c : Nat) (place : List Byte) (ph : Phase) (b : Binding) (ob : Word) (ring : List Word),
    s.delivers p place ph c → (s.circuit c).state = .bridging → ph ≠ .release → (s.circuit c).binding = some b →
    (s.circuit c).align.obase = some ob → (s.circuit c).align.offset = none → s.paused = false →
    s.trunk.recordOf c = none → s.trunk.waitQueue = [] → s.trunk.fallback.length < 8 →
    ring = pushRing (s.circuit c).ring (s.frame - ssnOf place) → ring.length = 16 →
    s.settings.params.guard ≤ 64 → (∀ e ∈ ring, -16000 < (ob - e).toInt ∧ (ob - e).toInt < 16000) →
    s.settings.params.idleQualify ≤ (s.circuit c).align.idleQualify →
    ∃ t o', exec (.bearerCell p place) s = .next t ∧ s.sameOutside t ∧ s.trunk.sameOthers c t.trunk ∧
      t.trunk.calendar = s.trunk.calendar ∧ t.trunk.waitQueue = [] ∧
      (t.circuit c).state = .spliced ∧ (t.circuit c).splice.playOffset = some o' ∧ (t.circuit c).splice.deficit = none ∧
      (∀ e ∈ ring, (s.settings.params.guard : Int) ≤ (o' - e).toInt) ∧
      (∃ e ∈ ring, (o' - e).toInt = s.settings.params.guard) ∧
      (t.circuit c).splice.lastKind = some (.splice .idle) ∧ (t.circuit c).splice.flags = ⟨false, true, false⟩ ∧
      (t.circuit c).splice.fill = none ∧ (t.circuit c).align.offset = none ∧
      t.trunk.fallback = s.trunk.fallback ++ [⟨c, some ⟨s.frame + 1, s.settings.params.settle,
        if s.settings.params.spliceHold = 0 then none else some s.settings.params.spliceHold, true⟩⟩] ∧
      s.trunk.entered (aboutCircuit s.cycleCount c b .spliced (some (.splice .idle)) none ⟨false, true, false⟩) t.trunk) ∧
  (∀ (s : State) (p c : Nat) (place : List Byte) (ph : Phase),
    s.delivers p place ph c → (s.circuit c).state = .bridging → ph ≠ .release →
    (s.circuit c).align.idleQualify < s.settings.params.idleQualify ∨
      (pushRing (s.circuit c).ring (s.frame - ssnOf place)).length ≠ 16 ∨ s.paused = true ∨ s.trunk.waitQueue ≠ [] ∨
      (8 ≤ s.trunk.fallback.length ∧ (s.settings.policy = .hold ∨ ∀ f ∈ s.trunk.fallback, f.live = none)) →
    ∃ t, exec (.bearerCell p place) s = .next t ∧ s.sameOutside t ∧ s.trunk.onlyRecord c t.trunk ∧
      (s.circuit c).wroteCell place (t.circuit c) ∧
      t.circuit c = { s.circuit c with
        silence := 0
        fibreCode := codeOf place
        peerPhase := some ph
        ring := pushRing (s.circuit c).ring (s.frame - ssnOf place)
        counters := { (s.circuit c).counters with received := min ((s.circuit c).counters.received + 1) 65535 }
        playout := (t.circuit c).playout
        align := { (s.circuit c).align with
          obase := some ((s.circuit c).align.obase.getD (s.frame - ssnOf place))
          judging := windowEntered s.frame (ssnOf place) ((s.circuit c).align.obase.getD (s.frame - ssnOf place))
            (s.circuit c).align.judging } }) ∧
  (∀ (s : State) (p c v : Nat) (place : List Byte) (ph : Phase) (b bv : Binding) (ob : Word) (ring : List Word)
    (before after : List FallbackRecord) (f : FallbackRecord),
    s.delivers p place ph c → (s.circuit c).state = .bridging → ph ≠ .release → (s.circuit c).binding = some b →
    (s.circuit c).align.obase = some ob → (s.circuit c).align.offset = none → s.paused = false →
    s.trunk.recordOf c = none → s.trunk.waitQueue = [] → s.trunk.fallback.length = 8 → s.settings.policy = .roll →
    s.trunk.fallback = before ++ f :: after → (∀ g ∈ before, g.live = none) → f.live ≠ none → f.circuit = v → v < 256 →
    (s.circuit v).binding = some bv → (s.circuit v).legacyReleased = false →
    ring = pushRing (s.circuit c).ring (s.frame - ssnOf place) → ring.length = 16 →
    s.settings.params.guard ≤ 64 → (∀ e ∈ ring, -16000 < (ob - e).toInt ∧ (ob - e).toInt < 16000) →
    s.settings.params.idleQualify ≤ (s.circuit c).align.idleQualify →
    ∃ t o', exec (.bearerCell p place) s = .next t ∧ s.sameOutside t ∧
      (∀ e, e ≠ c → e ≠ v → t.circuit e = s.circuit e) ∧
      t.trunk.calendar = s.trunk.calendar ∧ t.trunk.waitQueue = [] ∧
      (t.circuit v).state = .committed ∧ (t.circuit v).deferredRevert = false ∧
      (t.circuit v).splice.playOffset = (s.circuit v).splice.playOffset ∧
      (t.circuit v).splice.fill = (s.circuit v).splice.fill ∧ (t.circuit v).align.offset = (s.circuit v).align.offset ∧
      (t.circuit v).legacyReleased = decide ((s.circuit v).peerPhase = some .committed) ∧
      (s.trunk.reports.length < 64 → ∃ rest, t.trunk.reports = s.trunk.reports ++
        aboutCircuit s.cycleCount v bv .forcedCommit none (some c) ⟨false, false, false⟩ :: rest) ∧
      (t.circuit c).state = .spliced ∧ (t.circuit c).splice.playOffset = some o' ∧ (t.circuit c).splice.deficit = none ∧
      (∀ e ∈ ring, (s.settings.params.guard : Int) ≤ (o' - e).toInt) ∧
      (∃ e ∈ ring, (o' - e).toInt = s.settings.params.guard) ∧
      (t.circuit c).splice.lastKind = some (.splice .idle) ∧ (t.circuit c).splice.flags = ⟨false, true, false⟩ ∧
      (t.circuit c).splice.fill = none ∧ (t.circuit c).align.offset = none ∧
      t.trunk.fallback = withoutRecord v s.trunk.fallback ++ [⟨c, some ⟨s.frame + 1, s.settings.params.settle,
        if s.settings.params.spliceHold = 0 then none else some s.settings.params.spliceHold, true⟩⟩])

/-! ## The fallback list -/

/-- R94, R95: how a request for a record is answered. A waiting queue holds it back; room grants it; without room only ROLL
with a LIVE record in the list grants it, by a forced commit: the LIVE record nearest the head is removed and its circuit
committed, with a FORCED_COMMIT report that names the circuit that asked. R98, R100: a serving is nothing while the pause
flag is set, without room or with no circuit waiting. A head whose deficit is within Dmax is served: PENDING and SPLICE_WAIT
with D, or a SEAMLESS splice with a LIVE record when D is 0. A head above Dmax goes back to ALIGNED with a DELAY_EXCESS
report. The serving goes on while room remains. R95, R101: under ROLL, a record that has become LIVE in a full list while a
circuit waits serves the head by a forced commit; with D above 0 the serving ends there; past a head above Dmax it goes on.
R22, R77, R96, R101: with D of 0 the splice is reported, and under ROLL its LIVE record, granted from room or by the forced
commit, starts the further serving once the list is full. R16, R20, R98, R100, R125, R127: the removal of a record by an
abandon with its report, by a settle expiry, by a stream loss or by the loss of a peer station to which no other circuit is
bound starts a serving, after the change that removed it has been made and reported (DEDUCED, log 23). R7, R11, R66, R75,
R88, R146, R147, R160: so do the removals by RELEASE from the peer, by alignment lost, by delay excess in SPLICE_WAIT, by the
quiet reverse splice and by REVERT, FORCE and COMMIT, whose reply carries the circuit (section 12.3; log 13). A record that
becomes LIVE by a QUIET or a FORCED splice, or by an arrival, starts the serving of R101. -/
def Obligations.RequestsAndServings : Prop :=
  (∀ (x : Ctx) (t : Trunk) (c : Nat),
    (t.waitQueue ≠ [] → t.request x c = none) ∧
    (t.waitQueue = [] → t.fallback.length < 8 → t.request x c = some t) ∧
    (t.waitQueue = [] → 8 ≤ t.fallback.length → x.settings.policy = .hold ∨ (∀ f ∈ t.fallback, f.live = none) →
      t.request x c = none) ∧
    ∀ (v : Nat) (before after : List FallbackRecord) (f : FallbackRecord) (b : Binding),
      t.waitQueue = [] → 8 ≤ t.fallback.length → x.settings.policy = .roll → t.fallback = before ++ f :: after →
      (∀ g ∈ before, g.live = none) → f.live ≠ none → f.circuit = v → v < 256 → (t.circuit v).binding = some b →
      ∃ u, t.request x c = some u ∧ u.fallback = withoutRecord v t.fallback ∧ u.waitQueue = [] ∧ u.calendar = t.calendar ∧
        t.sameOthers v u ∧ (u.circuit v).state = .committed ∧ (u.circuit v).deferredRevert = false ∧
        (u.circuit v).splice.playOffset = (t.circuit v).splice.playOffset ∧
        (u.circuit v).splice.fill = (t.circuit v).splice.fill ∧
        (t.reports.length < 64 → ∃ rest, u.reports = t.reports ++
          aboutCircuit x.cycles v b .forcedCommit none (some c) ⟨false, false, false⟩ :: rest)) ∧
  (∀ (x : Ctx) (t : Trunk),
    (x.paused = true ∨ 8 ≤ t.fallback.length ∨ t.waitQueue = [] → t.serve x = t) ∧
    ∀ (h d : Nat) (rest : List Nat) (b : Binding) (o : Word),
      x.paused = false → t.waitQueue = h :: rest → t.fallback.length = 7 → h < 256 → t.recordOf h = none →
      (t.circuit h).binding = some b → (t.circuit h).align.offset = some o →
      (t.circuit h).deficitNow x.settings.params = some d →
      (0 < d → d ≤ x.settings.params.dmax →
        (t.serve x).waitQueue = rest ∧ (t.serve x).fallback = t.fallback ++ [⟨h, none⟩] ∧
        ((t.serve x).circuit h).state = .spliceWait ∧ ((t.serve x).circuit h).splice.deficit = some d ∧
        t.sameOthers h (t.serve x) ∧ t.sameReports (t.serve x) ∧ (t.serve x).calendar = t.calendar) ∧
      (d = 0 → x.settings.policy = .hold →
        (t.serve x).waitQueue = rest ∧ (t.serve x).fallback = t.fallback ++ [⟨h, some ⟨x.frame + 1, x.settings.params.settle,
          if x.settings.params.spliceHold = 0 then none else some x.settings.params.spliceHold, true⟩⟩] ∧
        ((t.serve x).circuit h).state = .spliced ∧ ((t.serve x).circuit h).splice.playOffset = some o ∧
        ((t.serve x).circuit h).splice.lastKind = some (.splice .seamless) ∧ t.sameOthers h (t.serve x)) ∧
      (x.settings.params.dmax < d → rest = [] →
        (t.serve x).waitQueue = [] ∧ (t.serve x).fallback = t.fallback ∧
        ((t.serve x).circuit h).state = .aligned ∧ ((t.serve x).circuit h).splice.deficit = none ∧
        t.sameOthers h (t.serve x) ∧
        t.entered (aboutCircuit x.cycles h b .delayExcess none (some d) ⟨false, false, false⟩) (t.serve x))) ∧
  (∀ (x : Ctx) (t : Trunk) (h d v : Nat) (rest : List Nat) (before after : List FallbackRecord) (f : FallbackRecord),
    x.settings.policy = .roll → x.paused = false → t.waitQueue = h :: rest → t.fallback.length = 8 →
    t.fallback = before ++ f :: after → (∀ g ∈ before, g.live = none) → f.live ≠ none → f.circuit = v → v < 256 → h < 256 →
    h ≠ v → t.recordOf h = none → (t.circuit h).deficitNow x.settings.params = some d → 0 < d → d ≤ x.settings.params.dmax →
    (t.serveLive x).waitQueue = rest ∧ (t.serveLive x).fallback = withoutRecord v t.fallback ++ [⟨h, none⟩] ∧
      ((t.serveLive x).circuit v).state = .committed ∧ ((t.serveLive x).circuit h).state = .spliceWait ∧
      ((t.serveLive x).circuit h).splice.deficit = some d ∧
      ∀ c, c ≠ h → c ≠ v → (t.serveLive x).circuit c = t.circuit c) ∧
  (∀ (x : Ctx) (t : Trunk) (h : Nat) (rest : List Nat) (b : Binding) (o : Word),
    x.paused = false → t.waitQueue = h :: rest → h < 256 → t.recordOf h = none → (t.circuit h).binding = some b →
    (t.circuit h).align.offset = some o → (t.circuit h).deficitNow x.settings.params = some 0 →
    (t.fallback.length < 8 →
      ∃ u : Trunk, u.waitQueue = rest ∧ u.fallback = t.fallback ++ [x.liveRecord h] ∧ u.calendar = t.calendar ∧ t.sameOthers h u ∧
        (t.circuit h).splicedSeamless o (u.circuit h) ∧
        t.entered (aboutCircuit x.cycles h b .spliced (some (.splice .seamless)) (some 0) ⟨false, false, false⟩) u ∧
        (x.settings.policy = .hold ∨ t.fallback.length < 7 → t.serve x = u.serve x) ∧
        (x.settings.policy = .roll → t.fallback.length = 7 → t.serve x = u.serveLive x)) ∧
    ∀ (v : Nat) (bv : Binding) (before after : List FallbackRecord) (f : FallbackRecord),
      x.settings.policy = .roll → t.fallback.length = 8 → t.fallback = before ++ f :: after → (∀ g ∈ before, g.live = none) →
      f.live ≠ none → f.circuit = v → v < 256 → (t.circuit v).binding = some bv →
      ∃ u : Trunk, t.serveLive x = u.serveLive x ∧ u.waitQueue = rest ∧
        u.fallback = withoutRecord v t.fallback ++ [x.liveRecord h] ∧ u.calendar = t.calendar ∧
        (∀ c, c ≠ h → c ≠ v → u.circuit c = t.circuit c) ∧
        (t.circuit h).splicedSeamless o (u.circuit h) ∧ (t.circuit v).committedFrom (u.circuit v) ∧
        (t.reports.length ≤ 61 → u.reports = t.reports ++
          [aboutCircuit x.cycles v bv .forcedCommit none (some h) ⟨false, false, false⟩] ++
          (if (t.circuit v).peerPhase = some .committed ∧ (t.circuit v).legacyReleased = false then
            [aboutCircuit x.cycles v bv .legacyReleased none none ⟨false, false, false⟩] else []) ++
          [aboutCircuit x.cycles h b .spliced (some (.splice .seamless)) (some 0) ⟨false, false, false⟩])) ∧
  (∀ (x : Ctx) (t : Trunk) (h d : Nat) (rest : List Nat) (b : Binding),
    x.paused = false → t.waitQueue = h :: rest → h < 256 → (t.circuit h).binding = some b →
    (t.circuit h).deficitNow x.settings.params = some d →
    (t.fallback.length < 8 → x.settings.params.dmax < d →
      ∃ u, t.serve x = u.serve x ∧ u.waitQueue = rest ∧ u.fallback = t.fallback ∧ u.calendar = t.calendar ∧ t.sameOthers h u ∧
        (u.circuit h).state = .aligned ∧ (u.circuit h).splice.deficit = none ∧
        t.entered (aboutCircuit x.cycles h b .delayExcess none (some d) ⟨false, false, false⟩) u) ∧
    (t.fallback.length < 8 → 0 < d → d ≤ x.settings.params.dmax →
      ∃ u, t.serve x = u.serve x ∧ u.waitQueue = rest ∧ u.fallback = t.fallback ++ [⟨h, none⟩] ∧ u.calendar = t.calendar ∧
        t.sameOthers h u ∧ t.sameReports u ∧ (u.circuit h).state = .spliceWait ∧ (u.circuit h).splice.deficit = some d) ∧
    (t.fallback.length = 8 → x.settings.policy = .roll → (∃ f ∈ t.fallback, f.live ≠ none) → x.settings.params.dmax < d →
      ∃ u, t.serveLive x = u.serveLive x ∧ u.waitQueue = rest ∧ u.fallback = t.fallback ∧ t.sameOthers h u ∧
        (u.circuit h).state = .aligned ∧
        t.entered (aboutCircuit x.cycles h b .delayExcess none (some d) ⟨false, false, false⟩) u)) ∧
  (∀ (s : State) (c : Nat) (b : Binding), let u := s.settleBoundary
    c < 256 → (u.circuit c).binding = some b → (∃ f, u.trunk.recordOf c = some f) →
    (∀ i k, (i = .alignmentTimeout c ∧ k = .alignTimeout ∧ (u.circuit c).state = .bridging ∧ (u.circuit c).stateTimer = 0) ∨
        (i = .bridgeIdleWatchdog c ∧ k = .bridgeIdle ∧ (u.circuit c).state.beforeSplice = true ∧ u.ctx.counted = true ∧
          u.settings.params.bridgeIdle ≤ (u.circuit c).silence) →
      ∃ v, exec i s = .next { u with trunk := v.serve u.ctx } ∧ v.fallback = withoutRecord c u.trunk.fallback ∧
        v.waitQueue = u.trunk.waitQueue.filter (fun d => decide (d ≠ c)) ∧ v.calendar = u.trunk.calendar ∧
        u.trunk.sameOthers c v ∧ (v.circuit c).state = .copper ∧ (v.circuit c).releaseCells = 4 ∧
        u.trunk.entered (aboutCircuit u.cycleCount c b k none none ⟨false, false, false⟩) v) ∧
    (∀ l, u.trunk.liveOf c = some l → l.settle = 0 → (u.circuit c).state = .spliced → (u.circuit c).deferredRevert = false →
      ∃ v, exec (.settleExpiry c) s = .next { u with trunk := v.serve u.ctx } ∧ v.fallback = withoutRecord c u.trunk.fallback ∧
        v.waitQueue = u.trunk.waitQueue ∧ v.calendar = u.trunk.calendar ∧ u.trunk.sameOthers c v ∧
        (v.circuit c).state = .committed) ∧
    ((u.circuit c).state = .spliced ∨ (u.circuit c).state = .revertWait → u.ctx.counted = true →
      u.settings.params.streamLoss ≤ (u.circuit c).silence →
      ∃ v, exec (.streamLoss c) s = .next { u with trunk := v.serve u.ctx } ∧ v.fallback = withoutRecord c u.trunk.fallback ∧
        v.waitQueue = u.trunk.waitQueue ∧ v.calendar = u.trunk.calendar ∧ u.trunk.sameOthers c v ∧
        (v.circuit c).state = .copper ∧ (v.circuit c).splice.lastKind = some (.reverse .urgent)) ∧
    (∀ p w, p < 15 → b.peer = p → (∀ d e, d ≠ c → (u.circuit d).binding = some e → e.peer ≠ p) →
      (u.peer p).state = .present → 4 ≤ (u.peer p).miss → w = u.setPeer p { u.peer p with state := .lost } →
      (u.circuit c).state.beforeSplice = true ∨ (u.circuit c).state = .spliced ∨ (u.circuit c).state = .revertWait →
      ∃ v, exec (.peerLoss p) s = .next { w with trunk := v.serve w.ctx } ∧ v.fallback = withoutRecord c u.trunk.fallback ∧
        v.waitQueue = (if (u.circuit c).state.beforeSplice = true then u.trunk.waitQueue.filter (fun d => decide (d ≠ c))
          else u.trunk.waitQueue) ∧
        v.calendar = u.trunk.calendar ∧ u.trunk.sameOthers c v ∧ (v.circuit c).state = .copper ∧ (v.circuit c).releaseCells = 4)) ∧
  (∀ (s : State) (c : Nat) (b : Binding), c < 256 → (s.circuit c).binding = some b → (∃ f, s.trunk.recordOf c = some f) →
    (∀ p place, s.delivers p place .release c → c ∉ s.trunk.waitQueue →
      (s.circuit c).state.beforeSplice = true ∨ (s.circuit c).state = .spliced ∨ (s.circuit c).state = .revertWait →
      ∃ v, exec (.bearerCell p place) s =
          .next { s with trunk := (v.serve s.ctx).modify c (fun r => { r with peerPhase := some .release }) } ∧
        v.fallback = withoutRecord c s.trunk.fallback ∧ v.waitQueue = s.trunk.waitQueue ∧ v.calendar = s.trunk.calendar ∧
        s.trunk.sameOthers c v ∧ (v.circuit c).state = .copper ∧ (v.circuit c).releaseCells = 4) ∧
    (∀ e o, s.trunk.dueWindow s.ctx c = some e → (s.circuit c).align.offset = some o →
      (s.circuit c).state = .aligned ∨ (s.circuit c).state = .splicePending ∨ (s.circuit c).state = .spliceWait →
      (s.circuit c).conclusive s.settings e.ssn = true → (s.circuit c).matchesAt e.ssn o = false →
      (s.circuit c).align.verifyMiss = 2 →
      ∃ v, exec (.windowJudgement c) s = .next { s with trunk := v.serve s.ctx } ∧
        v.fallback = withoutRecord c s.trunk.fallback ∧
        v.waitQueue = s.trunk.waitQueue.filter (fun d => decide (d ≠ c)) ∧ v.calendar = s.trunk.calendar ∧
        s.trunk.sameOthers c v ∧ (v.circuit c).state = .bridging ∧ (v.circuit c).align.offset = none ∧
        s.trunk.entered (aboutCircuit s.cycleCount c b .alignLost none none ⟨false, false, false⟩) v) ∧
    (∀ p place ph o d, s.delivers p place ph c → (s.circuit c).state = .spliceWait → ph ≠ .release →
      (s.circuit c).align.offset = some o →
      { s.circuit c with ring := pushRing (s.circuit c).ring (s.frame - ssnOf place) }.deficitNow s.settings.params = some d →
      (s.settings.params.dmax < d →
        ∃ v, exec (.bearerCell p place) s = .next { s with trunk := v.serve s.ctx } ∧
          v.fallback = withoutRecord c s.trunk.fallback ∧ v.waitQueue = s.trunk.waitQueue ∧ v.calendar = s.trunk.calendar ∧
          s.trunk.sameOthers c v ∧ (v.circuit c).state = .aligned ∧ (v.circuit c).splice.deficit = none ∧
          s.trunk.entered (aboutCircuit s.cycleCount c b .delayExcess none (some d) ⟨false, false, false⟩) v) ∧
      (d = 0 ∨ (d ≤ s.settings.params.dmax ∧ s.settings.params.idleQualify ≤ (s.circuit c).align.idleQualify) →
        ∃ v, exec (.bearerCell p place) s = .next { s with trunk := v.serveLive s.ctx } ∧
          v.waitQueue = s.trunk.waitQueue ∧ v.calendar = s.trunk.calendar ∧ s.trunk.sameOthers c v ∧
          (v.circuit c).state = .spliced ∧ (v.circuit c).splice.deficit = some d ∧ v.liveOf c ≠ none ∧
          v.fallback.map FallbackRecord.circuit = s.trunk.fallback.map FallbackRecord.circuit)) ∧
    (∀ u, u = s.giveSlotNow c → (u.circuit c).splice.ripe = true →
      ((u.circuit c).state = .revertWait →
        ∃ v, exec (.quietRunReverseSplice c) s = .next { u with trunk := v.serve u.ctx } ∧
          v.fallback = withoutRecord c s.trunk.fallback ∧ v.waitQueue = s.trunk.waitQueue ∧ v.calendar = s.trunk.calendar ∧
          s.trunk.sameOthers c v ∧ (v.circuit c).state = .copper ∧ (v.circuit c).releaseCells = 4 ∧
          (v.circuit c).splice.lastKind = some (.reverse .planned)) ∧
      (∀ o d, (u.circuit c).state = .spliceWait → (u.circuit c).align.offset = some o → (u.circuit c).splice.deficit = some d →
        ∃ v, exec (.quietRunSplice c) s = .next { u with trunk := v.serveLive u.ctx } ∧ v.waitQueue = s.trunk.waitQueue ∧
          v.calendar = s.trunk.calendar ∧ s.trunk.sameOthers c v ∧ (v.circuit c).state = .spliced ∧
          (v.circuit c).splice.lastKind = some (.splice .quiet) ∧ (v.circuit c).splice.deficit = some d ∧ v.liveOf c ≠ none ∧
          v.fallback.map FallbackRecord.circuit = s.trunk.fallback.map FallbackRecord.circuit)) ∧
    (∀ (o : Order) (rest : List Order), s.headIs o rest → o.kind = 1 → o.operand = c → s.stationState ≠ .configBad →
      (∀ i, (i = .revert ∧ o.value = 2 ∧ (s.circuit c).state.beforeSplice = true) ∨
          (i = .force ∧ o.value = 3 ∧ (s.circuit c).state = .revertWait) ∨
          (i = .commit ∧ o.value = 4 ∧ (s.circuit c).state = .spliced) →
        ∃ v, exec i s = .next { s with
            trunk := v.serve s.ctx
            orderQueue := rest
            replyQueue := s.replyQueue ++ [⟨o.source, o.tag, o.value, .done, none, circuitReply c⟩] } ∧
          v.fallback = withoutRecord c s.trunk.fallback ∧
          v.waitQueue = (if o.value = 2 then s.trunk.waitQueue.filter (fun d => decide (d ≠ c)) else s.trunk.waitQueue) ∧
          v.calendar = s.trunk.calendar ∧ s.trunk.sameOthers c v ∧
          (o.value ≠ 4 → (v.circuit c).state = .copper ∧ (v.circuit c).releaseCells = 4) ∧
          (o.value = 4 → (v.circuit c).state = .committed ∧ (v.circuit c).deferredRevert = false)) ∧
      (∀ off d, o.value = 3 → (s.circuit c).state = .spliceWait → (s.circuit c).align.offset = some off →
        (s.circuit c).splice.deficit = some d →
        ∃ v, exec .force s = .next { s with
            trunk := v.serveLive s.ctx
            orderQueue := rest
            replyQueue := s.replyQueue ++ [⟨o.source, o.tag, 3, .done, none, circuitReply c⟩] } ∧
          v.waitQueue = s.trunk.waitQueue ∧ v.calendar = s.trunk.calendar ∧ s.trunk.sameOthers c v ∧
          (v.circuit c).state = .spliced ∧ (v.circuit c).splice.lastKind = some (.splice .forced) ∧
          (v.circuit c).splice.deficit = some d ∧ v.liveOf c ≠ none ∧
          v.fallback.map FallbackRecord.circuit = s.trunk.fallback.map FallbackRecord.circuit)))

/-! ## The calendar and the lane -/

/-- R109, R111, R112, R114: the build of the open frame's row, in the frame in which it builds a circuit's fourth release
cell. Every circuit of the row has its cell in row order; release cells remaining go down by one, and a circuit whose count
has reached 0 leaves the row. Without such a cell to build the command changes nothing (DESIGN CHOICE, log 3). R109, R111,
R112, R113, R114: the ordinary build of the row. A marker that closes a frame whose row is still to be built builds it after
the frame's events (log 4, 5), and the lane frame it sends carries the cells in row order. Between two commands of the frame
the row can be built as well (log 39), so that one change of a circuit comes before the build and another after it. -/
def Obligations.LastReleaseCellLeavesCalendar : Prop :=
  (∀ (s : State) (c n k : Nat),
    k = s.frame.toNat % 40 → s.stationNo = some n →
    (s.todo.build = true → c ∈ s.trunk.row k → (s.circuit c).state = .copper → (s.circuit c).releaseCells = 1 → s.rowSound k →
      ∃ t, exec (.lastReleaseCell c) s = .next t ∧ s.rowBuilt n k t ∧ c ∉ t.trunk.row k ∧
        t.circuit c = { s.circuit c with releaseCells := 0, calendarRow := none }) ∧
    (s.todo.build = false ∨ c ∉ s.trunk.row k ∨ (s.circuit c).state ≠ .copper ∨ (s.circuit c).releaseCells ≠ 1 →
      exec (.lastReleaseCell c) s = .next s)) ∧
  (∀ (s : State) (n k : Nat), k = s.frame.toNat % 40 → s.stationNo = some n → s.todo.build = true →
    (∀ (sw lg : Highway) (straps : BitVec 4) (o : FrameOrder) (i : Instr), let u := s.settleBoundary.takeRest
      s.stationState = .operating → s.missCount < 16 → s.frameCount ≠ none → s.finishFrame.sendsRestart = false → u.rowSound k →
      (u.trunk.row k).length ≤ 6 → i = .frameMarker sw lg straps o ∨ i = .missedFrameMarker sw lg o →
      u.rowBuilt n k u.buildRow ∧ s.finishFrame = u.buildRow.fillService.takeAll.sendLane ∧
      ∃ t l, exec i s = .next t ∧ t.laneOut = some l ∧
        ∀ (j d : Nat), (u.trunk.row k)[j]? = some d → l.bearer[j]? = some (padTo 46 (bearerCellBytes n s.frame d (u.circuit d)))) ∧
    ∀ ws, s.pending = [] → s.todo.between = .build :: ws → s.rowSound k →
      ∃ t, step s = .next t ∧ { s with todo := { s.todo with between := ws } }.rowBuilt n k t ∧ t.todo.between = ws)

/-- R29, R117, R118, R122: after a frame, whether the next begins with a marker or without one, the station sends its lane
frame in CONFIG_BAD, LISTENING and OPERATING and in no other state: the frame's bearer cells in row order in six places,
empty places as zeros, and the service place. R118, R122: the service place of a frame that is filled at once (log 4): the
beacon at cycle position 0, else the reply at the head of the reply queue, which leaves it. R118, R122: a service place that
is still to be filled when the frame is closed is filled from what the frame's boundary, events, orders and row have left:
the beacon after a frame of cycle position 0, else the reply at the head of the reply queue, which leaves it, or nothing.
Replies to the orders taken after it join the tail. R118: the same of a place filled among the frame's commands (DESIGN
CHOICE, log 39); a place is filled once, and by a station on the star only. R142, R119, R158, Table 12.1 and the reply body:
the place of a reply passes the header check at any other station and carries, by field, the replying station, addressee and
outcome, tag, order value, reason code, CRC-8, payload length, payload, CRC-16 and zeros behind. Bits that no table assigns
are 0 (DESIGN CHOICE, log 44). -/
def Obligations.LaneFrameAndServicePlace : Prop :=
  (∀ (s : State) (f : Word) (sw lg : Highway) (straps : BitVec 4) (o : FrameOrder) (i : Instr), let w := s.finishFrame
    i = .frameMarker sw lg straps o ∨ i = .missedFrameMarker sw lg o →
    s.stationState ≠ .reset → s.missCount < 16 → s.frameCount = some f → w.sendsRestart = false →
    ∃ t, exec i s = .next t ∧
      (w.stationState = .loading ∨ w.stationState = .offStar → t.laneOut = none) ∧
      (w.stationState = .configBad ∨ w.stationState = .listening ∨ w.stationState = .operating →
        w.bearerPlaces.length ≤ 6 →
        ∃ l, t.laneOut = some l ∧ l.bearer.length = 6 ∧
          (∀ (i : Nat) (cell : List Byte), w.bearerPlaces[i]? = some cell → l.bearer[i]? = some (padTo 46 cell)) ∧
          (∀ i : Nat, w.bearerPlaces.length ≤ i → i < 6 → l.bearer[i]? = some (List.replicate 46 0)) ∧
          (w.servicePlace = .empty → l.service = List.replicate 68 0) ∧
          (∀ bs, w.servicePlace = .beacon bs → l.service = padTo 68 bs) ∧
          ∀ r, w.servicePlace = .reply r → l.service = padTo 68 (r.bytes (s.stationNo.getD 15)))) ∧
  (∀ (s : State) (f : Word) (sw lg : Highway) (straps : BitVec 4) (o : FrameOrder) (i : Instr), let w := s.finishFrame
    i = .frameMarker sw lg straps o ∨ i = .missedFrameMarker sw lg o →
    s.stationState ≠ .reset → s.missCount < 16 → s.frameCount = some f → w.sendsRestart = false →
    w.stationState.onStar = true → o.serviceFirst = true →
    ∃ t, exec i s = .next t ∧
      ((f + 1).toNat % 40 = 0 → t.servicePlace = .beacon t.beaconBytes ∧ t.replyQueue = w.replyQueue) ∧
      ((f + 1).toNat % 40 ≠ 0 → w.replyQueue = [] → t.servicePlace = .empty ∧ t.replyQueue = []) ∧
      ∀ r rest, (f + 1).toNat % 40 ≠ 0 → w.replyQueue = r :: rest → t.servicePlace = .reply r ∧ t.replyQueue = rest) ∧
  (∀ (s : State) (f : Word) (sw lg : Highway) (straps : BitVec 4) (o : FrameOrder) (i : Instr), let v := s.settleBoundary.takeRest.buildRow
    i = .frameMarker sw lg straps o ∨ i = .missedFrameMarker sw lg o →
    s.stationState.onStar = true → s.missCount < 16 → s.frameCount = some f → s.finishFrame.sendsRestart = false →
    s.todo.service = true →
    ∃ t l, exec i s = .next t ∧ t.laneOut = some l ∧
      (f.toNat % 40 = 0 → l.service = padTo 68 v.beaconBytes ∧ ∃ more, s.finishFrame.replyQueue = v.replyQueue ++ more) ∧
      (f.toNat % 40 ≠ 0 → v.replyQueue = [] → s.servicePlace = .empty → l.service = List.replicate 68 0) ∧
      ∀ r rest, f.toNat % 40 ≠ 0 → v.replyQueue = r :: rest →
        l.service = padTo 68 (r.bytes (s.stationNo.getD 15)) ∧ ∃ more, s.finishFrame.replyQueue = rest ++ more) ∧
  (∀ (s : State) (ws : List Work), s.pending = [] → s.todo.between = .service :: ws →
    ∃ t, step s = .next t ∧ { t with servicePlace := s.servicePlace, replyQueue := s.replyQueue, todo := s.todo } = s ∧
      t.todo = { s.todo with between := ws, service := s.todo.service && !s.stationState.onStar } ∧
      (s.todo.service = false ∨ s.stationState.onStar = false → t.servicePlace = s.servicePlace ∧ t.replyQueue = s.replyQueue) ∧
      (s.todo.service = true → s.stationState.onStar = true →
        (s.frame.toNat % 40 = 0 → t.servicePlace = .beacon s.beaconBytes ∧ t.replyQueue = s.replyQueue) ∧
        (s.frame.toNat % 40 ≠ 0 → s.replyQueue = [] → t.servicePlace = s.servicePlace ∧ t.replyQueue = []) ∧
        ∀ r rest, s.frame.toNat % 40 ≠ 0 → s.replyQueue = r :: rest → t.servicePlace = .reply r ∧ t.replyQueue = rest)) ∧
  (∀ (n : Nat) (r : Reply) (place : List Byte),
    n < 15 → r.addressee < 16 → r.value < 256 → r.payload.length ≤ 56 → place = padTo 68 (r.bytes n) →
    place.length = 68 ∧ isEmptyPlace place = false ∧ headerOk n place = true ∧ kindOf place = 4 ∧
      r.laidOutAs n place)

/-- R112, R119, R158, Table 12.1: a bearer cell as a station builds it passes the header check at any other station, and what
is read from it is what was built: the circuit, the first SSN F − 39, the supervision, the phase and the forty samples. -/
def Obligations.BearerCellsReadAsBuilt : Prop :=
  ∀ (n c : Nat) (f : Word) (r : Circuit) (ph : Phase) (place : List Byte),
    n < 15 → c < 256 → r.state.announces = some ph → r.capture.length = 40 →
    place = padTo 46 (bearerCellBytes n f c r) →
    place.length = 46 ∧ isEmptyPlace place = false ∧ headerOk n place = true ∧ kindOf place = 1 ∧ phaseOf place = some ph ∧
      senderCircuitOf place = c ∧ ssnOf place = f - 39 ∧ codeOf place = r.captureCode ∧
      (∀ i, i < 40 → some (sampleOf place i) = r.capture[i]?) ∧
      ∀ d, bearerOf place ph d = ⟨d, f - 39, r.captureCode, ph, r.capture⟩

/-- R119, R122, R158, Tables 12.1 and 12.2: a beacon as a station builds it passes both checks at any other station, and what
is read from it is the station's cycle count and, outside CONFIG_BAD, its window digest; in CONFIG_BAD the digest's 32 bytes
are 0. Its header carries the station, the station state whose rules hold (log 40), the start cause, the pause flag, the
config-bad flag and the number of records in the fallback list. The bits that no table assigns are 0 (DESIGN CHOICE, log 44),
and so are the bytes behind the body. -/
def Obligations.BeaconsReadAsBuilt : Prop :=
  ∀ (s : State) (n : Nat) (place : List Byte),
    n < 15 → s.stationNo = some n → s.trunk.fallback.length ≤ 8 → s.windows.length = 8 → s.cycleCount < 281474976710656 →
    (∀ w ∈ s.windows, w.peer < 16 ∧ w.localBase < 256 ∧ w.peerBase < 256 ∧ 1 ≤ w.length ∧ w.length ≤ 256) →
    place = padTo 68 s.beaconBytes →
    place.length = 68 ∧ isEmptyPlace place = false ∧ headerOk n place = true ∧ kindOf place = 2 ∧ beaconBodyOk place = true ∧
      (byteAt place 0).toNat = 64 + n ∧
      (∀ (st : StationState) (k : Nat), (st, k) ∈ [(.configBad, 1), (.listening, 2), (.operating, 3)] → s.stage = st →
        (byteAt place 1).toNat / 16 = k) ∧
      (∀ (why : StartCause) (k : Nat), (why, k) ∈ [(.power, 1), (.pin, 2), (.order, 3), (.timing, 4)] → s.startCause = why →
        (byteAt place 1).toNat % 16 = k) ∧
      (byteAt place 2).toNat =
        (if s.paused = true then 128 else 0) + (if s.stationState = .configBad then 64 else 0) + s.trunk.fallback.length ∧
      byteAt place 3 = 0 ∧ byteAt place 4 = 0 ∧ (∀ i, 46 ≤ i → byteAt place i = 0) ∧
      (beaconOf place).cycles = s.cycleCount ∧
      (s.stationState = .configBad → (beaconOf place).digest = none ∧ (place.drop 12).take 32 = List.replicate 32 0) ∧
      (s.stationState ≠ .configBad → (beaconOf place).digest = some (s.windows.map (fun w =>
        ⟨decide (w.enabled = true ∧ w.validity = .valid), w.peer, w.localBase, w.peerBase, w.length⟩)))

/-! ## Orders -/

/-- R141, R143, R149: an order command takes nothing while the station state admits none, the reply queue holds eight, a
RESTART has been taken or no order waits. R149: RESTART is answered like any other order, and from its taking no further
order is taken. That its reply carries no payload is DEDUCED (log 13). The operand byte of the RESTART may hold any value
(DESIGN CHOICE, log 48). -/
def Obligations.OrdersWaitAndRestartStopsThem : Prop :=
  (∀ (s : State) (i : Instr),
    i = .cut ∨ i = .revert ∨ i = .revertLast ∨ i = .force ∨ i = .commit ∨ i = .pause ∨ i = .resume ∨ i = .queryCircuit ∨
      i = .queryStation ∨ i = .takeReports ∨ i = .restart →
    s.stationState.onStar = false ∨ 8 ≤ s.replyQueue.length ∨ s.restartTaken = true ∨ s.orderQueue = [] →
    exec i s = .next s) ∧
  (∀ (s : State) (o : Order) (rest : List Order), s.headIs o rest → o.value = 10 → o.kind = 0 ∨ s.stationState = .configBad →
    ∃ t, exec .restart s = .next t ∧ t = { s with
        restartTaken := true, orderQueue := rest, replyQueue := s.replyQueue ++ [⟨o.source, o.tag, 10, .done, none, []⟩] } ∧
      ∀ i, i = .cut ∨ i = .revert ∨ i = .revertLast ∨ i = .force ∨ i = .commit ∨ i = .pause ∨ i = .resume ∨
        i = .queryCircuit ∨ i = .queryStation ∨ i = .takeReports ∨ i = .restart → exec i t = .next t)

/-- R142, R143, R144: in CONFIG_BAD every order but QUERY STATION and RESTART is refused NOT_CONFIGURED; in LISTENING and
OPERATING an order whose operand is of a kind it does not take or out of range is refused BAD_OPERAND, and so is a QUERY
STATION in CONFIG_BAD. Nothing else changes but the count of free values. The reply carries the layout its order and operand
have: one circuit, the four items of a group with none named, no circuit for LAST, nothing for PAUSE and RESUME, no report
for TAKE REPORTS of any operand kind (DEDUCED, log 13). Where the manual states no layout the payload is a free value of at
most 56 bytes (DESIGN CHOICE, log 10). R141, R143, R158, Table 12.4: an order whose value is none of 1 to 10 is BAD_OPERAND,
or NOT_CONFIGURED in CONFIG_BAD. It has no command of its own: it is taken and refused in front of the order behind it by
that order's command, and wherever waiting orders are taken; with none behind it an order command leaves it (DESIGN CHOICE,
log 9). Its payload is free (log 10). -/
def Obligations.OrdersRefusedAsAWhole : Prop :=
  (∀ (s : State) (i : Instr) (o : Order) (rest : List Order) (reason : Reason), s.headIs o rest →
    (i = .cut ∧ o.value = 1) ∨ (i = .revert ∧ o.value = 2 ∧ o.kind ≠ 4) ∨ (i = .revertLast ∧ o.value = 2 ∧ o.kind = 4) ∨
      (i = .force ∧ o.value = 3) ∨ (i = .commit ∧ o.value = 4) ∨ (i = .pause ∧ o.value = 5) ∨ (i = .resume ∧ o.value = 6) ∨
      (i = .queryCircuit ∧ o.value = 7) ∨ (i = .queryStation ∧ o.value = 8) ∨ (i = .takeReports ∧ o.value = 9) ∨
      (i = .restart ∧ o.value = 10) →
    (s.stationState = .configBad ∧ o.value ≠ 8 ∧ o.value ≠ 10 ∧ reason = .notConfigured) ∨
      ((s.stationState = .configBad → o.value = 8) ∧ reason = .badOperand ∧
        ((o.value = 1 ∧ o.kind ≠ 1 ∧ (o.kind ≠ 2 ∨ 7 < o.operand) ∧ o.kind ≠ 3) ∨
          (o.value = 2 ∧ o.kind ≠ 1 ∧ (o.kind ≠ 2 ∨ 7 < o.operand) ∧ o.kind ≠ 3 ∧ o.kind ≠ 4) ∨
          (o.value = 3 ∧ o.kind ≠ 1) ∨ (o.value = 4 ∧ o.kind ≠ 1 ∧ (o.kind ≠ 2 ∨ 7 < o.operand) ∧ o.kind ≠ 3) ∨
          ((o.value = 5 ∨ o.value = 6 ∨ o.value = 10) ∧ o.kind ≠ 0) ∨ (o.value = 7 ∧ (o.kind ≠ 1 ∨ 1 < o.segment)) ∨
          (o.value = 8 ∧ (o.kind ≠ 5 ∨ 3 < o.operand ∨ (o.operand = 2 ∧ 14 < o.segment) ∨ (o.operand = 3 ∧ 1 < o.segment) ∨
            ((o.operand = 0 ∨ o.operand = 1) ∧ 0 < o.segment))) ∨
          (o.value = 9 ∧ (o.kind ≠ 6 ∨ o.operand = 0 ∨ 4 < o.operand)))) →
    ∃ t payload, exec i s = .next t ∧ s.answered o rest .refused (some reason) payload t ∧
      { t with orderQueue := s.orderQueue, replyQueue := s.replyQueue, freeUsed := s.freeUsed } = s ∧ payload.length ≤ 56 ∧
      (o.kind = 1 → 1 ≤ o.value → o.value ≤ 4 → payload = circuitReply o.operand) ∧
      (o.kind = 2 ∨ o.kind = 3 → o.value = 1 ∨ o.value = 2 ∨ o.value = 4 → payload = [0, 0, 0, 0]) ∧
      (o.kind = 4 → o.value = 2 → payload = [0, 0]) ∧ (o.kind = 0 → o.value = 5 ∨ o.value = 6 → payload = []) ∧
      (o.kind = 1 → o.value = 7 → payload.take 2 = circuitReply o.operand) ∧ (o.value = 9 → payload = [])) ∧
  (∀ (s : State) (o : Order) (rest : List Order), s.headIs o rest → o.value = 0 ∨ 10 < o.value →
    ∃ (v : State) (payload : List Byte),
      s.answered o rest .refused (some (if s.stationState = .configBad then .notConfigured else .badOperand)) payload v ∧
      { v with orderQueue := s.orderQueue, replyQueue := s.replyQueue, freeUsed := s.freeUsed } = s ∧ payload.length ≤ 56 ∧
      s.takeAll = v.takeAll ∧
      (∀ (p : Order) (more : List Order) (row : OrderRow), rest = p :: more → p.row = some row → s.replyQueue.length < 7 →
        exec (commandOf row) s = exec (commandOf row) v) ∧
      (rest = [] → ∀ row, exec (commandOf row) s = .next s))

/-- R9, R145: a CUT naming a circuit. The first test that fails gives the reason, and the circuit is not touched; in
LISTENING the order is refused NOT_READY, until the frame of R138's fourth boundary (DEDUCED, log 40). R8, R9, R107, R145: a
CUT that passes every test brings its circuit into BRIDGING in the emptiest row. R160: the reply carries the circuit number
and a presence byte of 80H (section 12.3; DEDUCED, log 13). -/
def Obligations.CutTestsAndEntry : Prop :=
  (∀ (s : State) (o : Order) (rest : List Order) (reason : Reason), s.headIs o rest → o.value = 1 → o.kind = 1 →
    o.operand < 256 →
    (s.stage = .listening ∧ reason = .notReady) ∨
      (s.stage = .operating ∧
        (((s.circuit o.operand).binding = none ∧ reason = .notBound) ∨
          (∃ b, (s.circuit o.operand).binding = some b ∧
            (((s.circuit o.operand).state ≠ .copper ∧ reason = .wrongState) ∨
              ((s.circuit o.operand).state = .copper ∧
                (((s.circuit o.operand).releaseCells ≠ 0 ∧ reason = .busy) ∨
                  ((s.circuit o.operand).releaseCells = 0 ∧
                    (((∀ w, s.windows[b.window]? = some w → w.matched = false) ∧ reason = .mismatch) ∨
                      ((∃ w, s.windows[b.window]? = some w ∧ w.matched = true) ∧
                        (((s.peer b.peer).state ≠ .present ∧ reason = .peerAbsent) ∨
                          ((s.peer b.peer).state = .present ∧ (s.circuit o.operand).calendarRow = none ∧
                            (∀ k, k < 40 → 6 ≤ (s.trunk.row k).length) ∧ reason = .laneFull))))))))))) →
    ∃ t, exec .cut s = .next t ∧ s.answered o rest .refused (some reason) (circuitReply o.operand) t ∧
      s.sameButQueues t ∧ s.trunk.unchanged t.trunk) ∧
  (∀ (s : State) (o : Order) (rest : List Order) (b : Binding) (w : Window) (k : Nat), s.headIs o rest → o.value = 1 →
    o.kind = 1 → o.operand < 256 → s.stage = .operating → (s.circuit o.operand).binding = some b →
    (s.circuit o.operand).state = .copper → (s.circuit o.operand).releaseCells = 0 → s.windows[b.window]? = some w →
    w.matched = true → (s.peer b.peer).state = .present → (s.circuit o.operand).calendarRow = none → k < 40 →
    (s.trunk.row k).length < 6 →
    (∀ j, j < 40 → (s.trunk.row k).length < (s.trunk.row j).length ∨
      ((s.trunk.row k).length = (s.trunk.row j).length ∧ k ≤ j)) →
    ∃ t, exec .cut s = .next t ∧ s.answered o rest .done none (circuitReply o.operand) t ∧ s.sameButQueues t ∧
      s.trunk.sameOthers o.operand t.trunk ∧ t.trunk.row k = s.trunk.row k ++ [o.operand] ∧
      (∀ j, j ≠ k → t.trunk.row j = s.trunk.row j) ∧ t.trunk.fallback = s.trunk.fallback ∧
      t.trunk.waitQueue = s.trunk.waitQueue ∧ s.trunk.sameReports t.trunk ∧
      (s.circuit o.operand).newlyBridging s.settings.params k (t.circuit o.operand))

/-- R16, R18, R26, R98, R146: a REVERT naming a circuit, by the circuit's state. R160: the reply carries the circuit number
and a presence byte of 80H (section 12.3; DEDUCED, log 13). An abandon that serves waiting circuits is in
RequestsAndServings. A REVERT that finds a hold standing at 0, its expiry not taken yet, is deferred like any other (DESIGN
CHOICE, log 47). -/
def Obligations.RevertByState : Prop :=
  ∀ (s : State) (o : Order) (rest : List Order), s.headIs o rest → o.value = 2 → o.kind = 1 → o.operand < 256 →
    s.stationState ≠ .configBad →
    (∀ reason, ((s.circuit o.operand).state = .vacant ∧ reason = .notBound) ∨
        ((s.circuit o.operand).state = .copper ∧ reason = .wrongState) ∨
        (((s.circuit o.operand).state = .committed ∨ (s.circuit o.operand).state = .held) ∧ reason = .noFallback) →
      ∃ t, exec .revert s = .next t ∧ s.answered o rest .refused (some reason) (circuitReply o.operand) t ∧
        s.sameButQueues t ∧ s.trunk.unchanged t.trunk) ∧
    ((s.circuit o.operand).state.beforeSplice = true → s.servesNone o.operand →
      ∃ t, exec .revert s = .next t ∧ s.answered o rest .done none (circuitReply o.operand) t ∧ s.sameButQueues t ∧
        s.trunk.sameOthers o.operand t.trunk ∧ (s.circuit o.operand).backOnCopper (t.circuit o.operand) ∧
        t.trunk.fallback = withoutRecord o.operand s.trunk.fallback ∧
        t.trunk.waitQueue = s.trunk.waitQueue.filter (fun d => decide (d ≠ o.operand)) ∧
        t.trunk.calendar = s.trunk.calendar ∧ s.trunk.sameReports t.trunk) ∧
    (∀ l, (s.circuit o.operand).state = .spliced → s.trunk.liveOf o.operand = some l →
      ∃ t, exec .revert s = .next t ∧ s.answered o rest .done none (circuitReply o.operand) t ∧ s.sameButQueues t ∧
        s.trunk.sameOthers o.operand t.trunk ∧ s.trunk.sameLists t.trunk ∧ s.trunk.sameReports t.trunk ∧
        (l.hold ≠ none → t.circuit o.operand = { s.circuit o.operand with deferredRevert := true }) ∧
        (l.hold = none → (t.circuit o.operand).state = .revertWait ∧ (t.circuit o.operand).deferredRevert = false ∧
          (t.circuit o.operand).splice.playOffset = (s.circuit o.operand).splice.playOffset ∧
          (t.circuit o.operand).align.offset = (s.circuit o.operand).align.offset)) ∧
    ((s.circuit o.operand).state = .revertWait →
      ∃ t, exec .revert s = .next t ∧ s.answered o rest .done none (circuitReply o.operand) t ∧ s.sameButQueues t ∧
        s.trunk.unchanged t.trunk) ∧
    ((s.circuit o.operand).state = .down →
      ∃ t, exec .revert s = .next t ∧ s.answered o rest .done none (circuitReply o.operand) t ∧ s.sameButQueues t ∧
        s.trunk.onlyRecord o.operand t.trunk ∧ (t.circuit o.operand).state = .copper ∧
        (t.circuit o.operand).legacyReleased = false ∧
        (t.circuit o.operand).releaseCells = (s.circuit o.operand).releaseCells ∧
        (t.circuit o.operand).calendarRow = (s.circuit o.operand).calendarRow ∧
        (t.circuit o.operand).splice.switchPoint = (s.circuit o.operand).splice.switchPoint)

/-- R18, R104, R146: a REVERT naming LAST acts on the circuit of the LIVE record nearest the tail, past any PENDING one, as a
REVERT naming that circuit does: with the splice hold running its deferred-revert flag is set, with the hold expired it
enters REVERT_WAIT, and in REVERT_WAIT nothing happens. Each is answered DONE with that circuit. Without a LIVE record the
order is refused NO_FALLBACK with no circuit, and nothing changes. R160: the payload is the circuit number and 80H, or two
zeros where no circuit is named (section 12.3; DEDUCED, log 13). A hold standing at 0, its expiry not taken yet, counts as
running (DESIGN CHOICE, log 47). The operand byte may hold any value (DESIGN CHOICE, log 48). -/
def Obligations.RevertLastSelectsNewestLive : Prop :=
  ∀ (s : State) (o : Order) (rest : List Order), s.headIs o rest → o.value = 2 → o.kind = 4 → s.stationState ≠ .configBad →
    ((∀ f ∈ s.trunk.fallback, f.live = none) →
      ∃ t, exec .revertLast s = .next t ∧ s.answered o rest .refused (some .noFallback) [0, 0] t ∧ s.sameButQueues t ∧
        s.trunk.unchanged t.trunk) ∧
    ∀ (before after : List FallbackRecord) (f : FallbackRecord) (l : LiveFields),
      s.trunk.fallback = before ++ f :: after → f.live = some l → (∀ g ∈ after, g.live = none) →
      (∀ g ∈ before, g.circuit ≠ f.circuit) → f.circuit < 256 →
      (s.circuit f.circuit).state = .spliced ∨ (s.circuit f.circuit).state = .revertWait →
      ∃ t, exec .revertLast s = .next t ∧ s.answered o rest .done none (circuitReply f.circuit) t ∧ s.sameButQueues t ∧
        s.trunk.sameOthers f.circuit t.trunk ∧ s.trunk.sameLists t.trunk ∧ s.trunk.sameReports t.trunk ∧
        ((s.circuit f.circuit).state = .spliced → l.hold ≠ none →
          t.circuit f.circuit = { s.circuit f.circuit with deferredRevert := true }) ∧
        ((s.circuit f.circuit).state = .spliced → l.hold = none →
          (t.circuit f.circuit).state = .revertWait ∧ (t.circuit f.circuit).deferredRevert = false) ∧
        ((s.circuit f.circuit).state = .revertWait → t.circuit f.circuit = s.circuit f.circuit)

/-- R20, R79, R89, R147: a FORCE. In SPLICE_WAIT it is a FORCED splice at the D that stands, with the activity-gap flag set
when the sample delivered in the frame is active; in REVERT_WAIT it is a FORCED reverse splice; a VACANT circuit is refused
NOT_BOUND and any other state WRONG_STATE. R19, R22, R98, R147: a COMMIT naming a SPLICED circuit moves it to COMMITTED and
removes its record; a deferred revert is lost. A VACANT circuit is refused NOT_BOUND and any other state WRONG_STATE. R160:
the replies carry the circuit number and a presence byte of 80H (section 12.3; DEDUCED, log 13). A FORCE or COMMIT that
serves waiting circuits is in RequestsAndServings. -/
def Obligations.ForceAndCommitByState : Prop :=
  (∀ (s : State) (o : Order) (rest : List Order), s.headIs o rest → o.value = 3 → o.kind = 1 → o.operand < 256 →
    s.stationState ≠ .configBad →
    (∀ reason, ((s.circuit o.operand).state = .vacant ∧ reason = .notBound) ∨
        ((s.circuit o.operand).state ≠ .vacant ∧ (s.circuit o.operand).state ≠ .spliceWait ∧
          (s.circuit o.operand).state ≠ .revertWait ∧ reason = .wrongState) →
      ∃ t, exec .force s = .next t ∧ s.answered o rest .refused (some reason) (circuitReply o.operand) t ∧
        s.sameButQueues t ∧ s.trunk.unchanged t.trunk) ∧
    (∀ (b : Binding) (off : Word) (d : Nat) (smp : Byte), (s.circuit o.operand).state = .spliceWait →
      (s.circuit o.operand).binding = some b → (s.circuit o.operand).align.offset = some off →
      (s.circuit o.operand).splice.deficit = some d → (∃ f, s.trunk.recordOf o.operand = some f) →
      s.paused = true ∨ s.trunk.waitQueue = [] ∨ s.settings.policy = .hold →
      ((s.circuit o.operand).path.given = true ∧ smp = (s.circuit o.operand).path.lastSample) ∨
        ((s.circuit o.operand).path.given = false ∧ (s.circuit o.operand).path.source = .copper ∧
          smp = (slotOf s.legacyIn o.operand).sample) →
      ∃ t, exec .force s = .next t ∧ s.answered o rest .done none (circuitReply o.operand) t ∧ s.sameButQueues t ∧
        s.trunk.sameOthers o.operand t.trunk ∧ t.trunk.waitQueue = s.trunk.waitQueue ∧ t.trunk.calendar = s.trunk.calendar ∧
        (t.circuit o.operand).state = .spliced ∧
        (t.circuit o.operand).splice.playOffset = some (off + BitVec.ofNat 16 d) ∧
        (t.circuit o.operand).splice.deficit = some d ∧ (t.circuit o.operand).splice.lastKind = some (.splice .forced) ∧
        (t.circuit o.operand).splice.flags = ⟨false, false, isActive s.settings smp⟩ ∧
        s.trunk.entered (aboutCircuit s.cycleCount o.operand b .spliced (some (.splice .forced)) (some d)
          ⟨false, false, isActive s.settings smp⟩) t.trunk) ∧
    (∀ b : Binding, (s.circuit o.operand).state = .revertWait → (s.circuit o.operand).binding = some b →
      s.servesNone o.operand →
      ∃ t, exec .force s = .next t ∧ s.answered o rest .done none (circuitReply o.operand) t ∧ s.sameButQueues t ∧
        s.trunk.sameOthers o.operand t.trunk ∧ (s.circuit o.operand).backOnCopper (t.circuit o.operand) ∧
        (t.circuit o.operand).splice.lastKind = some (.reverse .forced) ∧
        t.trunk.fallback = withoutRecord o.operand s.trunk.fallback ∧ t.trunk.waitQueue = s.trunk.waitQueue ∧
        t.trunk.calendar = s.trunk.calendar ∧
        s.trunk.entered (aboutCircuit s.cycleCount o.operand b .reverted (some (.reverse .forced))
          ((s.circuit o.operand).judgeReverse s.settings (s.frame + 1)).2
          ((s.circuit o.operand).judgeReverse s.settings (s.frame + 1)).1) t.trunk)) ∧
  (∀ (s : State) (o : Order) (rest : List Order), s.headIs o rest → o.value = 4 → o.kind = 1 → o.operand < 256 →
    s.stationState ≠ .configBad →
    (∀ reason, ((s.circuit o.operand).state = .vacant ∧ reason = .notBound) ∨
        ((s.circuit o.operand).state ≠ .vacant ∧ (s.circuit o.operand).state ≠ .spliced ∧ reason = .wrongState) →
      ∃ t, exec .commit s = .next t ∧ s.answered o rest .refused (some reason) (circuitReply o.operand) t ∧
        s.sameButQueues t ∧ s.trunk.unchanged t.trunk) ∧
    (∀ b : Binding, (s.circuit o.operand).state = .spliced → (s.circuit o.operand).binding = some b →
      (s.circuit o.operand).legacyReleased = false → s.paused = true ∨ s.trunk.waitQueue = [] →
      ∃ t, exec .commit s = .next t ∧ s.answered o rest .done none (circuitReply o.operand) t ∧ s.sameButQueues t ∧
        s.trunk.sameOthers o.operand t.trunk ∧ t.trunk.fallback = withoutRecord o.operand s.trunk.fallback ∧
        t.trunk.waitQueue = s.trunk.waitQueue ∧ t.trunk.calendar = s.trunk.calendar ∧
        (t.circuit o.operand).state = .committed ∧ (t.circuit o.operand).deferredRevert = false ∧
        (t.circuit o.operand).splice.playOffset = (s.circuit o.operand).splice.playOffset ∧
        (t.circuit o.operand).align.offset = (s.circuit o.operand).align.offset ∧
        (t.circuit o.operand).legacyReleased = decide ((s.circuit o.operand).peerPhase = some .committed) ∧
        (s.trunk.reports.length < 64 → ∃ more, t.trunk.reports = s.trunk.reports ++
          aboutCircuit s.cycleCount o.operand b .committed none none ⟨false, false, false⟩ :: more)))

/-- R143, R144, R145 to R147: a group order acts on the circuits of the window, or on every bound circuit, in ascending
number, each on what those before it left. It is DONE when every circuit named was accepted, REFUSED when none was, and
PARTIAL otherwise; the reply carries the number named, the number accepted and the lowest refused circuit with its reason. A
window that is INVALID names none and is refused NOT_BOUND. In LISTENING, until the frame of R138's fourth boundary (log 40),
a CUT is refused NOT_READY for every circuit it names, with none accepted. The bytes of the four items, with a presence byte
of 80H and zeros where the circuit is absent, are DEDUCED (log 13). A count of 256 does not fit its byte and is left out here
(log 11). With an order naming all the operand byte may hold any value (DESIGN CHOICE, log 48). -/
def Obligations.GroupOrdersAnswered : Prop :=
  ∀ (s : State) (i : Instr) (o : Order) (rest : List Order) (act : Ctx → Nat → Trunk → Trunk × Option Reason) (cs : List Nat),
    s.headIs o rest →
    ((i = .cut ∧ o.value = 1 ∧ act = Trunk.cutOne ∧ s.stage = .operating) ∨
        (i = .revert ∧ o.value = 2 ∧ act = Trunk.revertOne ∧ s.stationState ≠ .configBad) ∨
        (i = .commit ∧ o.value = 4 ∧ act = Trunk.commitOne ∧ s.stationState ≠ .configBad) →
      (((o.kind = 3 ∧ cs = (List.range 256).filter (fun c => (s.circuit c).binding.isSome)) ∨
          (o.kind = 2 ∧ o.operand ≤ 7 ∧ ∃ w, s.windows[o.operand]? = some w ∧ w.validity = .valid ∧
            cs = (List.range w.length).map (fun k => w.localBase + k))) → cs.length < 256 →
        ∃ t res outcome reason payload, exec i s = .next t ∧ s.answered o rest outcome reason payload t ∧ s.sameButQueues t ∧
          res.map Prod.fst = cs ∧ t.trunk = cs.foldl (fun u c => (act s.ctx c u).1) s.trunk ∧
          (∀ j c, cs[j]? = some c →
            res[j]? = some (c, (act s.ctx c ((cs.take j).foldl (fun u c => (act s.ctx c u).1) s.trunk)).2)) ∧
          (outcome = .done ↔ ∀ e ∈ res, e.2 = none) ∧
          (outcome = .refused ↔ res ≠ [] ∧ ∀ e ∈ res, e.2 ≠ none) ∧
          (outcome = .done → reason = none ∧
            payload = [BitVec.ofNat 8 cs.length, BitVec.ofNat 8 cs.length, 0, 0]) ∧
          (∀ (before after : List (Nat × Option Reason)) (c : Nat) (r : Reason), res = before ++ (c, some r) :: after →
            (∀ e ∈ before, e.2 = none) → reason = some r ∧
              payload = [BitVec.ofNat 8 cs.length, BitVec.ofNat 8 (res.filter (fun e => e.2.isNone)).length,
                BitVec.ofNat 8 c, 0x80])) ∧
      (o.kind = 2 → (∃ w, s.windows[o.operand]? = some w ∧ w.validity ≠ .valid) → o.operand ≤ 7 →
        ∃ t, exec i s = .next t ∧ s.answered o rest .refused (some .notBound) [0, 0, 0, 0] t ∧ s.sameButQueues t ∧
          s.trunk.unchanged t.trunk)) ∧
    (i = .cut → o.value = 1 → s.stage = .listening →
      (((o.kind = 3 ∧ cs = (List.range 256).filter (fun c => (s.circuit c).binding.isSome)) ∨
          (o.kind = 2 ∧ o.operand ≤ 7 ∧ ∃ w, s.windows[o.operand]? = some w ∧ w.validity = .valid ∧
            cs = (List.range w.length).map (fun k => w.localBase + k))) → cs.length < 256 →
        ∃ t payload, exec i s = .next t ∧ s.answered o rest .refused (some .notReady) payload t ∧ s.sameButQueues t ∧
          s.trunk.unchanged t.trunk ∧ (cs = [] → payload = [0, 0, 0, 0]) ∧
          ∀ c more, cs = c :: more → payload = [BitVec.ofNat 8 cs.length, 0, BitVec.ofNat 8 c, 0x80]) ∧
      (o.kind = 2 → (∃ w, s.windows[o.operand]? = some w ∧ w.validity ≠ .valid) → o.operand ≤ 7 →
        ∃ t, exec i s = .next t ∧ s.answered o rest .refused (some .notReady) [0, 0, 0, 0] t ∧ s.sameButQueues t ∧
          s.trunk.unchanged t.trunk))

/-- R102, R148: PAUSE sets the pause flag and RESUME clears it; each is DONE, whether or not the flag changed. A RESUME that
clears the flag serves the waiting circuits while the list has room, and in a full list under ROLL as a record that becomes
LIVE does. That the two replies carry no payload is DEDUCED (log 13). The operand byte may hold any value (DESIGN CHOICE, log
48). -/
def Obligations.PauseAndResume : Prop :=
  ∀ (s : State) (o : Order) (rest : List Order), s.headIs o rest → o.kind = 0 → s.stationState ≠ .configBad →
    (o.value = 5 → exec .pause s = .next { s with
      paused := true, orderQueue := rest, replyQueue := s.replyQueue ++ [⟨o.source, o.tag, 5, .done, none, []⟩] }) ∧
    (o.value = 6 → s.paused = false ∨ s.trunk.waitQueue = [] → exec .resume s = .next { s with
      paused := false, orderQueue := rest, replyQueue := s.replyQueue ++ [⟨o.source, o.tag, 6, .done, none, []⟩] }) ∧
    (o.value = 6 → s.paused = true →
      ∃ t, exec .resume s = .next t ∧ t.paused = false ∧ s.answered o rest .done none [] t ∧
        (s.trunk.fallback.length < 8 → t.trunk = s.trunk.serve { s.ctx with paused := false }) ∧
        (8 ≤ s.trunk.fallback.length → s.settings.policy = .roll →
          t.trunk = s.trunk.serveLive { s.ctx with paused := false }) ∧
        (8 ≤ s.trunk.fallback.length → s.settings.policy = .hold ∨ (∀ f ∈ s.trunk.fallback, f.live = none) →
          t.trunk = s.trunk) ∧
        { t with orderQueue := s.orderQueue, replyQueue := s.replyQueue, trunk := s.trunk, paused := true } = s)

/-- R148, R156: TAKE REPORTS with count n removes the min(n, held) oldest reports and carries them, oldest first, eleven
bytes each by the fields of Table 12.5: kind code, presence and flag bits, circuit, station, variant code, detail and time,
an absent item's bytes as 0 (a bit that the table does not assign is 0: DESIGN CHOICE, log 44); the reports behind close up
and nothing else changes, the last reported kinds and the overflow count included. In CONFIG_BAD it is refused NOT_CONFIGURED
and the queue keeps its reports; that the refused reply carries no report and so no byte is DEDUCED (log 13). -/
def Obligations.TakeReportsDrains : Prop :=
  ∀ (s : State) (o : Order) (rest : List Order), s.headIs o rest → o.value = 9 → o.kind = 6 → 1 ≤ o.operand → o.operand ≤ 4 →
    (s.stationState ≠ .configBad → ∃ t payload, exec .takeReports s = .next t ∧ s.answered o rest .done none payload t ∧ s.sameButQueues t ∧
      { t.trunk with reports := s.trunk.reports } = s.trunk ∧
      s.trunk.reports = s.trunk.reports.take (min o.operand s.trunk.reports.length) ++ t.trunk.reports ∧
      t.trunk.reports.length = s.trunk.reports.length - min o.operand s.trunk.reports.length ∧
      payload.length = 11 * min o.operand s.trunk.reports.length ∧
      ∀ j r, j < o.operand → s.trunk.reports[j]? = some r →
        (payload.drop (11 * j)).take 11 = r.bytes ∧ r.laidOutAs ((payload.drop (11 * j)).take 11)) ∧
    (s.stationState = .configBad → ∃ t, exec .takeReports s = .next t ∧
      s.answered o rest .refused (some .notConfigured) [] t ∧ s.trunk.unchanged t.trunk)

/-- R91, R150, R159, R160, Tables 12.8 and 12.9: a QUERY CIRCUIT changes no circuit and carries the record in its two
segments. A VACANT circuit is refused NOT_BOUND, and its record is carried all the same. A hold remaining that has reached 0
and is about to become absent is shown as absent (DEDUCED, log 29). The bits above the delivered supervision are 0 (DESIGN
CHOICE, log 44). R116, R131, R139, R151, R159, R160, Tables 12.6, 12.10, 12.11 and 12.12: a QUERY STATION changes nothing and
carries the part and the segment it names, in CONFIG_BAD too. Each window of WINDOWS stands as the four bytes of its digest
entry, whose bit 7 is the valid flag, with its validity code and a byte 1 or 0 for the matched flag behind it: DEDUCED (log
14). The station state is the one whose rules hold in the frame (log 40). Bits that no table assigns are 0 (DESIGN CHOICE,
log 44). FALLBACK: the presence bits of each record place, from bit 7 of the first byte and after the bit of the queue head in
segment 0, say which of its splice frame, settle remaining and hold remaining are present; the bits of a PENDING record and of
a place beyond the record count are clear, and such a place is nine bytes of 0. In every segment the presence bits left over
are 0, and the bytes of an absent item are 0. -/
def Obligations.QueriesCarryRecords : Prop :=
  (∀ (s : State) (o : Order) (rest : List Order) (r : Circuit), s.headIs o rest → o.value = 7 → o.kind = 1 → o.segment ≤ 1 →
    o.operand < 256 → s.stationState ≠ .configBad → r = s.circuit o.operand → r.inRange →
    ∃ t payload, exec .queryCircuit s = .next t ∧
      s.answered o rest (if r.state = .vacant then .refused else .done) (if r.state = .vacant then some .notBound else none)
        payload t ∧ { t with orderQueue := s.orderQueue, replyQueue := s.replyQueue } = s ∧
      payload[0]? = some (BitVec.ofNat 8 o.operand) ∧ payload[1]? = some 0x80 ∧
      (o.segment = 0 → payload.length = 35 ∧
        (byteAt payload 2).getLsbD 7 = r.binding.isSome ∧ (byteAt payload 2).getLsbD 6 = r.align.obase.isSome ∧
        (byteAt payload 2).getLsbD 5 = r.lowestOffset.isSome ∧
        (byteAt payload 2).getLsbD 4 = r.align.offset.isSome ∧ (byteAt payload 2).getLsbD 3 = r.splice.playOffset.isSome ∧
        (byteAt payload 2).getLsbD 2 = r.splice.deficit.isSome ∧ (byteAt payload 2).getLsbD 1 = r.splice.lastKind.isSome ∧
        (byteAt payload 2).getLsbD 0 = r.leadStats.1.isSome ∧ (byteAt payload 3).getLsbD 7 = r.leadStats.2.isSome ∧
        (byteAt payload 4).toNat = circuitStateCode r.state ∧
        (∀ b, r.binding = some b →
          (byteAt payload 5).toNat = b.window ∧ (byteAt payload 6).toNat = b.peer ∧ (byteAt payload 7).toNat = b.circuit) ∧
        (byteAt payload 8).getLsbD 0 = r.legacyReleased ∧ (byteAt payload 8).getLsbD 1 = r.deferredRevert ∧
        (byteAt payload 9).toNat = (match r.peerPhase with | some ph => phaseCode ph | none => 0) ∧
        (∀ x, r.align.obase = some x → fieldAt payload 10 2 = x.toNat) ∧ fieldAt payload 12 2 = r.align.candidates.size ∧
        (∀ x, r.lowestOffset = some x → fieldAt payload 14 2 = x.toNat) ∧
        (byteAt payload 16).toNat = r.align.contributing ∧ (∀ x, r.align.offset = some x → fieldAt payload 17 2 = x.toNat) ∧
        (byteAt payload 19).toNat = r.align.verifyMiss ∧ fieldAt payload 20 2 = r.align.idleQualify ∧
        fieldAt payload 22 2 = r.counters.mismatches ∧ (∀ x, r.splice.playOffset = some x → fieldAt payload 24 2 = x.toNat) ∧
        (∀ d, r.splice.deficit = some d → (byteAt payload 26).toNat = d) ∧
        (∀ k, r.splice.lastKind = some k → (byteAt payload 27).toNat = lastKindCode k) ∧
        (byteAt payload 28).getLsbD 0 = r.splice.flags.lostActivity ∧ (byteAt payload 28).getLsbD 1 = r.splice.flags.blind ∧
        (byteAt payload 28).getLsbD 2 = r.splice.flags.activityGap ∧ fieldAt payload 29 2 = r.splice.quietRun ∧
        (∀ m, r.leadStats.1 = some m → fieldAt payload 31 2 = (BitVec.ofInt 16 m).toNat) ∧
        (∀ m, r.leadStats.2 = some m → fieldAt payload 33 2 = (BitVec.ofInt 16 m).toNat) ∧
        (∀ i, i < 7 → (byteAt payload 3).getLsbD i = false) ∧ (∀ i, 2 ≤ i → (byteAt payload 8).getLsbD i = false) ∧
        (∀ i, 3 ≤ i → (byteAt payload 28).getLsbD i = false) ∧
        (r.binding = none → byteAt payload 5 = 0 ∧ byteAt payload 6 = 0 ∧ byteAt payload 7 = 0) ∧
        (r.align.obase = none → fieldAt payload 10 2 = 0) ∧ (r.lowestOffset = none → fieldAt payload 14 2 = 0) ∧
        (r.align.offset = none → fieldAt payload 17 2 = 0) ∧ (r.splice.playOffset = none → fieldAt payload 24 2 = 0) ∧
        (r.splice.deficit = none → byteAt payload 26 = 0) ∧ (r.splice.lastKind = none → byteAt payload 27 = 0) ∧
        (r.leadStats.1 = none → fieldAt payload 31 2 = 0) ∧ (r.leadStats.2 = none → fieldAt payload 33 2 = 0)) ∧
      (o.segment = 1 → payload.length = 32 ∧
        (byteAt payload 2).getLsbD 7 = r.calendarRow.isSome ∧ (byteAt payload 2).getLsbD 6 = (s.trunk.rowPlace o.operand).isSome ∧
        (byteAt payload 2).getLsbD 5 = decide (o.operand ∈ s.trunk.waitQueue) ∧
        (byteAt payload 2).getLsbD 4 = (s.trunk.recordOf o.operand).isSome ∧
        (byteAt payload 2).getLsbD 3 = (s.trunk.liveOf o.operand).isSome ∧
        ((byteAt payload 2).getLsbD 2 = true ↔ ∃ l h, s.trunk.liveOf o.operand = some l ∧ l.hold = some h ∧ 0 < h) ∧
        (byteAt payload 3).toNat = r.copperCode.toNat * 16 + r.fibreCode.toNat ∧
        (byteAt payload 4).toNat = r.deliveredCode.toNat ∧
        (byteAt payload 5).toNat = (match r.guard with | some g => g.left | none => 0) ∧
        fieldAt payload 6 2 = r.stateTimer ∧ fieldAt payload 8 2 = r.silence ∧ (byteAt payload 10).toNat = r.releaseCells ∧
        (∀ k, r.calendarRow = some k → (byteAt payload 11).toNat = k) ∧
        (∀ k before after, r.calendarRow = some k → s.trunk.row k = before ++ o.operand :: after → o.operand ∉ before →
          before.length < 6 → (byteAt payload 12).toNat = before.length + 1) ∧
        (∀ before after, s.trunk.waitQueue = before ++ o.operand :: after → o.operand ∉ before → before.length < 240 →
          (byteAt payload 13).toNat = before.length + 1) ∧
        (∀ f, s.trunk.recordOf o.operand = some f → (byteAt payload 14).toNat = (if f.live.isSome then 1 else 0)) ∧
        (∀ l, s.trunk.liveOf o.operand = some l → l.settle ≤ 120000 → fieldAt payload 15 3 = l.settle) ∧
        (∀ l h, s.trunk.liveOf o.operand = some l → l.hold = some h → h ≤ 2000 → fieldAt payload 18 2 = h) ∧
        fieldAt payload 20 2 = r.counters.received ∧ fieldAt payload 22 2 = r.counters.late ∧
        fieldAt payload 24 2 = r.counters.early ∧ fieldAt payload 26 2 = r.counters.concealed ∧
        fieldAt payload 28 2 = r.counters.mismatches ∧ fieldAt payload 30 2 = r.counters.fills ∧
        (byteAt payload 2).getLsbD 1 = false ∧ (byteAt payload 2).getLsbD 0 = false ∧
        (r.calendarRow = none → byteAt payload 11 = 0) ∧ (s.trunk.rowPlace o.operand = none → byteAt payload 12 = 0) ∧
        (o.operand ∉ s.trunk.waitQueue → byteAt payload 13 = 0) ∧
        (s.trunk.recordOf o.operand = none → byteAt payload 14 = 0) ∧
        (s.trunk.liveOf o.operand = none → fieldAt payload 15 3 = 0 ∧ fieldAt payload 18 2 = 0) ∧
        (∀ l, s.trunk.liveOf o.operand = some l → l.hold = none → fieldAt payload 18 2 = 0))) ∧
  (∀ (s : State) (o : Order) (rest : List Order), s.headIs o rest → o.value = 8 → o.kind = 5 → s.withinCapacity →
    (o.operand = 0 ∧ o.segment = 0) ∨ (o.operand = 1 ∧ o.segment = 0) ∨ (o.operand = 2 ∧ o.segment ≤ 14) ∨
      (o.operand = 3 ∧ o.segment ≤ 1) →
    (∀ p ds, (s.peer p).digest = some ds → ds.length = 8) →
    ∃ t payload, exec .queryStation s = .next t ∧ s.answered o rest .done none payload t ∧
      { t with orderQueue := s.orderQueue, replyQueue := s.replyQueue } = s ∧ payload.length ≤ 56 ∧
      (o.operand = 0 → payload.length = 21 ∧ (byteAt payload 0).getLsbD 7 = s.configFault.isSome ∧
        (byteAt payload 1).toNat = stationCode s.stage ∧ (∀ n, s.stationNo = some n → n < 256 → (byteAt payload 2).toNat = n) ∧
        (byteAt payload 3).toNat = causeCode s.startCause ∧ fieldAt payload 4 6 = s.cycleCount ∧
        (∀ e, s.configFault = some e → (byteAt payload 10).toNat = configFaultCode e) ∧
        (s.clampCount < 256 → (byteAt payload 11).toNat = s.clampCount) ∧
        fieldAt payload 12 2 = clampedField s.clampedItems % 65536 ∧
        (byteAt payload 14).toNat = s.trunk.placesHeld ∧ (byteAt payload 15).toNat = s.trunk.fullRows ∧
        (byteAt payload 16).toNat = ((List.range 15).filter (fun p => decide ((s.peer p).state = .present))).length ∧
        (byteAt payload 17).toNat = (s.windows.filter (fun w => w.matched)).length ∧
        (byteAt payload 18).toNat = s.trunk.reports.length ∧ (byteAt payload 19).toNat = s.trunk.reportOverflow ∧
        (byteAt payload 20).toNat = s.orderOverflow ∧
        (∀ i, i < 7 → (byteAt payload 0).getLsbD i = false) ∧ (s.configFault = none → byteAt payload 10 = 0)) ∧
      (o.operand = 1 → payload.length = 48 ∧ ∀ j w, s.windows[j]? = some w →
        (payload.drop (6 * j)).take 6 = digestBytes w.digest ++
          [BitVec.ofNat 8 (validityCode w.validity), if w.matched then 1 else 0]) ∧
      (o.operand = 2 → payload.length = 43 ∧ (byteAt payload 0).getLsbD 7 = (s.peer o.segment).cycles.isSome ∧
        (byteAt payload 0).getLsbD 6 = (s.peer o.segment).digest.isSome ∧
        (byteAt payload 1).toNat = peerStateCode (s.peer o.segment).state ∧ (byteAt payload 2).toNat = (s.peer o.segment).miss ∧
        (∀ n, (s.peer o.segment).cycles = some n → n < 281474976710656 → fieldAt payload 3 6 = n) ∧
        (byteAt payload 9).toNat = (s.peer o.segment).unbound ∧ (byteAt payload 10).toNat = (s.peer o.segment).headerErrors ∧
        (∀ ds, (s.peer o.segment).digest = some ds → ∀ j d, ds[j]? = some d →
          (payload.drop (11 + 4 * j)).take 4 = digestBytes d) ∧
        (∀ i, i < 6 → (byteAt payload 0).getLsbD i = false) ∧ ((s.peer o.segment).cycles = none → fieldAt payload 3 6 = 0) ∧
        ((s.peer o.segment).digest = none → payload.drop 11 = List.replicate 32 0)) ∧
      (o.operand = 3 → o.segment = 0 → payload.length = 43 ∧ (byteAt payload 0).getLsbD 7 = decide (s.trunk.waitQueue ≠ []) ∧
        (byteAt payload 2).toNat = policyCode s.settings.policy ∧
        (byteAt payload 3).toNat = (if s.paused then 1 else 0) ∧ (byteAt payload 4).toNat = s.trunk.fallback.length ∧
        (s.trunk.waitQueue.length ≤ 240 → (byteAt payload 5).toNat = s.trunk.waitQueue.length) ∧
        (∀ h ∈ s.trunk.waitQueue.head?, h < 256 → (byteAt payload 6).toNat = h) ∧
        (s.trunk.waitQueue = [] → byteAt payload 6 = 0) ∧ ∀ i, 13 ≤ i → i < 16 → presenceBit payload i = false) ∧
      (o.operand = 3 → o.segment = 1 → payload.length = 38 ∧ ∀ i, 12 ≤ i → i < 16 → presenceBit payload i = false) ∧
      (o.operand = 3 → ∀ (j i : Nat), j < 4 → i = (if o.segment = 0 then 1 else 0) + 3 * j →
        (presenceBit payload i = true ↔ ∃ f l, s.trunk.fallback[4 * o.segment + j]? = some f ∧ f.live = some l) ∧
        (presenceBit payload (i + 1) = true ↔ ∃ f l, s.trunk.fallback[4 * o.segment + j]? = some f ∧ f.live = some l) ∧
        (presenceBit payload (i + 2) = true ↔
          ∃ f l h, s.trunk.fallback[4 * o.segment + j]? = some f ∧ f.live = some l ∧ l.hold = some h ∧ 0 < h)) ∧
      (o.operand = 3 → ∀ (j pos : Nat), j < 4 → pos = (if o.segment = 0 then 7 else 2) + 9 * j →
        s.trunk.fallback[4 * o.segment + j]? = none → (payload.drop pos).take 9 = List.replicate 9 0) ∧
      (o.operand = 3 → ∀ (j pos : Nat) (f : FallbackRecord), j < 4 → s.trunk.fallback[4 * o.segment + j]? = some f →
        pos = (if o.segment = 0 then 7 else 2) + 9 * j → f.circuit < 256 →
        (byteAt payload pos).toNat = f.circuit ∧ (byteAt payload (pos + 1)).toNat = (if f.live.isSome then 1 else 0) ∧
        (f.live = none → (payload.drop (pos + 2)).take 7 = List.replicate 7 0) ∧
        ∀ l, f.live = some l → fieldAt payload (pos + 2) 2 = l.frame.toNat ∧
          (l.settle ≤ 120000 → fieldAt payload (pos + 4) 3 = l.settle) ∧
          (∀ h, l.hold = some h → h ≤ 2000 → fieldAt payload (pos + 7) 2 = h) ∧
          (l.hold = none → fieldAt payload (pos + 7) 2 = 0)))

/-! ## Reports -/

/-- R153, R154: a report about a bound circuit is dropped when its kind is the last one reported for the circuit; else it
goes to the tail of a queue with room and its kind is kept as the last one; with 64 reports held it is counted and the last
kind stays. A VACANT circuit takes none. -/
def Obligations.ReportsFilteredAndEntered : Prop :=
  ∀ (x : Ctx) (t : Trunk) (c : Nat) (k : ReportKind) (v : Option ReportVariant) (d : Option Nat) (fl : SpliceFlags), c < 256 →
    ((t.circuit c).binding = none → t.report x c k v d fl = t) ∧
    ∀ b, (t.circuit c).binding = some b →
      ((t.circuit c).lastReported = some k → t.report x c k v d fl = t) ∧
      ((t.circuit c).lastReported ≠ some k → t.reports.length < 64 →
        (t.report x c k v d fl).reports = t.reports ++ [⟨k, some c, some b.peer, x.cycles % 4294967296, v, d, fl⟩] ∧
        (t.report x c k v d fl).reportOverflow = t.reportOverflow ∧
        (t.report x c k v d fl).circuit c = { t.circuit c with lastReported := some k } ∧
        t.sameOthers c (t.report x c k v d fl) ∧ t.sameLists (t.report x c k v d fl)) ∧
      ((t.circuit c).lastReported ≠ some k → 64 ≤ t.reports.length →
        t.report x c k v d fl = { t with reportOverflow := min (t.reportOverflow + 1) 255 })

/-! ## Invariants -/

/-- The state after reset satisfies every invariant stated here. -/
def Obligations.ResetKeepsEveryInvariant : Prop :=
  State.reset.storesCanonical ∧ State.reset.recordsInRange ∧ State.reset.releasesInStep ∧ State.reset.withinCapacity ∧
    State.reset.placesAgree

/-- R46, R55, R106, R123: every store stays in its canonical form: addresses rising, and no entry that an unlisted address
would read as. That form is the model's own; the values it stands for are the manual's start values. -/
def Obligations.StepKeepsStoresCanonical : Prop :=
  ∀ s t : State, s.storesCanonical → step s = .next t → t.storesCanonical

/-- Tables 1.1 and 4.2, R1, R53, R57, R77, R110: the fields of the circuit records stay in their ranges, their bindings, the
deficit and the count of the fill frames (at most 224, the largest Dmax) among them, and the parameters stay in theirs. R22:
a circuit's legacy-released flag is set only while its state is COMMITTED, HELD or DOWN. -/
def Obligations.StepKeepsRecords : Prop :=
  (∀ s t : State, s.recordsInRange → step s = .next t → t.recordsInRange) ∧
  (∀ s t : State, s.releasesInStep → step s = .next t → t.releasesInStep)

/-- R29, R92, R93, R99, R106, R122, R123, R140, R142, R153: the order, reply and report queues, the fallback list, the rows
and the counts of the station stay within their capacities. The splice wait queue stays within its 240 places where the
records are in range and the queue agrees with the states, since every circuit in it holds one of the 240 places of the
calendar. -/
def Obligations.StepKeepsCapacities : Prop :=
  (∀ s t : State, s.withinCapacity → step s = .next t → t.withinCapacity) ∧
  ∀ s t : State, s.withinCapacity → s.recordsInRange → s.placesAgree → step s = .next t → t.trunk.waitQueue.length ≤ 240

/-- R5, R6, R93, R99, R106: a circuit is in the splice wait queue exactly when it is SPLICE_PENDING, has a PENDING record
exactly when it is SPLICE_WAIT and a LIVE one exactly when it is SPLICED or REVERT_WAIT, and has a calendar place exactly
when its state or its release cells ask for one; and before OPERATING, which begins in the frame of R138's fourth boundary
(log 40), it has none of these. -/
def Obligations.StepKeepsPlacesInStep : Prop :=
  ∀ s t : State, s.placesAgree → step s = .next t → t.placesAgree
end

