-- ==== Sys2Proof/Laws/Boot.lean ====
section
/-! SUPPORT. What the windows of a boot record can be: how many there are, and where a VALID one leads. -/

namespace Sys2Proof.Machine

/-- What validation keeps of a window of a record: its peer has four bits, and a VALID one ends by 256 at a station 0..14. -/
def Window.Sound (w : Window) : Prop :=
  w.peer < 16 ∧ (w.validity = .valid → w.peerBase + w.length ≤ 256 ∧ w.peer ≠ 15)

theorem Window.sound_of_validate {n : Nat} {before : List Window} {w : Window} (hp : w.peer < 16) :
    ({ w with validity := w.validate n before } : Window).Sound := by
  refine ⟨hp, fun h => ?_⟩
  simp only [Window.validate] at h
  split at h
  · cases h
  split at h
  · cases h
  split at h
  · cases h
  split at h
  · cases h
  rename_i h1 h2 h3
  exact ⟨by simpa using h2, fun h => h3 (Or.inl h)⟩

theorem validateAll_length (n : Nat) (before ws : List Window) :
    (validateAll n before ws).length = before.length + ws.length := by
  induction ws generalizing before with
  | nil => simp [validateAll]
  | cons w ws ih => rw [validateAll, ih]; simp; omega

theorem validateAll_sound (n : Nat) (before ws : List Window) (hb : ∀ w ∈ before, w.Sound) (hw : ∀ w ∈ ws, w.peer < 16) :
    ∀ w ∈ validateAll n before ws, w.Sound := by
  induction ws generalizing before with
  | nil => simpa [validateAll] using hb
  | cons w ws ih =>
    rw [validateAll]
    refine ih _ (fun v hv => ?_) (fun v hv => hw v (List.mem_cons_of_mem _ hv))
    rcases List.mem_append.mp hv with h | h
    · exact hb v h
    · rw [List.mem_singleton.mp h]; exact Window.sound_of_validate (hw w List.mem_cons_self)

theorem bootWindows_length (n : Nat) (m : List Byte) : (bootWindows n m).length = 8 := by
  simp [bootWindows, validateAll_length]

theorem bootWindows_sound (n : Nat) (m : List Byte) : ∀ w ∈ bootWindows n m, w.Sound := by
  refine validateAll_sound n [] _ (by simp) (fun w hw => ?_)
  obtain ⟨k, -, rfl⟩ := List.mem_map.mp hw
  simp only [bootWindow, digestEntryAt, lowNibble]
  omega

/-- R1, R136: a binding leads to a window 0..7, a station 0..14 and a circuit 0..255. -/
theorem bindingOf_range (n : Nat) (m : List Byte) (c : Nat) :
    ∀ b, bindingOf (bootWindows n m) c = some b → b.window ≤ 7 ∧ b.peer ≤ 14 ∧ b.circuit ≤ 255 := by
  intro b hb
  obtain ⟨e, he, rfl⟩ := Option.map_eq_some_iff.mp hb
  have hq := List.find?_some he
  obtain ⟨i, hi, rfl⟩ := List.mem_iff_getElem.mp (List.mem_of_find?_eq_some he)
  simp only [List.getElem_zipIdx, Nat.zero_add, List.length_zipIdx, Window.inForce, Window.holds, Bool.and_eq_true,
    decide_eq_true_eq, beq_iff_eq] at hq hi ⊢
  rw [bootWindows_length] at hi
  have hs := bootWindows_sound n m _ (List.getElem_mem (l := bootWindows n m) (n := i) (by rw [bootWindows_length]; exact hi))
  obtain ⟨h16, hv⟩ := hs
  obtain ⟨hl, hne⟩ := hv hq.1.2
  refine ⟨by omega, by omega, by omega⟩

end Sys2Proof.Machine
end

