-- ==== Sys2Proof/Laws/Tables.lean ====
section
/-! SUPPORT. The sparse stores: what a read finds after a write, and that every operation keeps the canonical form. -/

namespace Sys2Proof.Machine

variable {α : Type} [DecidableEq α]

omit [DecidableEq α] in
/-- An erased address reads as an unlisted one. -/
theorem Table.read_erase_same (d : α) (t : Table α) (k : Nat) : Table.read d (Table.erase t k) k = d := by
  induction t with
  | nil => rfl
  | cons e r ih =>
    by_cases h : e.1 = k
    · simpa [Table.erase, h] using ih
    · have h' : ¬ k = e.1 := fun q => h q.symm
      simpa [Table.erase, h, Table.read, h'] using ih

omit [DecidableEq α] in
/-- Erasing one address leaves every other as it was. -/
theorem Table.read_erase_ne (d : α) (t : Table α) {k j : Nat} (h : j ≠ k) :
    Table.read d (Table.erase t k) j = Table.read d t j := by
  induction t with
  | nil => rfl
  | cons e r ih =>
    by_cases he : e.1 = k
    · have : ¬ j = e.1 := by rw [he]; exact h
      simpa [Table.erase, he, Table.read, this, h] using ih
    · by_cases hj : j = e.1
      · simp [Table.erase, he, Table.read, hj]
      · simpa [Table.erase, he, Table.read, hj] using ih

omit [DecidableEq α] in
/-- An address that has no entry reads as an unlisted one. -/
theorem Table.read_of_not_listed (d : α) (t : Table α) (k : Nat) (h : ∀ e ∈ t, e.1 ≠ k) : Table.read d t k = d := by
  induction t with
  | nil => rfl
  | cons e r ih =>
    have h1 : ¬ k = e.1 := fun q => h e (by simp) q.symm
    simp only [Table.read, h1, if_false]
    exact ih (fun e' he' => h e' (by simp [he']))

omit [DecidableEq α] in
/-- An entry put in its place is read back, when no other entry stands at its address. -/
theorem Table.read_place_same (d : α) (k : Nat) (v : α) (t : Table α) (h : ∀ e ∈ t, e.1 ≠ k) :
    Table.read d (Table.place k v t) k = v := by
  induction t with
  | nil => simp [Table.place, Table.read]
  | cons e r ih =>
    have h1 : ¬ k = e.1 := fun q => h e (by simp) q.symm
    by_cases hk : k < e.1
    · simp [Table.place, hk, Table.read]
    · simp only [Table.place, hk, if_false, Table.read, h1]
      exact ih (fun e' he' => h e' (by simp [he']))

omit [DecidableEq α] in
/-- Putting an entry in its place leaves every other address as it was. -/
theorem Table.read_place_ne (d : α) {k j : Nat} (v : α) (t : Table α) (h : j ≠ k) :
    Table.read d (Table.place k v t) j = Table.read d t j := by
  induction t with
  | nil => simp [Table.place, Table.read, h]
  | cons e r ih =>
    by_cases hk : k < e.1
    · simp [Table.place, hk, Table.read, h]
    · by_cases hj : j = e.1
      · simp [Table.place, hk, Table.read, hj]
      · simpa [Table.place, hk, Table.read, hj] using ih

omit [DecidableEq α] in
theorem Table.erase_not_listed (t : Table α) (k : Nat) : ∀ e ∈ Table.erase t k, e.1 ≠ k := by
  intro e he
  simpa [Table.erase] using (List.mem_filter.mp he).2

/-- A read finds what was written. -/
@[simp] theorem Table.read_write_same (d : α) (t : Table α) (k : Nat) (v : α) :
    Table.read d (Table.write d t k v) k = v := by
  unfold Table.write
  split
  · rename_i h; rw [h]; exact Table.read_erase_same d t k
  · exact Table.read_place_same d k v _ (Table.erase_not_listed t k)

/-- A write leaves every other address as it was. -/
theorem Table.read_write_ne (d : α) (t : Table α) {k j : Nat} (v : α) (h : j ≠ k) :
    Table.read d (Table.write d t k v) j = Table.read d t j := by
  unfold Table.write
  split
  · exact Table.read_erase_ne d t h
  · rw [Table.read_place_ne d v _ h, Table.read_erase_ne d t h]

/-- A read after a write, at any address. -/
theorem Table.read_write (d : α) (t : Table α) (k j : Nat) (v : α) :
    Table.read d (Table.write d t k v) j = if j = k then v else Table.read d t j := by
  by_cases h : j = k
  · subst h; simp
  · simp [h, Table.read_write_ne d t v h]

/-! ## Building and mapping -/

/-- The entries of a built store. -/
theorem Table.mem_build (d : α) (n : Nat) (f : Nat → α) (e : Nat × α) :
    e ∈ Table.build d n f ↔ e.1 < n ∧ f e.1 = e.2 ∧ e.2 ≠ d := by
  unfold Table.build
  simp only [List.mem_filterMap, List.mem_range]
  constructor
  · rintro ⟨k, hk, h⟩
    by_cases hd : f k = d
    · simp [hd] at h
    · simp only [hd, if_false, Option.some.injEq] at h
      subst h; exact ⟨hk, rfl, hd⟩
  · rintro ⟨h1, h2, h3⟩
    refine ⟨e.1, h1, ?_⟩
    simp only [h2, h3, if_false]

omit [DecidableEq α] in
/-- Addresses below a bound, listed in rising order. -/
theorem Table.rising_of_pairwise (t : Table α) (h : t.Pairwise (fun a b => a.1 < b.1)) : Table.rising t = true := by
  induction t with
  | nil => rfl
  | cons e r ih =>
    cases r with
    | nil => rfl
    | cons e' r' =>
      rw [List.pairwise_cons] at h
      simp only [Table.rising, Bool.and_eq_true, decide_eq_true_eq]
      exact ⟨h.1 e' (by simp), ih h.2⟩

omit [DecidableEq α] in
theorem Table.pairwise_of_rising (t : Table α) (h : Table.rising t = true) : t.Pairwise (fun a b => a.1 < b.1) := by
  induction t with
  | nil => exact List.Pairwise.nil
  | cons e r ih =>
    cases r with
    | nil => simp
    | cons e' r' =>
      simp only [Table.rising, Bool.and_eq_true, decide_eq_true_eq] at h
      have hr := ih h.2
      refine List.pairwise_cons.mpr ⟨?_, hr⟩
      intro a ha
      rcases List.mem_cons.mp ha with rfl | ha
      · exact h.1
      · exact lt_trans h.1 ((List.pairwise_cons.mp hr).1 a ha)

omit [DecidableEq α] in
/-- With addresses rising, a listed entry is what a read of its address finds. -/
theorem Table.read_of_mem (d : α) (t : Table α) (h : t.Pairwise (fun a b => a.1 < b.1)) (e : Nat × α) (he : e ∈ t) :
    Table.read d t e.1 = e.2 := by
  induction t with
  | nil => simp at he
  | cons a r ih =>
    rw [List.pairwise_cons] at h
    rcases List.mem_cons.mp he with rfl | he
    · simp [Table.read]
    · have : ¬ e.1 = a.1 := by have := h.1 e he; omega
      simp only [Table.read, this, if_false]
      exact ih h.2 he

theorem Table.pairwise_build (d : α) (n : Nat) (f : Nat → α) : (Table.build d n f).Pairwise (fun a b => a.1 < b.1) := by
  unfold Table.build
  refine List.Pairwise.filterMap (R := (· < ·)) _ ?_ List.pairwise_lt_range
  intro a b hab x hx y hy
  simp only at hx hy
  split at hx <;> split at hy <;> simp_all
  rw [← hx, ← hy]; exact hab

/-- A built store reads as the function it was built from. -/
theorem Table.read_build (d : α) (n : Nat) (f : Nat → α) (k : Nat) :
    Table.read d (Table.build d n f) k = if k < n then f k else d := by
  by_cases hk : k < n ∧ f k ≠ d
  · have hm : (k, f k) ∈ Table.build d n f := (Table.mem_build d n f _).mpr ⟨hk.1, rfl, hk.2⟩
    simpa [hk.1] using Table.read_of_mem d _ (Table.pairwise_build d n f) _ hm
  · have hn : ∀ e ∈ Table.build d n f, e.1 ≠ k := by
      intro e he hek
      have := (Table.mem_build d n f e).mp he
      exact hk ⟨hek ▸ this.1, by rw [← hek, this.2.1]; exact this.2.2⟩
    rw [Table.read_of_not_listed d _ k hn]
    by_cases h : k < n
    · simp only [h, if_true]; by_contra hc; exact hk ⟨h, fun q => hc q.symm⟩
    · simp [h]

/-- A mapped store reads as the function of what the store held, when the function keeps the unlisted value. -/
theorem Table.read_mapEntries (d : α) (f : α → α) (hf : f d = d) (t : Table α)
    (h : t.Pairwise (fun a b => a.1 < b.1)) (k : Nat) :
    Table.read d (Table.mapEntries d f t) k = f (Table.read d t k) := by
  induction t with
  | nil => simp [Table.mapEntries, Table.read, hf]
  | cons e r ih =>
    rw [List.pairwise_cons] at h
    have ih := ih h.2
    have hlist : ∀ e' ∈ Table.mapEntries d f r, e.1 < e'.1 := by
      intro e' he'
      simp only [Table.mapEntries, List.mem_filterMap] at he'
      obtain ⟨a, ha, hx⟩ := he'
      split at hx
      · simp at hx
      · simp only [Option.some.injEq] at hx; rw [← hx]; exact h.1 a ha
    by_cases hk : k = e.1
    · subst hk
      by_cases hd : f e.2 = d
      · have : Table.mapEntries d f (e :: r) = Table.mapEntries d f r := by simp [Table.mapEntries, hd]
        rw [this, Table.read_of_not_listed d _ e.1 (fun e' he' => by have := hlist e' he'; omega)]
        simp [Table.read, hd]
      · have : Table.mapEntries d f (e :: r) = (e.1, f e.2) :: Table.mapEntries d f r := by simp [Table.mapEntries, hd]
        rw [this]; simp [Table.read]
    · by_cases hd : f e.2 = d
      · have : Table.mapEntries d f (e :: r) = Table.mapEntries d f r := by simp [Table.mapEntries, hd]
        rw [this, ih]; simp [Table.read, hk]
      · have : Table.mapEntries d f (e :: r) = (e.1, f e.2) :: Table.mapEntries d f r := by simp [Table.mapEntries, hd]
        rw [this]; simp only [Table.read, hk, if_false]; exact ih

/-! ## The canonical form is kept -/

/-- The canonical form, as a property of the entries. -/
theorem Table.wf_iff (d : α) (t : Table α) :
    Table.wf d t = true ↔ t.Pairwise (fun a b => a.1 < b.1) ∧ ∀ e ∈ t, e.2 ≠ d := by
  unfold Table.wf
  simp only [Bool.and_eq_true, List.all_eq_true, Bool.not_eq_true', decide_eq_false_iff_not]
  exact ⟨fun h => ⟨Table.pairwise_of_rising t h.1, h.2⟩, fun h => ⟨Table.rising_of_pairwise t h.1, h.2⟩⟩

@[simp] theorem Table.wf_nil (d : α) : Table.wf d ([] : Table α) = true := rfl

theorem Table.wf_erase (d : α) (t : Table α) (k : Nat) (h : Table.wf d t = true) :
    Table.wf d (Table.erase t k) = true := by
  rw [Table.wf_iff] at *
  exact ⟨h.1.filter _, fun e he => h.2 e (List.mem_filter.mp he).1⟩

omit [DecidableEq α] in
theorem Table.mem_place (k : Nat) (v : α) (t : Table α) (e : Nat × α) :
    e ∈ Table.place k v t ↔ e = (k, v) ∨ e ∈ t := by
  induction t with
  | nil => simp [Table.place]
  | cons a r ih =>
    by_cases hk : k < a.1
    · simp [Table.place, hk]
    · simp only [Table.place, hk, if_false, List.mem_cons, ih]; tauto

omit [DecidableEq α] in
theorem Table.pairwise_place (k : Nat) (v : α) (t : Table α) (h : t.Pairwise (fun a b => a.1 < b.1))
    (hk : ∀ e ∈ t, e.1 ≠ k) : (Table.place k v t).Pairwise (fun a b => a.1 < b.1) := by
  induction t with
  | nil => simp [Table.place]
  | cons a r ih =>
    rw [List.pairwise_cons] at h
    have hka : a.1 ≠ k := hk a (by simp)
    by_cases hlt : k < a.1
    · simp only [Table.place, hlt, if_true, List.pairwise_cons]
      refine ⟨?_, h⟩
      intro b hb
      rcases List.mem_cons.mp hb with rfl | hb
      · exact hlt
      · exact lt_trans hlt (h.1 b hb)
    · simp only [Table.place, hlt, if_false, List.pairwise_cons]
      refine ⟨?_, ih h.2 (fun e he => hk e (by simp [he]))⟩
      intro b hb
      rcases (Table.mem_place k v r b).mp hb with rfl | hb
      · show a.1 < k; omega
      · exact h.1 b hb

/-- A write keeps the canonical form. -/
theorem Table.wf_write (d : α) (t : Table α) (k : Nat) (v : α) (h : Table.wf d t = true) :
    Table.wf d (Table.write d t k v) = true := by
  unfold Table.write
  split
  · exact Table.wf_erase d t k h
  · rename_i hv
    have he := (Table.wf_iff d _).mp (Table.wf_erase d t k h)
    rw [Table.wf_iff]
    refine ⟨Table.pairwise_place k v _ he.1 (Table.erase_not_listed t k), ?_⟩
    intro e hm
    rcases (Table.mem_place k v _ e).mp hm with rfl | hm
    · exact hv
    · exact he.2 e hm

/-- A built store is canonical. -/
theorem Table.wf_build (d : α) (n : Nat) (f : Nat → α) : Table.wf d (Table.build d n f) = true := by
  rw [Table.wf_iff]
  exact ⟨Table.pairwise_build d n f, fun e he => ((Table.mem_build d n f e).mp he).2.2⟩

/-- Mapping the entries keeps the canonical form. -/
theorem Table.wf_mapEntries (d : α) (f : α → α) (t : Table α) (h : Table.wf d t = true) :
    Table.wf d (Table.mapEntries d f t) = true := by
  rw [Table.wf_iff] at *
  constructor
  · unfold Table.mapEntries
    refine List.Pairwise.filterMap (R := fun a b => a.1 < b.1) _ ?_ h.1
    intro a b hab x hx y hy
    simp only at hx hy
    split at hx <;> split at hy <;> simp_all
    rw [← hx, ← hy]; exact hab
  · intro e he
    simp only [Table.mapEntries, List.mem_filterMap] at he
    obtain ⟨a, _, hx⟩ := he
    split at hx
    · simp at hx
    · rename_i hd; simp only [Option.some.injEq] at hx; rw [← hx]; exact hd

/-- Equal reads of canonical stores are equal stores. -/
theorem Table.ext_of_read (d : α) (t u : Table α) (ht : Table.wf d t = true) (hu : Table.wf d u = true)
    (h : ∀ k, Table.read d t k = Table.read d u k) : t = u := by
  rw [Table.wf_iff] at ht hu
  have key : ∀ (t u : Table α), t.Pairwise (fun a b => a.1 < b.1) → u.Pairwise (fun a b => a.1 < b.1) →
      (∀ e ∈ t, e.2 ≠ d) → (∀ k, Table.read d t k = Table.read d u k) → ∀ e ∈ t, e ∈ u := by
    intro t u pt pu nt hr e he
    by_contra hc
    have h1 := Table.read_of_mem d t pt e he
    have h2 : Table.read d u e.1 = d ∨ ∃ e' ∈ u, e'.1 = e.1 := by
      by_cases hx : ∃ e' ∈ u, e'.1 = e.1
      · exact Or.inr hx
      · left; exact Table.read_of_not_listed d u e.1 (fun e' he' q => hx ⟨e', he', q⟩)
    rcases h2 with h2 | ⟨e', he', hk⟩
    · rw [hr e.1, h2] at h1; exact nt e he h1.symm
    · have h3 := Table.read_of_mem d u pu e' he'
      rw [hk, ← hr e.1, h1] at h3
      exact hc (by rw [show e = e' from Prod.ext hk.symm h3]; exact he')
  have hperm : ∀ e, e ∈ t ↔ e ∈ u :=
    fun e => ⟨key t u ht.1 hu.1 ht.2 h e, key u t hu.1 ht.1 hu.2 (fun k => (h k).symm) e⟩
  have nt : t.Nodup := ht.1.imp (fun hab => by intro q; rw [q] at hab; omega)
  have nu : u.Nodup := hu.1.imp (fun hab => by intro q; rw [q] at hab; omega)
  have hp : t.Perm u := (List.perm_ext_iff_of_nodup nt nu).mpr hperm
  refine List.Perm.eq_of_pairwise (le := fun a b => a.1 < b.1) ?_ ht.1 hu.1 hp
  intro a b _ _ h1 h2; omega

end Sys2Proof.Machine
end

