-- ==== Sys2Proof/Laws/State.lean ====
section
/-! SUPPORT. What each named update leaves as it was, item by item, so that no proof unfolds a record update. -/

namespace Sys2Proof.Machine

/-! ## The station: one lemma per item for each named update -/

@[simp] theorem State.onTrunk_stationState (f : Ctx → Trunk → Trunk) (s : State) : (s.onTrunk f).stationState = s.stationState := rfl
@[simp] theorem State.onTrunk_powerGood (f : Ctx → Trunk → Trunk) (s : State) : (s.onTrunk f).powerGood = s.powerGood := rfl
@[simp] theorem State.onTrunk_pinAsserted (f : Ctx → Trunk → Trunk) (s : State) : (s.onTrunk f).pinAsserted = s.pinAsserted := rfl
@[simp] theorem State.onTrunk_startCause (f : Ctx → Trunk → Trunk) (s : State) : (s.onTrunk f).startCause = s.startCause := rfl
@[simp] theorem State.onTrunk_stationNo (f : Ctx → Trunk → Trunk) (s : State) : (s.onTrunk f).stationNo = s.stationNo := rfl
@[simp] theorem State.onTrunk_configFault (f : Ctx → Trunk → Trunk) (s : State) : (s.onTrunk f).configFault = s.configFault := rfl
@[simp] theorem State.onTrunk_clampCount (f : Ctx → Trunk → Trunk) (s : State) : (s.onTrunk f).clampCount = s.clampCount := rfl
@[simp] theorem State.onTrunk_clampedItems (f : Ctx → Trunk → Trunk) (s : State) : (s.onTrunk f).clampedItems = s.clampedItems := rfl
@[simp] theorem State.onTrunk_bootReading (f : Ctx → Trunk → Trunk) (s : State) : (s.onTrunk f).bootReading = s.bootReading := rfl
@[simp] theorem State.onTrunk_listenLeft (f : Ctx → Trunk → Trunk) (s : State) : (s.onTrunk f).listenLeft = s.listenLeft := rfl
@[simp] theorem State.onTrunk_frameCount (f : Ctx → Trunk → Trunk) (s : State) : (s.onTrunk f).frameCount = s.frameCount := rfl
@[simp] theorem State.onTrunk_missCount (f : Ctx → Trunk → Trunk) (s : State) : (s.onTrunk f).missCount = s.missCount := rfl
@[simp] theorem State.onTrunk_cycleCount (f : Ctx → Trunk → Trunk) (s : State) : (s.onTrunk f).cycleCount = s.cycleCount := rfl
@[simp] theorem State.onTrunk_settings (f : Ctx → Trunk → Trunk) (s : State) : (s.onTrunk f).settings = s.settings := rfl
@[simp] theorem State.onTrunk_windows (f : Ctx → Trunk → Trunk) (s : State) : (s.onTrunk f).windows = s.windows := rfl
@[simp] theorem State.onTrunk_peers (f : Ctx → Trunk → Trunk) (s : State) : (s.onTrunk f).peers = s.peers := rfl
@[simp] theorem State.onTrunk_paused (f : Ctx → Trunk → Trunk) (s : State) : (s.onTrunk f).paused = s.paused := rfl
@[simp] theorem State.onTrunk_orderQueue (f : Ctx → Trunk → Trunk) (s : State) : (s.onTrunk f).orderQueue = s.orderQueue := rfl
@[simp] theorem State.onTrunk_orderOverflow (f : Ctx → Trunk → Trunk) (s : State) : (s.onTrunk f).orderOverflow = s.orderOverflow := rfl
@[simp] theorem State.onTrunk_replyQueue (f : Ctx → Trunk → Trunk) (s : State) : (s.onTrunk f).replyQueue = s.replyQueue := rfl
@[simp] theorem State.onTrunk_restartTaken (f : Ctx → Trunk → Trunk) (s : State) : (s.onTrunk f).restartTaken = s.restartTaken := rfl
@[simp] theorem State.onTrunk_todo (f : Ctx → Trunk → Trunk) (s : State) : (s.onTrunk f).todo = s.todo := rfl
@[simp] theorem State.onTrunk_switchIn (f : Ctx → Trunk → Trunk) (s : State) : (s.onTrunk f).switchIn = s.switchIn := rfl
@[simp] theorem State.onTrunk_legacyIn (f : Ctx → Trunk → Trunk) (s : State) : (s.onTrunk f).legacyIn = s.legacyIn := rfl
@[simp] theorem State.onTrunk_bearerPlaces (f : Ctx → Trunk → Trunk) (s : State) : (s.onTrunk f).bearerPlaces = s.bearerPlaces := rfl
@[simp] theorem State.onTrunk_servicePlace (f : Ctx → Trunk → Trunk) (s : State) : (s.onTrunk f).servicePlace = s.servicePlace := rfl
@[simp] theorem State.onTrunk_laneOut (f : Ctx → Trunk → Trunk) (s : State) : (s.onTrunk f).laneOut = s.laneOut := rfl
@[simp] theorem State.onTrunk_freeUsed (f : Ctx → Trunk → Trunk) (s : State) : (s.onTrunk f).freeUsed = s.freeUsed := rfl
@[simp] theorem State.onTrunk_pending (f : Ctx → Trunk → Trunk) (s : State) : (s.onTrunk f).pending = s.pending := rfl

@[simp] theorem State.onTrunk_trunk (f : Ctx → Trunk → Trunk) (s : State) : (s.onTrunk f).trunk = f s.ctx s.trunk := rfl

@[simp] theorem State.setPeer_stationState (p : Nat) (e : PeerEntry) (s : State) : (s.setPeer p e).stationState = s.stationState := rfl
@[simp] theorem State.setPeer_powerGood (p : Nat) (e : PeerEntry) (s : State) : (s.setPeer p e).powerGood = s.powerGood := rfl
@[simp] theorem State.setPeer_pinAsserted (p : Nat) (e : PeerEntry) (s : State) : (s.setPeer p e).pinAsserted = s.pinAsserted := rfl
@[simp] theorem State.setPeer_startCause (p : Nat) (e : PeerEntry) (s : State) : (s.setPeer p e).startCause = s.startCause := rfl
@[simp] theorem State.setPeer_stationNo (p : Nat) (e : PeerEntry) (s : State) : (s.setPeer p e).stationNo = s.stationNo := rfl
@[simp] theorem State.setPeer_configFault (p : Nat) (e : PeerEntry) (s : State) : (s.setPeer p e).configFault = s.configFault := rfl
@[simp] theorem State.setPeer_clampCount (p : Nat) (e : PeerEntry) (s : State) : (s.setPeer p e).clampCount = s.clampCount := rfl
@[simp] theorem State.setPeer_clampedItems (p : Nat) (e : PeerEntry) (s : State) : (s.setPeer p e).clampedItems = s.clampedItems := rfl
@[simp] theorem State.setPeer_bootReading (p : Nat) (e : PeerEntry) (s : State) : (s.setPeer p e).bootReading = s.bootReading := rfl
@[simp] theorem State.setPeer_listenLeft (p : Nat) (e : PeerEntry) (s : State) : (s.setPeer p e).listenLeft = s.listenLeft := rfl
@[simp] theorem State.setPeer_frameCount (p : Nat) (e : PeerEntry) (s : State) : (s.setPeer p e).frameCount = s.frameCount := rfl
@[simp] theorem State.setPeer_missCount (p : Nat) (e : PeerEntry) (s : State) : (s.setPeer p e).missCount = s.missCount := rfl
@[simp] theorem State.setPeer_cycleCount (p : Nat) (e : PeerEntry) (s : State) : (s.setPeer p e).cycleCount = s.cycleCount := rfl
@[simp] theorem State.setPeer_settings (p : Nat) (e : PeerEntry) (s : State) : (s.setPeer p e).settings = s.settings := rfl
@[simp] theorem State.setPeer_windows (p : Nat) (e : PeerEntry) (s : State) : (s.setPeer p e).windows = s.windows := rfl
@[simp] theorem State.setPeer_paused (p : Nat) (e : PeerEntry) (s : State) : (s.setPeer p e).paused = s.paused := rfl
@[simp] theorem State.setPeer_orderQueue (p : Nat) (e : PeerEntry) (s : State) : (s.setPeer p e).orderQueue = s.orderQueue := rfl
@[simp] theorem State.setPeer_orderOverflow (p : Nat) (e : PeerEntry) (s : State) : (s.setPeer p e).orderOverflow = s.orderOverflow := rfl
@[simp] theorem State.setPeer_replyQueue (p : Nat) (e : PeerEntry) (s : State) : (s.setPeer p e).replyQueue = s.replyQueue := rfl
@[simp] theorem State.setPeer_restartTaken (p : Nat) (e : PeerEntry) (s : State) : (s.setPeer p e).restartTaken = s.restartTaken := rfl
@[simp] theorem State.setPeer_trunk (p : Nat) (e : PeerEntry) (s : State) : (s.setPeer p e).trunk = s.trunk := rfl
@[simp] theorem State.setPeer_todo (p : Nat) (e : PeerEntry) (s : State) : (s.setPeer p e).todo = s.todo := rfl
@[simp] theorem State.setPeer_switchIn (p : Nat) (e : PeerEntry) (s : State) : (s.setPeer p e).switchIn = s.switchIn := rfl
@[simp] theorem State.setPeer_legacyIn (p : Nat) (e : PeerEntry) (s : State) : (s.setPeer p e).legacyIn = s.legacyIn := rfl
@[simp] theorem State.setPeer_bearerPlaces (p : Nat) (e : PeerEntry) (s : State) : (s.setPeer p e).bearerPlaces = s.bearerPlaces := rfl
@[simp] theorem State.setPeer_servicePlace (p : Nat) (e : PeerEntry) (s : State) : (s.setPeer p e).servicePlace = s.servicePlace := rfl
@[simp] theorem State.setPeer_laneOut (p : Nat) (e : PeerEntry) (s : State) : (s.setPeer p e).laneOut = s.laneOut := rfl
@[simp] theorem State.setPeer_freeUsed (p : Nat) (e : PeerEntry) (s : State) : (s.setPeer p e).freeUsed = s.freeUsed := rfl
@[simp] theorem State.setPeer_pending (p : Nat) (e : PeerEntry) (s : State) : (s.setPeer p e).pending = s.pending := rfl

@[simp] theorem State.sendLane_stationState (s : State) : (s.sendLane).stationState = s.stationState := rfl
@[simp] theorem State.sendLane_powerGood (s : State) : (s.sendLane).powerGood = s.powerGood := rfl
@[simp] theorem State.sendLane_pinAsserted (s : State) : (s.sendLane).pinAsserted = s.pinAsserted := rfl
@[simp] theorem State.sendLane_startCause (s : State) : (s.sendLane).startCause = s.startCause := rfl
@[simp] theorem State.sendLane_stationNo (s : State) : (s.sendLane).stationNo = s.stationNo := rfl
@[simp] theorem State.sendLane_configFault (s : State) : (s.sendLane).configFault = s.configFault := rfl
@[simp] theorem State.sendLane_clampCount (s : State) : (s.sendLane).clampCount = s.clampCount := rfl
@[simp] theorem State.sendLane_clampedItems (s : State) : (s.sendLane).clampedItems = s.clampedItems := rfl
@[simp] theorem State.sendLane_bootReading (s : State) : (s.sendLane).bootReading = s.bootReading := rfl
@[simp] theorem State.sendLane_listenLeft (s : State) : (s.sendLane).listenLeft = s.listenLeft := rfl
@[simp] theorem State.sendLane_frameCount (s : State) : (s.sendLane).frameCount = s.frameCount := rfl
@[simp] theorem State.sendLane_missCount (s : State) : (s.sendLane).missCount = s.missCount := rfl
@[simp] theorem State.sendLane_cycleCount (s : State) : (s.sendLane).cycleCount = s.cycleCount := rfl
@[simp] theorem State.sendLane_settings (s : State) : (s.sendLane).settings = s.settings := rfl
@[simp] theorem State.sendLane_windows (s : State) : (s.sendLane).windows = s.windows := rfl
@[simp] theorem State.sendLane_peers (s : State) : (s.sendLane).peers = s.peers := rfl
@[simp] theorem State.sendLane_paused (s : State) : (s.sendLane).paused = s.paused := rfl
@[simp] theorem State.sendLane_orderQueue (s : State) : (s.sendLane).orderQueue = s.orderQueue := rfl
@[simp] theorem State.sendLane_orderOverflow (s : State) : (s.sendLane).orderOverflow = s.orderOverflow := rfl
@[simp] theorem State.sendLane_replyQueue (s : State) : (s.sendLane).replyQueue = s.replyQueue := rfl
@[simp] theorem State.sendLane_restartTaken (s : State) : (s.sendLane).restartTaken = s.restartTaken := rfl
@[simp] theorem State.sendLane_trunk (s : State) : (s.sendLane).trunk = s.trunk := rfl
@[simp] theorem State.sendLane_todo (s : State) : (s.sendLane).todo = s.todo := rfl
@[simp] theorem State.sendLane_switchIn (s : State) : (s.sendLane).switchIn = s.switchIn := rfl
@[simp] theorem State.sendLane_legacyIn (s : State) : (s.sendLane).legacyIn = s.legacyIn := rfl
@[simp] theorem State.sendLane_bearerPlaces (s : State) : (s.sendLane).bearerPlaces = s.bearerPlaces := rfl
@[simp] theorem State.sendLane_servicePlace (s : State) : (s.sendLane).servicePlace = s.servicePlace := rfl
@[simp] theorem State.sendLane_freeUsed (s : State) : (s.sendLane).freeUsed = s.freeUsed := rfl
@[simp] theorem State.sendLane_pending (s : State) : (s.sendLane).pending = s.pending := rfl

@[simp] theorem State.reformMatched_stationState (p : Nat) (s : State) : (s.reformMatched p).stationState = s.stationState := rfl
@[simp] theorem State.reformMatched_powerGood (p : Nat) (s : State) : (s.reformMatched p).powerGood = s.powerGood := rfl
@[simp] theorem State.reformMatched_pinAsserted (p : Nat) (s : State) : (s.reformMatched p).pinAsserted = s.pinAsserted := rfl
@[simp] theorem State.reformMatched_startCause (p : Nat) (s : State) : (s.reformMatched p).startCause = s.startCause := rfl
@[simp] theorem State.reformMatched_stationNo (p : Nat) (s : State) : (s.reformMatched p).stationNo = s.stationNo := rfl
@[simp] theorem State.reformMatched_configFault (p : Nat) (s : State) : (s.reformMatched p).configFault = s.configFault := rfl
@[simp] theorem State.reformMatched_clampCount (p : Nat) (s : State) : (s.reformMatched p).clampCount = s.clampCount := rfl
@[simp] theorem State.reformMatched_clampedItems (p : Nat) (s : State) : (s.reformMatched p).clampedItems = s.clampedItems := rfl
@[simp] theorem State.reformMatched_bootReading (p : Nat) (s : State) : (s.reformMatched p).bootReading = s.bootReading := rfl
@[simp] theorem State.reformMatched_listenLeft (p : Nat) (s : State) : (s.reformMatched p).listenLeft = s.listenLeft := rfl
@[simp] theorem State.reformMatched_frameCount (p : Nat) (s : State) : (s.reformMatched p).frameCount = s.frameCount := rfl
@[simp] theorem State.reformMatched_missCount (p : Nat) (s : State) : (s.reformMatched p).missCount = s.missCount := rfl
@[simp] theorem State.reformMatched_cycleCount (p : Nat) (s : State) : (s.reformMatched p).cycleCount = s.cycleCount := rfl
@[simp] theorem State.reformMatched_settings (p : Nat) (s : State) : (s.reformMatched p).settings = s.settings := rfl
@[simp] theorem State.reformMatched_peers (p : Nat) (s : State) : (s.reformMatched p).peers = s.peers := rfl
@[simp] theorem State.reformMatched_paused (p : Nat) (s : State) : (s.reformMatched p).paused = s.paused := rfl
@[simp] theorem State.reformMatched_orderQueue (p : Nat) (s : State) : (s.reformMatched p).orderQueue = s.orderQueue := rfl
@[simp] theorem State.reformMatched_orderOverflow (p : Nat) (s : State) : (s.reformMatched p).orderOverflow = s.orderOverflow := rfl
@[simp] theorem State.reformMatched_replyQueue (p : Nat) (s : State) : (s.reformMatched p).replyQueue = s.replyQueue := rfl
@[simp] theorem State.reformMatched_restartTaken (p : Nat) (s : State) : (s.reformMatched p).restartTaken = s.restartTaken := rfl
@[simp] theorem State.reformMatched_trunk (p : Nat) (s : State) : (s.reformMatched p).trunk = s.trunk := rfl
@[simp] theorem State.reformMatched_todo (p : Nat) (s : State) : (s.reformMatched p).todo = s.todo := rfl
@[simp] theorem State.reformMatched_switchIn (p : Nat) (s : State) : (s.reformMatched p).switchIn = s.switchIn := rfl
@[simp] theorem State.reformMatched_legacyIn (p : Nat) (s : State) : (s.reformMatched p).legacyIn = s.legacyIn := rfl
@[simp] theorem State.reformMatched_bearerPlaces (p : Nat) (s : State) : (s.reformMatched p).bearerPlaces = s.bearerPlaces := rfl
@[simp] theorem State.reformMatched_servicePlace (p : Nat) (s : State) : (s.reformMatched p).servicePlace = s.servicePlace := rfl
@[simp] theorem State.reformMatched_laneOut (p : Nat) (s : State) : (s.reformMatched p).laneOut = s.laneOut := rfl
@[simp] theorem State.reformMatched_freeUsed (p : Nat) (s : State) : (s.reformMatched p).freeUsed = s.freeUsed := rfl
@[simp] theorem State.reformMatched_pending (p : Nat) (s : State) : (s.reformMatched p).pending = s.pending := rfl

@[simp] theorem State.countBoundary_stationState (s : State) : (s.countBoundary).stationState = s.stationState := rfl
@[simp] theorem State.countBoundary_powerGood (s : State) : (s.countBoundary).powerGood = s.powerGood := rfl
@[simp] theorem State.countBoundary_pinAsserted (s : State) : (s.countBoundary).pinAsserted = s.pinAsserted := rfl
@[simp] theorem State.countBoundary_startCause (s : State) : (s.countBoundary).startCause = s.startCause := rfl
@[simp] theorem State.countBoundary_stationNo (s : State) : (s.countBoundary).stationNo = s.stationNo := rfl
@[simp] theorem State.countBoundary_configFault (s : State) : (s.countBoundary).configFault = s.configFault := rfl
@[simp] theorem State.countBoundary_clampCount (s : State) : (s.countBoundary).clampCount = s.clampCount := rfl
@[simp] theorem State.countBoundary_clampedItems (s : State) : (s.countBoundary).clampedItems = s.clampedItems := rfl
@[simp] theorem State.countBoundary_bootReading (s : State) : (s.countBoundary).bootReading = s.bootReading := rfl
@[simp] theorem State.countBoundary_frameCount (s : State) : (s.countBoundary).frameCount = s.frameCount := rfl
@[simp] theorem State.countBoundary_missCount (s : State) : (s.countBoundary).missCount = s.missCount := rfl
@[simp] theorem State.countBoundary_cycleCount (s : State) : (s.countBoundary).cycleCount = s.cycleCount := rfl
@[simp] theorem State.countBoundary_settings (s : State) : (s.countBoundary).settings = s.settings := rfl
@[simp] theorem State.countBoundary_windows (s : State) : (s.countBoundary).windows = s.windows := rfl
@[simp] theorem State.countBoundary_paused (s : State) : (s.countBoundary).paused = s.paused := rfl
@[simp] theorem State.countBoundary_orderQueue (s : State) : (s.countBoundary).orderQueue = s.orderQueue := rfl
@[simp] theorem State.countBoundary_orderOverflow (s : State) : (s.countBoundary).orderOverflow = s.orderOverflow := rfl
@[simp] theorem State.countBoundary_replyQueue (s : State) : (s.countBoundary).replyQueue = s.replyQueue := rfl
@[simp] theorem State.countBoundary_restartTaken (s : State) : (s.countBoundary).restartTaken = s.restartTaken := rfl
@[simp] theorem State.countBoundary_switchIn (s : State) : (s.countBoundary).switchIn = s.switchIn := rfl
@[simp] theorem State.countBoundary_legacyIn (s : State) : (s.countBoundary).legacyIn = s.legacyIn := rfl
@[simp] theorem State.countBoundary_bearerPlaces (s : State) : (s.countBoundary).bearerPlaces = s.bearerPlaces := rfl
@[simp] theorem State.countBoundary_servicePlace (s : State) : (s.countBoundary).servicePlace = s.servicePlace := rfl
@[simp] theorem State.countBoundary_laneOut (s : State) : (s.countBoundary).laneOut = s.laneOut := rfl
@[simp] theorem State.countBoundary_freeUsed (s : State) : (s.countBoundary).freeUsed = s.freeUsed := rfl
@[simp] theorem State.countBoundary_pending (s : State) : (s.countBoundary).pending = s.pending := rfl

@[simp] theorem State.headerError_stationState (lane : Nat) (s : State) : (s.headerError lane).stationState = s.stationState := rfl
@[simp] theorem State.headerError_powerGood (lane : Nat) (s : State) : (s.headerError lane).powerGood = s.powerGood := rfl
@[simp] theorem State.headerError_pinAsserted (lane : Nat) (s : State) : (s.headerError lane).pinAsserted = s.pinAsserted := rfl
@[simp] theorem State.headerError_startCause (lane : Nat) (s : State) : (s.headerError lane).startCause = s.startCause := rfl
@[simp] theorem State.headerError_stationNo (lane : Nat) (s : State) : (s.headerError lane).stationNo = s.stationNo := rfl
@[simp] theorem State.headerError_configFault (lane : Nat) (s : State) : (s.headerError lane).configFault = s.configFault := rfl
@[simp] theorem State.headerError_clampCount (lane : Nat) (s : State) : (s.headerError lane).clampCount = s.clampCount := rfl
@[simp] theorem State.headerError_clampedItems (lane : Nat) (s : State) : (s.headerError lane).clampedItems = s.clampedItems := rfl
@[simp] theorem State.headerError_bootReading (lane : Nat) (s : State) : (s.headerError lane).bootReading = s.bootReading := rfl
@[simp] theorem State.headerError_listenLeft (lane : Nat) (s : State) : (s.headerError lane).listenLeft = s.listenLeft := rfl
@[simp] theorem State.headerError_frameCount (lane : Nat) (s : State) : (s.headerError lane).frameCount = s.frameCount := rfl
@[simp] theorem State.headerError_missCount (lane : Nat) (s : State) : (s.headerError lane).missCount = s.missCount := rfl
@[simp] theorem State.headerError_cycleCount (lane : Nat) (s : State) : (s.headerError lane).cycleCount = s.cycleCount := rfl
@[simp] theorem State.headerError_settings (lane : Nat) (s : State) : (s.headerError lane).settings = s.settings := rfl
@[simp] theorem State.headerError_windows (lane : Nat) (s : State) : (s.headerError lane).windows = s.windows := rfl
@[simp] theorem State.headerError_paused (lane : Nat) (s : State) : (s.headerError lane).paused = s.paused := rfl
@[simp] theorem State.headerError_orderQueue (lane : Nat) (s : State) : (s.headerError lane).orderQueue = s.orderQueue := rfl
@[simp] theorem State.headerError_orderOverflow (lane : Nat) (s : State) : (s.headerError lane).orderOverflow = s.orderOverflow := rfl
@[simp] theorem State.headerError_replyQueue (lane : Nat) (s : State) : (s.headerError lane).replyQueue = s.replyQueue := rfl
@[simp] theorem State.headerError_restartTaken (lane : Nat) (s : State) : (s.headerError lane).restartTaken = s.restartTaken := rfl
@[simp] theorem State.headerError_trunk (lane : Nat) (s : State) : (s.headerError lane).trunk = s.trunk := rfl
@[simp] theorem State.headerError_todo (lane : Nat) (s : State) : (s.headerError lane).todo = s.todo := rfl
@[simp] theorem State.headerError_switchIn (lane : Nat) (s : State) : (s.headerError lane).switchIn = s.switchIn := rfl
@[simp] theorem State.headerError_legacyIn (lane : Nat) (s : State) : (s.headerError lane).legacyIn = s.legacyIn := rfl
@[simp] theorem State.headerError_bearerPlaces (lane : Nat) (s : State) : (s.headerError lane).bearerPlaces = s.bearerPlaces := rfl
@[simp] theorem State.headerError_servicePlace (lane : Nat) (s : State) : (s.headerError lane).servicePlace = s.servicePlace := rfl
@[simp] theorem State.headerError_laneOut (lane : Nat) (s : State) : (s.headerError lane).laneOut = s.laneOut := rfl
@[simp] theorem State.headerError_freeUsed (lane : Nat) (s : State) : (s.headerError lane).freeUsed = s.freeUsed := rfl
@[simp] theorem State.headerError_pending (lane : Nat) (s : State) : (s.headerError lane).pending = s.pending := rfl

@[simp] theorem State.unboundCell_stationState (p : Nat) (s : State) : (s.unboundCell p).stationState = s.stationState := rfl
@[simp] theorem State.unboundCell_powerGood (p : Nat) (s : State) : (s.unboundCell p).powerGood = s.powerGood := rfl
@[simp] theorem State.unboundCell_pinAsserted (p : Nat) (s : State) : (s.unboundCell p).pinAsserted = s.pinAsserted := rfl
@[simp] theorem State.unboundCell_startCause (p : Nat) (s : State) : (s.unboundCell p).startCause = s.startCause := rfl
@[simp] theorem State.unboundCell_stationNo (p : Nat) (s : State) : (s.unboundCell p).stationNo = s.stationNo := rfl
@[simp] theorem State.unboundCell_configFault (p : Nat) (s : State) : (s.unboundCell p).configFault = s.configFault := rfl
@[simp] theorem State.unboundCell_clampCount (p : Nat) (s : State) : (s.unboundCell p).clampCount = s.clampCount := rfl
@[simp] theorem State.unboundCell_clampedItems (p : Nat) (s : State) : (s.unboundCell p).clampedItems = s.clampedItems := rfl
@[simp] theorem State.unboundCell_bootReading (p : Nat) (s : State) : (s.unboundCell p).bootReading = s.bootReading := rfl
@[simp] theorem State.unboundCell_listenLeft (p : Nat) (s : State) : (s.unboundCell p).listenLeft = s.listenLeft := rfl
@[simp] theorem State.unboundCell_frameCount (p : Nat) (s : State) : (s.unboundCell p).frameCount = s.frameCount := rfl
@[simp] theorem State.unboundCell_missCount (p : Nat) (s : State) : (s.unboundCell p).missCount = s.missCount := rfl
@[simp] theorem State.unboundCell_cycleCount (p : Nat) (s : State) : (s.unboundCell p).cycleCount = s.cycleCount := rfl
@[simp] theorem State.unboundCell_settings (p : Nat) (s : State) : (s.unboundCell p).settings = s.settings := rfl
@[simp] theorem State.unboundCell_windows (p : Nat) (s : State) : (s.unboundCell p).windows = s.windows := rfl
@[simp] theorem State.unboundCell_paused (p : Nat) (s : State) : (s.unboundCell p).paused = s.paused := rfl
@[simp] theorem State.unboundCell_orderQueue (p : Nat) (s : State) : (s.unboundCell p).orderQueue = s.orderQueue := rfl
@[simp] theorem State.unboundCell_orderOverflow (p : Nat) (s : State) : (s.unboundCell p).orderOverflow = s.orderOverflow := rfl
@[simp] theorem State.unboundCell_replyQueue (p : Nat) (s : State) : (s.unboundCell p).replyQueue = s.replyQueue := rfl
@[simp] theorem State.unboundCell_restartTaken (p : Nat) (s : State) : (s.unboundCell p).restartTaken = s.restartTaken := rfl
@[simp] theorem State.unboundCell_trunk (p : Nat) (s : State) : (s.unboundCell p).trunk = s.trunk := rfl
@[simp] theorem State.unboundCell_todo (p : Nat) (s : State) : (s.unboundCell p).todo = s.todo := rfl
@[simp] theorem State.unboundCell_switchIn (p : Nat) (s : State) : (s.unboundCell p).switchIn = s.switchIn := rfl
@[simp] theorem State.unboundCell_legacyIn (p : Nat) (s : State) : (s.unboundCell p).legacyIn = s.legacyIn := rfl
@[simp] theorem State.unboundCell_bearerPlaces (p : Nat) (s : State) : (s.unboundCell p).bearerPlaces = s.bearerPlaces := rfl
@[simp] theorem State.unboundCell_servicePlace (p : Nat) (s : State) : (s.unboundCell p).servicePlace = s.servicePlace := rfl
@[simp] theorem State.unboundCell_laneOut (p : Nat) (s : State) : (s.unboundCell p).laneOut = s.laneOut := rfl
@[simp] theorem State.unboundCell_freeUsed (p : Nat) (s : State) : (s.unboundCell p).freeUsed = s.freeUsed := rfl
@[simp] theorem State.unboundCell_pending (p : Nat) (s : State) : (s.unboundCell p).pending = s.pending := rfl

@[simp] theorem State.passThrough_stationState (sw lg : Highway) (s : State) : (s.passThrough sw lg).stationState = s.stationState := rfl
@[simp] theorem State.passThrough_powerGood (sw lg : Highway) (s : State) : (s.passThrough sw lg).powerGood = s.powerGood := rfl
@[simp] theorem State.passThrough_pinAsserted (sw lg : Highway) (s : State) : (s.passThrough sw lg).pinAsserted = s.pinAsserted := rfl
@[simp] theorem State.passThrough_startCause (sw lg : Highway) (s : State) : (s.passThrough sw lg).startCause = s.startCause := rfl
@[simp] theorem State.passThrough_stationNo (sw lg : Highway) (s : State) : (s.passThrough sw lg).stationNo = s.stationNo := rfl
@[simp] theorem State.passThrough_configFault (sw lg : Highway) (s : State) : (s.passThrough sw lg).configFault = s.configFault := rfl
@[simp] theorem State.passThrough_clampCount (sw lg : Highway) (s : State) : (s.passThrough sw lg).clampCount = s.clampCount := rfl
@[simp] theorem State.passThrough_clampedItems (sw lg : Highway) (s : State) : (s.passThrough sw lg).clampedItems = s.clampedItems := rfl
@[simp] theorem State.passThrough_bootReading (sw lg : Highway) (s : State) : (s.passThrough sw lg).bootReading = s.bootReading := rfl
@[simp] theorem State.passThrough_listenLeft (sw lg : Highway) (s : State) : (s.passThrough sw lg).listenLeft = s.listenLeft := rfl
@[simp] theorem State.passThrough_frameCount (sw lg : Highway) (s : State) : (s.passThrough sw lg).frameCount = s.frameCount := rfl
@[simp] theorem State.passThrough_missCount (sw lg : Highway) (s : State) : (s.passThrough sw lg).missCount = s.missCount := rfl
@[simp] theorem State.passThrough_cycleCount (sw lg : Highway) (s : State) : (s.passThrough sw lg).cycleCount = s.cycleCount := rfl
@[simp] theorem State.passThrough_settings (sw lg : Highway) (s : State) : (s.passThrough sw lg).settings = s.settings := rfl
@[simp] theorem State.passThrough_windows (sw lg : Highway) (s : State) : (s.passThrough sw lg).windows = s.windows := rfl
@[simp] theorem State.passThrough_peers (sw lg : Highway) (s : State) : (s.passThrough sw lg).peers = s.peers := rfl
@[simp] theorem State.passThrough_paused (sw lg : Highway) (s : State) : (s.passThrough sw lg).paused = s.paused := rfl
@[simp] theorem State.passThrough_orderQueue (sw lg : Highway) (s : State) : (s.passThrough sw lg).orderQueue = s.orderQueue := rfl
@[simp] theorem State.passThrough_orderOverflow (sw lg : Highway) (s : State) : (s.passThrough sw lg).orderOverflow = s.orderOverflow := rfl
@[simp] theorem State.passThrough_replyQueue (sw lg : Highway) (s : State) : (s.passThrough sw lg).replyQueue = s.replyQueue := rfl
@[simp] theorem State.passThrough_restartTaken (sw lg : Highway) (s : State) : (s.passThrough sw lg).restartTaken = s.restartTaken := rfl
@[simp] theorem State.passThrough_todo (sw lg : Highway) (s : State) : (s.passThrough sw lg).todo = s.todo := rfl
@[simp] theorem State.passThrough_switchIn (sw lg : Highway) (s : State) : (s.passThrough sw lg).switchIn = s.switchIn := rfl
@[simp] theorem State.passThrough_legacyIn (sw lg : Highway) (s : State) : (s.passThrough sw lg).legacyIn = s.legacyIn := rfl
@[simp] theorem State.passThrough_bearerPlaces (sw lg : Highway) (s : State) : (s.passThrough sw lg).bearerPlaces = s.bearerPlaces := rfl
@[simp] theorem State.passThrough_servicePlace (sw lg : Highway) (s : State) : (s.passThrough sw lg).servicePlace = s.servicePlace := rfl
@[simp] theorem State.passThrough_laneOut (sw lg : Highway) (s : State) : (s.passThrough sw lg).laneOut = s.laneOut := rfl
@[simp] theorem State.passThrough_freeUsed (sw lg : Highway) (s : State) : (s.passThrough sw lg).freeUsed = s.freeUsed := rfl
@[simp] theorem State.passThrough_pending (sw lg : Highway) (s : State) : (s.passThrough sw lg).pending = s.pending := rfl

@[simp] theorem State.beginLoading_powerGood (straps : BitVec 4) (s : State) : (s.beginLoading straps).powerGood = s.powerGood := rfl
@[simp] theorem State.beginLoading_pinAsserted (straps : BitVec 4) (s : State) : (s.beginLoading straps).pinAsserted = s.pinAsserted := rfl
@[simp] theorem State.beginLoading_startCause (straps : BitVec 4) (s : State) : (s.beginLoading straps).startCause = s.startCause := rfl
@[simp] theorem State.beginLoading_configFault (straps : BitVec 4) (s : State) : (s.beginLoading straps).configFault = s.configFault := rfl
@[simp] theorem State.beginLoading_clampCount (straps : BitVec 4) (s : State) : (s.beginLoading straps).clampCount = s.clampCount := rfl
@[simp] theorem State.beginLoading_clampedItems (straps : BitVec 4) (s : State) : (s.beginLoading straps).clampedItems = s.clampedItems := rfl
@[simp] theorem State.beginLoading_listenLeft (straps : BitVec 4) (s : State) : (s.beginLoading straps).listenLeft = s.listenLeft := rfl
@[simp] theorem State.beginLoading_frameCount (straps : BitVec 4) (s : State) : (s.beginLoading straps).frameCount = s.frameCount := rfl
@[simp] theorem State.beginLoading_missCount (straps : BitVec 4) (s : State) : (s.beginLoading straps).missCount = s.missCount := rfl
@[simp] theorem State.beginLoading_cycleCount (straps : BitVec 4) (s : State) : (s.beginLoading straps).cycleCount = s.cycleCount := rfl
@[simp] theorem State.beginLoading_settings (straps : BitVec 4) (s : State) : (s.beginLoading straps).settings = s.settings := rfl
@[simp] theorem State.beginLoading_windows (straps : BitVec 4) (s : State) : (s.beginLoading straps).windows = s.windows := rfl
@[simp] theorem State.beginLoading_peers (straps : BitVec 4) (s : State) : (s.beginLoading straps).peers = s.peers := rfl
@[simp] theorem State.beginLoading_paused (straps : BitVec 4) (s : State) : (s.beginLoading straps).paused = s.paused := rfl
@[simp] theorem State.beginLoading_orderQueue (straps : BitVec 4) (s : State) : (s.beginLoading straps).orderQueue = s.orderQueue := rfl
@[simp] theorem State.beginLoading_orderOverflow (straps : BitVec 4) (s : State) : (s.beginLoading straps).orderOverflow = s.orderOverflow := rfl
@[simp] theorem State.beginLoading_replyQueue (straps : BitVec 4) (s : State) : (s.beginLoading straps).replyQueue = s.replyQueue := rfl
@[simp] theorem State.beginLoading_restartTaken (straps : BitVec 4) (s : State) : (s.beginLoading straps).restartTaken = s.restartTaken := rfl
@[simp] theorem State.beginLoading_trunk (straps : BitVec 4) (s : State) : (s.beginLoading straps).trunk = s.trunk := rfl
@[simp] theorem State.beginLoading_todo (straps : BitVec 4) (s : State) : (s.beginLoading straps).todo = s.todo := rfl
@[simp] theorem State.beginLoading_switchIn (straps : BitVec 4) (s : State) : (s.beginLoading straps).switchIn = s.switchIn := rfl
@[simp] theorem State.beginLoading_legacyIn (straps : BitVec 4) (s : State) : (s.beginLoading straps).legacyIn = s.legacyIn := rfl
@[simp] theorem State.beginLoading_bearerPlaces (straps : BitVec 4) (s : State) : (s.beginLoading straps).bearerPlaces = s.bearerPlaces := rfl
@[simp] theorem State.beginLoading_servicePlace (straps : BitVec 4) (s : State) : (s.beginLoading straps).servicePlace = s.servicePlace := rfl
@[simp] theorem State.beginLoading_laneOut (straps : BitVec 4) (s : State) : (s.beginLoading straps).laneOut = s.laneOut := rfl
@[simp] theorem State.beginLoading_freeUsed (straps : BitVec 4) (s : State) : (s.beginLoading straps).freeUsed = s.freeUsed := rfl
@[simp] theorem State.beginLoading_pending (straps : BitVec 4) (s : State) : (s.beginLoading straps).pending = s.pending := rfl

@[simp] theorem State.beginFrame_stationState (sw lg : Highway) (late : Bool) (between : List Work) (s : State) : (s.beginFrame sw lg late between).stationState = s.stationState := rfl
@[simp] theorem State.beginFrame_powerGood (sw lg : Highway) (late : Bool) (between : List Work) (s : State) : (s.beginFrame sw lg late between).powerGood = s.powerGood := rfl
@[simp] theorem State.beginFrame_pinAsserted (sw lg : Highway) (late : Bool) (between : List Work) (s : State) : (s.beginFrame sw lg late between).pinAsserted = s.pinAsserted := rfl
@[simp] theorem State.beginFrame_startCause (sw lg : Highway) (late : Bool) (between : List Work) (s : State) : (s.beginFrame sw lg late between).startCause = s.startCause := rfl
@[simp] theorem State.beginFrame_stationNo (sw lg : Highway) (late : Bool) (between : List Work) (s : State) : (s.beginFrame sw lg late between).stationNo = s.stationNo := rfl
@[simp] theorem State.beginFrame_configFault (sw lg : Highway) (late : Bool) (between : List Work) (s : State) : (s.beginFrame sw lg late between).configFault = s.configFault := rfl
@[simp] theorem State.beginFrame_clampCount (sw lg : Highway) (late : Bool) (between : List Work) (s : State) : (s.beginFrame sw lg late between).clampCount = s.clampCount := rfl
@[simp] theorem State.beginFrame_clampedItems (sw lg : Highway) (late : Bool) (between : List Work) (s : State) : (s.beginFrame sw lg late between).clampedItems = s.clampedItems := rfl
@[simp] theorem State.beginFrame_bootReading (sw lg : Highway) (late : Bool) (between : List Work) (s : State) : (s.beginFrame sw lg late between).bootReading = s.bootReading := rfl
@[simp] theorem State.beginFrame_listenLeft (sw lg : Highway) (late : Bool) (between : List Work) (s : State) : (s.beginFrame sw lg late between).listenLeft = s.listenLeft := rfl
@[simp] theorem State.beginFrame_missCount (sw lg : Highway) (late : Bool) (between : List Work) (s : State) : (s.beginFrame sw lg late between).missCount = s.missCount := rfl
@[simp] theorem State.beginFrame_settings (sw lg : Highway) (late : Bool) (between : List Work) (s : State) : (s.beginFrame sw lg late between).settings = s.settings := rfl
@[simp] theorem State.beginFrame_windows (sw lg : Highway) (late : Bool) (between : List Work) (s : State) : (s.beginFrame sw lg late between).windows = s.windows := rfl
@[simp] theorem State.beginFrame_peers (sw lg : Highway) (late : Bool) (between : List Work) (s : State) : (s.beginFrame sw lg late between).peers = s.peers := rfl
@[simp] theorem State.beginFrame_paused (sw lg : Highway) (late : Bool) (between : List Work) (s : State) : (s.beginFrame sw lg late between).paused = s.paused := rfl
@[simp] theorem State.beginFrame_orderQueue (sw lg : Highway) (late : Bool) (between : List Work) (s : State) : (s.beginFrame sw lg late between).orderQueue = s.orderQueue := rfl
@[simp] theorem State.beginFrame_orderOverflow (sw lg : Highway) (late : Bool) (between : List Work) (s : State) : (s.beginFrame sw lg late between).orderOverflow = s.orderOverflow := rfl
@[simp] theorem State.beginFrame_replyQueue (sw lg : Highway) (late : Bool) (between : List Work) (s : State) : (s.beginFrame sw lg late between).replyQueue = s.replyQueue := rfl
@[simp] theorem State.beginFrame_restartTaken (sw lg : Highway) (late : Bool) (between : List Work) (s : State) : (s.beginFrame sw lg late between).restartTaken = s.restartTaken := rfl
@[simp] theorem State.beginFrame_trunk (sw lg : Highway) (late : Bool) (between : List Work) (s : State) : (s.beginFrame sw lg late between).trunk = s.trunk := rfl
@[simp] theorem State.beginFrame_laneOut (sw lg : Highway) (late : Bool) (between : List Work) (s : State) : (s.beginFrame sw lg late between).laneOut = s.laneOut := rfl
@[simp] theorem State.beginFrame_freeUsed (sw lg : Highway) (late : Bool) (between : List Work) (s : State) : (s.beginFrame sw lg late between).freeUsed = s.freeUsed := rfl
@[simp] theorem State.beginFrame_pending (sw lg : Highway) (late : Bool) (between : List Work) (s : State) : (s.beginFrame sw lg late between).pending = s.pending := rfl

@[simp] theorem State.configBad_powerGood (f : ConfigFault) (s : State) : (s.configBad f).powerGood = s.powerGood := rfl
@[simp] theorem State.configBad_pinAsserted (f : ConfigFault) (s : State) : (s.configBad f).pinAsserted = s.pinAsserted := rfl
@[simp] theorem State.configBad_startCause (f : ConfigFault) (s : State) : (s.configBad f).startCause = s.startCause := rfl
@[simp] theorem State.configBad_stationNo (f : ConfigFault) (s : State) : (s.configBad f).stationNo = s.stationNo := rfl
@[simp] theorem State.configBad_clampCount (f : ConfigFault) (s : State) : (s.configBad f).clampCount = s.clampCount := rfl
@[simp] theorem State.configBad_clampedItems (f : ConfigFault) (s : State) : (s.configBad f).clampedItems = s.clampedItems := rfl
@[simp] theorem State.configBad_listenLeft (f : ConfigFault) (s : State) : (s.configBad f).listenLeft = s.listenLeft := rfl
@[simp] theorem State.configBad_frameCount (f : ConfigFault) (s : State) : (s.configBad f).frameCount = s.frameCount := rfl
@[simp] theorem State.configBad_missCount (f : ConfigFault) (s : State) : (s.configBad f).missCount = s.missCount := rfl
@[simp] theorem State.configBad_cycleCount (f : ConfigFault) (s : State) : (s.configBad f).cycleCount = s.cycleCount := rfl
@[simp] theorem State.configBad_settings (f : ConfigFault) (s : State) : (s.configBad f).settings = s.settings := rfl
@[simp] theorem State.configBad_windows (f : ConfigFault) (s : State) : (s.configBad f).windows = s.windows := rfl
@[simp] theorem State.configBad_peers (f : ConfigFault) (s : State) : (s.configBad f).peers = s.peers := rfl
@[simp] theorem State.configBad_paused (f : ConfigFault) (s : State) : (s.configBad f).paused = s.paused := rfl
@[simp] theorem State.configBad_orderQueue (f : ConfigFault) (s : State) : (s.configBad f).orderQueue = s.orderQueue := rfl
@[simp] theorem State.configBad_orderOverflow (f : ConfigFault) (s : State) : (s.configBad f).orderOverflow = s.orderOverflow := rfl
@[simp] theorem State.configBad_replyQueue (f : ConfigFault) (s : State) : (s.configBad f).replyQueue = s.replyQueue := rfl
@[simp] theorem State.configBad_restartTaken (f : ConfigFault) (s : State) : (s.configBad f).restartTaken = s.restartTaken := rfl
@[simp] theorem State.configBad_trunk (f : ConfigFault) (s : State) : (s.configBad f).trunk = s.trunk := rfl
@[simp] theorem State.configBad_todo (f : ConfigFault) (s : State) : (s.configBad f).todo = s.todo := rfl
@[simp] theorem State.configBad_switchIn (f : ConfigFault) (s : State) : (s.configBad f).switchIn = s.switchIn := rfl
@[simp] theorem State.configBad_legacyIn (f : ConfigFault) (s : State) : (s.configBad f).legacyIn = s.legacyIn := rfl
@[simp] theorem State.configBad_bearerPlaces (f : ConfigFault) (s : State) : (s.configBad f).bearerPlaces = s.bearerPlaces := rfl
@[simp] theorem State.configBad_servicePlace (f : ConfigFault) (s : State) : (s.configBad f).servicePlace = s.servicePlace := rfl
@[simp] theorem State.configBad_laneOut (f : ConfigFault) (s : State) : (s.configBad f).laneOut = s.laneOut := rfl
@[simp] theorem State.configBad_freeUsed (f : ConfigFault) (s : State) : (s.configBad f).freeUsed = s.freeUsed := rfl
@[simp] theorem State.configBad_pending (f : ConfigFault) (s : State) : (s.configBad f).pending = s.pending := rfl

@[simp] theorem State.configGood_powerGood (m : List Byte) (s : State) : (s.configGood m).powerGood = s.powerGood := rfl
@[simp] theorem State.configGood_pinAsserted (m : List Byte) (s : State) : (s.configGood m).pinAsserted = s.pinAsserted := rfl
@[simp] theorem State.configGood_startCause (m : List Byte) (s : State) : (s.configGood m).startCause = s.startCause := rfl
@[simp] theorem State.configGood_stationNo (m : List Byte) (s : State) : (s.configGood m).stationNo = s.stationNo := rfl
@[simp] theorem State.configGood_configFault (m : List Byte) (s : State) : (s.configGood m).configFault = s.configFault := rfl
@[simp] theorem State.configGood_frameCount (m : List Byte) (s : State) : (s.configGood m).frameCount = s.frameCount := rfl
@[simp] theorem State.configGood_missCount (m : List Byte) (s : State) : (s.configGood m).missCount = s.missCount := rfl
@[simp] theorem State.configGood_cycleCount (m : List Byte) (s : State) : (s.configGood m).cycleCount = s.cycleCount := rfl
@[simp] theorem State.configGood_peers (m : List Byte) (s : State) : (s.configGood m).peers = s.peers := rfl
@[simp] theorem State.configGood_paused (m : List Byte) (s : State) : (s.configGood m).paused = s.paused := rfl
@[simp] theorem State.configGood_orderQueue (m : List Byte) (s : State) : (s.configGood m).orderQueue = s.orderQueue := rfl
@[simp] theorem State.configGood_orderOverflow (m : List Byte) (s : State) : (s.configGood m).orderOverflow = s.orderOverflow := rfl
@[simp] theorem State.configGood_replyQueue (m : List Byte) (s : State) : (s.configGood m).replyQueue = s.replyQueue := rfl
@[simp] theorem State.configGood_restartTaken (m : List Byte) (s : State) : (s.configGood m).restartTaken = s.restartTaken := rfl
@[simp] theorem State.configGood_todo (m : List Byte) (s : State) : (s.configGood m).todo = s.todo := rfl
@[simp] theorem State.configGood_switchIn (m : List Byte) (s : State) : (s.configGood m).switchIn = s.switchIn := rfl
@[simp] theorem State.configGood_legacyIn (m : List Byte) (s : State) : (s.configGood m).legacyIn = s.legacyIn := rfl
@[simp] theorem State.configGood_bearerPlaces (m : List Byte) (s : State) : (s.configGood m).bearerPlaces = s.bearerPlaces := rfl
@[simp] theorem State.configGood_servicePlace (m : List Byte) (s : State) : (s.configGood m).servicePlace = s.servicePlace := rfl
@[simp] theorem State.configGood_laneOut (m : List Byte) (s : State) : (s.configGood m).laneOut = s.laneOut := rfl
@[simp] theorem State.configGood_freeUsed (m : List Byte) (s : State) : (s.configGood m).freeUsed = s.freeUsed := rfl
@[simp] theorem State.configGood_pending (m : List Byte) (s : State) : (s.configGood m).pending = s.pending := rfl

@[simp] theorem State.start_powerGood (k : StartCause) (s : State) : (s.start k).powerGood = s.powerGood := rfl
@[simp] theorem State.start_pinAsserted (k : StartCause) (s : State) : (s.start k).pinAsserted = s.pinAsserted := rfl
@[simp] theorem State.start_freeUsed (k : StartCause) (s : State) : (s.start k).freeUsed = s.freeUsed := rfl
@[simp] theorem State.start_pending (k : StartCause) (s : State) : (s.start k).pending = s.pending := rfl

@[simp] theorem State.giveSome_stationState (s : State) : (s.giveSome).stationState = s.stationState := rfl
@[simp] theorem State.giveSome_powerGood (s : State) : (s.giveSome).powerGood = s.powerGood := rfl
@[simp] theorem State.giveSome_pinAsserted (s : State) : (s.giveSome).pinAsserted = s.pinAsserted := rfl
@[simp] theorem State.giveSome_startCause (s : State) : (s.giveSome).startCause = s.startCause := rfl
@[simp] theorem State.giveSome_stationNo (s : State) : (s.giveSome).stationNo = s.stationNo := rfl
@[simp] theorem State.giveSome_configFault (s : State) : (s.giveSome).configFault = s.configFault := rfl
@[simp] theorem State.giveSome_clampCount (s : State) : (s.giveSome).clampCount = s.clampCount := rfl
@[simp] theorem State.giveSome_clampedItems (s : State) : (s.giveSome).clampedItems = s.clampedItems := rfl
@[simp] theorem State.giveSome_bootReading (s : State) : (s.giveSome).bootReading = s.bootReading := rfl
@[simp] theorem State.giveSome_listenLeft (s : State) : (s.giveSome).listenLeft = s.listenLeft := rfl
@[simp] theorem State.giveSome_frameCount (s : State) : (s.giveSome).frameCount = s.frameCount := rfl
@[simp] theorem State.giveSome_missCount (s : State) : (s.giveSome).missCount = s.missCount := rfl
@[simp] theorem State.giveSome_cycleCount (s : State) : (s.giveSome).cycleCount = s.cycleCount := rfl
@[simp] theorem State.giveSome_settings (s : State) : (s.giveSome).settings = s.settings := rfl
@[simp] theorem State.giveSome_windows (s : State) : (s.giveSome).windows = s.windows := rfl
@[simp] theorem State.giveSome_peers (s : State) : (s.giveSome).peers = s.peers := rfl
@[simp] theorem State.giveSome_paused (s : State) : (s.giveSome).paused = s.paused := rfl
@[simp] theorem State.giveSome_orderQueue (s : State) : (s.giveSome).orderQueue = s.orderQueue := rfl
@[simp] theorem State.giveSome_orderOverflow (s : State) : (s.giveSome).orderOverflow = s.orderOverflow := rfl
@[simp] theorem State.giveSome_replyQueue (s : State) : (s.giveSome).replyQueue = s.replyQueue := rfl
@[simp] theorem State.giveSome_restartTaken (s : State) : (s.giveSome).restartTaken = s.restartTaken := rfl
@[simp] theorem State.giveSome_todo (s : State) : (s.giveSome).todo = s.todo := rfl
@[simp] theorem State.giveSome_switchIn (s : State) : (s.giveSome).switchIn = s.switchIn := rfl
@[simp] theorem State.giveSome_legacyIn (s : State) : (s.giveSome).legacyIn = s.legacyIn := rfl
@[simp] theorem State.giveSome_bearerPlaces (s : State) : (s.giveSome).bearerPlaces = s.bearerPlaces := rfl
@[simp] theorem State.giveSome_servicePlace (s : State) : (s.giveSome).servicePlace = s.servicePlace := rfl
@[simp] theorem State.giveSome_laneOut (s : State) : (s.giveSome).laneOut = s.laneOut := rfl
@[simp] theorem State.giveSome_freeUsed (s : State) : (s.giveSome).freeUsed = s.freeUsed := rfl
@[simp] theorem State.giveSome_pending (s : State) : (s.giveSome).pending = s.pending := rfl

/-! ## The works of a frame that may have been done -/

/-- Nothing is done when the work has been done. -/
theorem State.settleBoundary_done (s : State) (h : s.todo.boundary = false) : s.settleBoundary = s := by simp [State.settleBoundary, h]

@[simp] theorem State.settleBoundary_stationState (s : State) : (s.settleBoundary).stationState = s.stationState := by unfold State.settleBoundary; split <;> rfl
@[simp] theorem State.settleBoundary_powerGood (s : State) : (s.settleBoundary).powerGood = s.powerGood := by unfold State.settleBoundary; split <;> rfl
@[simp] theorem State.settleBoundary_pinAsserted (s : State) : (s.settleBoundary).pinAsserted = s.pinAsserted := by unfold State.settleBoundary; split <;> rfl
@[simp] theorem State.settleBoundary_startCause (s : State) : (s.settleBoundary).startCause = s.startCause := by unfold State.settleBoundary; split <;> rfl
@[simp] theorem State.settleBoundary_stationNo (s : State) : (s.settleBoundary).stationNo = s.stationNo := by unfold State.settleBoundary; split <;> rfl
@[simp] theorem State.settleBoundary_configFault (s : State) : (s.settleBoundary).configFault = s.configFault := by unfold State.settleBoundary; split <;> rfl
@[simp] theorem State.settleBoundary_clampCount (s : State) : (s.settleBoundary).clampCount = s.clampCount := by unfold State.settleBoundary; split <;> rfl
@[simp] theorem State.settleBoundary_clampedItems (s : State) : (s.settleBoundary).clampedItems = s.clampedItems := by unfold State.settleBoundary; split <;> rfl
@[simp] theorem State.settleBoundary_bootReading (s : State) : (s.settleBoundary).bootReading = s.bootReading := by unfold State.settleBoundary; split <;> rfl
@[simp] theorem State.settleBoundary_frameCount (s : State) : (s.settleBoundary).frameCount = s.frameCount := by unfold State.settleBoundary; split <;> rfl
@[simp] theorem State.settleBoundary_missCount (s : State) : (s.settleBoundary).missCount = s.missCount := by unfold State.settleBoundary; split <;> rfl
@[simp] theorem State.settleBoundary_cycleCount (s : State) : (s.settleBoundary).cycleCount = s.cycleCount := by unfold State.settleBoundary; split <;> rfl
@[simp] theorem State.settleBoundary_settings (s : State) : (s.settleBoundary).settings = s.settings := by unfold State.settleBoundary; split <;> rfl
@[simp] theorem State.settleBoundary_windows (s : State) : (s.settleBoundary).windows = s.windows := by unfold State.settleBoundary; split <;> rfl
@[simp] theorem State.settleBoundary_paused (s : State) : (s.settleBoundary).paused = s.paused := by unfold State.settleBoundary; split <;> rfl
@[simp] theorem State.settleBoundary_orderQueue (s : State) : (s.settleBoundary).orderQueue = s.orderQueue := by unfold State.settleBoundary; split <;> rfl
@[simp] theorem State.settleBoundary_orderOverflow (s : State) : (s.settleBoundary).orderOverflow = s.orderOverflow := by unfold State.settleBoundary; split <;> rfl
@[simp] theorem State.settleBoundary_replyQueue (s : State) : (s.settleBoundary).replyQueue = s.replyQueue := by unfold State.settleBoundary; split <;> rfl
@[simp] theorem State.settleBoundary_restartTaken (s : State) : (s.settleBoundary).restartTaken = s.restartTaken := by unfold State.settleBoundary; split <;> rfl
@[simp] theorem State.settleBoundary_switchIn (s : State) : (s.settleBoundary).switchIn = s.switchIn := by unfold State.settleBoundary; split <;> rfl
@[simp] theorem State.settleBoundary_legacyIn (s : State) : (s.settleBoundary).legacyIn = s.legacyIn := by unfold State.settleBoundary; split <;> rfl
@[simp] theorem State.settleBoundary_bearerPlaces (s : State) : (s.settleBoundary).bearerPlaces = s.bearerPlaces := by unfold State.settleBoundary; split <;> rfl
@[simp] theorem State.settleBoundary_servicePlace (s : State) : (s.settleBoundary).servicePlace = s.servicePlace := by unfold State.settleBoundary; split <;> rfl
@[simp] theorem State.settleBoundary_laneOut (s : State) : (s.settleBoundary).laneOut = s.laneOut := by unfold State.settleBoundary; split <;> rfl
@[simp] theorem State.settleBoundary_freeUsed (s : State) : (s.settleBoundary).freeUsed = s.freeUsed := by unfold State.settleBoundary; split <;> rfl
@[simp] theorem State.settleBoundary_pending (s : State) : (s.settleBoundary).pending = s.pending := by unfold State.settleBoundary; split <;> rfl

/-- Nothing is done when the work has been done. -/
theorem State.countIdles_done (s : State) (h : s.todo.idle = false) : s.countIdles = s := by simp [State.countIdles, h]

@[simp] theorem State.countIdles_stationState (s : State) : (s.countIdles).stationState = s.stationState := by unfold State.countIdles; split <;> rfl
@[simp] theorem State.countIdles_powerGood (s : State) : (s.countIdles).powerGood = s.powerGood := by unfold State.countIdles; split <;> rfl
@[simp] theorem State.countIdles_pinAsserted (s : State) : (s.countIdles).pinAsserted = s.pinAsserted := by unfold State.countIdles; split <;> rfl
@[simp] theorem State.countIdles_startCause (s : State) : (s.countIdles).startCause = s.startCause := by unfold State.countIdles; split <;> rfl
@[simp] theorem State.countIdles_stationNo (s : State) : (s.countIdles).stationNo = s.stationNo := by unfold State.countIdles; split <;> rfl
@[simp] theorem State.countIdles_configFault (s : State) : (s.countIdles).configFault = s.configFault := by unfold State.countIdles; split <;> rfl
@[simp] theorem State.countIdles_clampCount (s : State) : (s.countIdles).clampCount = s.clampCount := by unfold State.countIdles; split <;> rfl
@[simp] theorem State.countIdles_clampedItems (s : State) : (s.countIdles).clampedItems = s.clampedItems := by unfold State.countIdles; split <;> rfl
@[simp] theorem State.countIdles_bootReading (s : State) : (s.countIdles).bootReading = s.bootReading := by unfold State.countIdles; split <;> rfl
@[simp] theorem State.countIdles_listenLeft (s : State) : (s.countIdles).listenLeft = s.listenLeft := by unfold State.countIdles; split <;> rfl
@[simp] theorem State.countIdles_frameCount (s : State) : (s.countIdles).frameCount = s.frameCount := by unfold State.countIdles; split <;> rfl
@[simp] theorem State.countIdles_missCount (s : State) : (s.countIdles).missCount = s.missCount := by unfold State.countIdles; split <;> rfl
@[simp] theorem State.countIdles_cycleCount (s : State) : (s.countIdles).cycleCount = s.cycleCount := by unfold State.countIdles; split <;> rfl
@[simp] theorem State.countIdles_settings (s : State) : (s.countIdles).settings = s.settings := by unfold State.countIdles; split <;> rfl
@[simp] theorem State.countIdles_windows (s : State) : (s.countIdles).windows = s.windows := by unfold State.countIdles; split <;> rfl
@[simp] theorem State.countIdles_peers (s : State) : (s.countIdles).peers = s.peers := by unfold State.countIdles; split <;> rfl
@[simp] theorem State.countIdles_paused (s : State) : (s.countIdles).paused = s.paused := by unfold State.countIdles; split <;> rfl
@[simp] theorem State.countIdles_orderQueue (s : State) : (s.countIdles).orderQueue = s.orderQueue := by unfold State.countIdles; split <;> rfl
@[simp] theorem State.countIdles_orderOverflow (s : State) : (s.countIdles).orderOverflow = s.orderOverflow := by unfold State.countIdles; split <;> rfl
@[simp] theorem State.countIdles_replyQueue (s : State) : (s.countIdles).replyQueue = s.replyQueue := by unfold State.countIdles; split <;> rfl
@[simp] theorem State.countIdles_restartTaken (s : State) : (s.countIdles).restartTaken = s.restartTaken := by unfold State.countIdles; split <;> rfl
@[simp] theorem State.countIdles_switchIn (s : State) : (s.countIdles).switchIn = s.switchIn := by unfold State.countIdles; split <;> rfl
@[simp] theorem State.countIdles_legacyIn (s : State) : (s.countIdles).legacyIn = s.legacyIn := by unfold State.countIdles; split <;> rfl
@[simp] theorem State.countIdles_bearerPlaces (s : State) : (s.countIdles).bearerPlaces = s.bearerPlaces := by unfold State.countIdles; split <;> rfl
@[simp] theorem State.countIdles_servicePlace (s : State) : (s.countIdles).servicePlace = s.servicePlace := by unfold State.countIdles; split <;> rfl
@[simp] theorem State.countIdles_laneOut (s : State) : (s.countIdles).laneOut = s.laneOut := by unfold State.countIdles; split <;> rfl
@[simp] theorem State.countIdles_freeUsed (s : State) : (s.countIdles).freeUsed = s.freeUsed := by unfold State.countIdles; split <;> rfl
@[simp] theorem State.countIdles_pending (s : State) : (s.countIdles).pending = s.pending := by unfold State.countIdles; split <;> rfl

/-- Nothing is done when the work has been done. -/
theorem State.giveAll_done (s : State) (h : s.todo.select = false) : s.giveAll = s := by simp [State.giveAll, h]

@[simp] theorem State.giveAll_stationState (s : State) : (s.giveAll).stationState = s.stationState := by unfold State.giveAll; split <;> rfl
@[simp] theorem State.giveAll_powerGood (s : State) : (s.giveAll).powerGood = s.powerGood := by unfold State.giveAll; split <;> rfl
@[simp] theorem State.giveAll_pinAsserted (s : State) : (s.giveAll).pinAsserted = s.pinAsserted := by unfold State.giveAll; split <;> rfl
@[simp] theorem State.giveAll_startCause (s : State) : (s.giveAll).startCause = s.startCause := by unfold State.giveAll; split <;> rfl
@[simp] theorem State.giveAll_stationNo (s : State) : (s.giveAll).stationNo = s.stationNo := by unfold State.giveAll; split <;> rfl
@[simp] theorem State.giveAll_configFault (s : State) : (s.giveAll).configFault = s.configFault := by unfold State.giveAll; split <;> rfl
@[simp] theorem State.giveAll_clampCount (s : State) : (s.giveAll).clampCount = s.clampCount := by unfold State.giveAll; split <;> rfl
@[simp] theorem State.giveAll_clampedItems (s : State) : (s.giveAll).clampedItems = s.clampedItems := by unfold State.giveAll; split <;> rfl
@[simp] theorem State.giveAll_bootReading (s : State) : (s.giveAll).bootReading = s.bootReading := by unfold State.giveAll; split <;> rfl
@[simp] theorem State.giveAll_listenLeft (s : State) : (s.giveAll).listenLeft = s.listenLeft := by unfold State.giveAll; split <;> rfl
@[simp] theorem State.giveAll_frameCount (s : State) : (s.giveAll).frameCount = s.frameCount := by unfold State.giveAll; split <;> rfl
@[simp] theorem State.giveAll_missCount (s : State) : (s.giveAll).missCount = s.missCount := by unfold State.giveAll; split <;> rfl
@[simp] theorem State.giveAll_cycleCount (s : State) : (s.giveAll).cycleCount = s.cycleCount := by unfold State.giveAll; split <;> rfl
@[simp] theorem State.giveAll_settings (s : State) : (s.giveAll).settings = s.settings := by unfold State.giveAll; split <;> rfl
@[simp] theorem State.giveAll_windows (s : State) : (s.giveAll).windows = s.windows := by unfold State.giveAll; split <;> rfl
@[simp] theorem State.giveAll_peers (s : State) : (s.giveAll).peers = s.peers := by unfold State.giveAll; split <;> rfl
@[simp] theorem State.giveAll_paused (s : State) : (s.giveAll).paused = s.paused := by unfold State.giveAll; split <;> rfl
@[simp] theorem State.giveAll_orderQueue (s : State) : (s.giveAll).orderQueue = s.orderQueue := by unfold State.giveAll; split <;> rfl
@[simp] theorem State.giveAll_orderOverflow (s : State) : (s.giveAll).orderOverflow = s.orderOverflow := by unfold State.giveAll; split <;> rfl
@[simp] theorem State.giveAll_replyQueue (s : State) : (s.giveAll).replyQueue = s.replyQueue := by unfold State.giveAll; split <;> rfl
@[simp] theorem State.giveAll_restartTaken (s : State) : (s.giveAll).restartTaken = s.restartTaken := by unfold State.giveAll; split <;> rfl
@[simp] theorem State.giveAll_switchIn (s : State) : (s.giveAll).switchIn = s.switchIn := by unfold State.giveAll; split <;> rfl
@[simp] theorem State.giveAll_legacyIn (s : State) : (s.giveAll).legacyIn = s.legacyIn := by unfold State.giveAll; split <;> rfl
@[simp] theorem State.giveAll_bearerPlaces (s : State) : (s.giveAll).bearerPlaces = s.bearerPlaces := by unfold State.giveAll; split <;> rfl
@[simp] theorem State.giveAll_servicePlace (s : State) : (s.giveAll).servicePlace = s.servicePlace := by unfold State.giveAll; split <;> rfl
@[simp] theorem State.giveAll_laneOut (s : State) : (s.giveAll).laneOut = s.laneOut := by unfold State.giveAll; split <;> rfl
@[simp] theorem State.giveAll_freeUsed (s : State) : (s.giveAll).freeUsed = s.freeUsed := by unfold State.giveAll; split <;> rfl
@[simp] theorem State.giveAll_pending (s : State) : (s.giveAll).pending = s.pending := by unfold State.giveAll; split <;> rfl

/-- Nothing is done when the work has been done. -/
theorem State.buildRow_done (s : State) (h : s.todo.build = false) : s.buildRow = s := by simp [State.buildRow, h]

@[simp] theorem State.buildRow_stationState (s : State) : (s.buildRow).stationState = s.stationState := by unfold State.buildRow; split <;> rfl
@[simp] theorem State.buildRow_powerGood (s : State) : (s.buildRow).powerGood = s.powerGood := by unfold State.buildRow; split <;> rfl
@[simp] theorem State.buildRow_pinAsserted (s : State) : (s.buildRow).pinAsserted = s.pinAsserted := by unfold State.buildRow; split <;> rfl
@[simp] theorem State.buildRow_startCause (s : State) : (s.buildRow).startCause = s.startCause := by unfold State.buildRow; split <;> rfl
@[simp] theorem State.buildRow_stationNo (s : State) : (s.buildRow).stationNo = s.stationNo := by unfold State.buildRow; split <;> rfl
@[simp] theorem State.buildRow_configFault (s : State) : (s.buildRow).configFault = s.configFault := by unfold State.buildRow; split <;> rfl
@[simp] theorem State.buildRow_clampCount (s : State) : (s.buildRow).clampCount = s.clampCount := by unfold State.buildRow; split <;> rfl
@[simp] theorem State.buildRow_clampedItems (s : State) : (s.buildRow).clampedItems = s.clampedItems := by unfold State.buildRow; split <;> rfl
@[simp] theorem State.buildRow_bootReading (s : State) : (s.buildRow).bootReading = s.bootReading := by unfold State.buildRow; split <;> rfl
@[simp] theorem State.buildRow_listenLeft (s : State) : (s.buildRow).listenLeft = s.listenLeft := by unfold State.buildRow; split <;> rfl
@[simp] theorem State.buildRow_frameCount (s : State) : (s.buildRow).frameCount = s.frameCount := by unfold State.buildRow; split <;> rfl
@[simp] theorem State.buildRow_missCount (s : State) : (s.buildRow).missCount = s.missCount := by unfold State.buildRow; split <;> rfl
@[simp] theorem State.buildRow_cycleCount (s : State) : (s.buildRow).cycleCount = s.cycleCount := by unfold State.buildRow; split <;> rfl
@[simp] theorem State.buildRow_settings (s : State) : (s.buildRow).settings = s.settings := by unfold State.buildRow; split <;> rfl
@[simp] theorem State.buildRow_windows (s : State) : (s.buildRow).windows = s.windows := by unfold State.buildRow; split <;> rfl
@[simp] theorem State.buildRow_peers (s : State) : (s.buildRow).peers = s.peers := by unfold State.buildRow; split <;> rfl
@[simp] theorem State.buildRow_paused (s : State) : (s.buildRow).paused = s.paused := by unfold State.buildRow; split <;> rfl
@[simp] theorem State.buildRow_orderQueue (s : State) : (s.buildRow).orderQueue = s.orderQueue := by unfold State.buildRow; split <;> rfl
@[simp] theorem State.buildRow_orderOverflow (s : State) : (s.buildRow).orderOverflow = s.orderOverflow := by unfold State.buildRow; split <;> rfl
@[simp] theorem State.buildRow_replyQueue (s : State) : (s.buildRow).replyQueue = s.replyQueue := by unfold State.buildRow; split <;> rfl
@[simp] theorem State.buildRow_restartTaken (s : State) : (s.buildRow).restartTaken = s.restartTaken := by unfold State.buildRow; split <;> rfl
@[simp] theorem State.buildRow_switchIn (s : State) : (s.buildRow).switchIn = s.switchIn := by unfold State.buildRow; split <;> rfl
@[simp] theorem State.buildRow_legacyIn (s : State) : (s.buildRow).legacyIn = s.legacyIn := by unfold State.buildRow; split <;> rfl
@[simp] theorem State.buildRow_servicePlace (s : State) : (s.buildRow).servicePlace = s.servicePlace := by unfold State.buildRow; split <;> rfl
@[simp] theorem State.buildRow_laneOut (s : State) : (s.buildRow).laneOut = s.laneOut := by unfold State.buildRow; split <;> rfl
@[simp] theorem State.buildRow_freeUsed (s : State) : (s.buildRow).freeUsed = s.freeUsed := by unfold State.buildRow; split <;> rfl
@[simp] theorem State.buildRow_pending (s : State) : (s.buildRow).pending = s.pending := by unfold State.buildRow; split <;> rfl

/-- Nothing is done when the place has been filled. -/
theorem State.fillService_done (s : State) (h : s.todo.service = false) : s.fillService = s := by simp [State.fillService, h]

@[simp] theorem State.fillService_stationState (s : State) : (s.fillService).stationState = s.stationState := by unfold State.fillService; (repeat' split) <;> rfl
@[simp] theorem State.fillService_powerGood (s : State) : (s.fillService).powerGood = s.powerGood := by unfold State.fillService; (repeat' split) <;> rfl
@[simp] theorem State.fillService_pinAsserted (s : State) : (s.fillService).pinAsserted = s.pinAsserted := by unfold State.fillService; (repeat' split) <;> rfl
@[simp] theorem State.fillService_startCause (s : State) : (s.fillService).startCause = s.startCause := by unfold State.fillService; (repeat' split) <;> rfl
@[simp] theorem State.fillService_stationNo (s : State) : (s.fillService).stationNo = s.stationNo := by unfold State.fillService; (repeat' split) <;> rfl
@[simp] theorem State.fillService_configFault (s : State) : (s.fillService).configFault = s.configFault := by unfold State.fillService; (repeat' split) <;> rfl
@[simp] theorem State.fillService_clampCount (s : State) : (s.fillService).clampCount = s.clampCount := by unfold State.fillService; (repeat' split) <;> rfl
@[simp] theorem State.fillService_clampedItems (s : State) : (s.fillService).clampedItems = s.clampedItems := by unfold State.fillService; (repeat' split) <;> rfl
@[simp] theorem State.fillService_bootReading (s : State) : (s.fillService).bootReading = s.bootReading := by unfold State.fillService; (repeat' split) <;> rfl
@[simp] theorem State.fillService_listenLeft (s : State) : (s.fillService).listenLeft = s.listenLeft := by unfold State.fillService; (repeat' split) <;> rfl
@[simp] theorem State.fillService_frameCount (s : State) : (s.fillService).frameCount = s.frameCount := by unfold State.fillService; (repeat' split) <;> rfl
@[simp] theorem State.fillService_missCount (s : State) : (s.fillService).missCount = s.missCount := by unfold State.fillService; (repeat' split) <;> rfl
@[simp] theorem State.fillService_cycleCount (s : State) : (s.fillService).cycleCount = s.cycleCount := by unfold State.fillService; (repeat' split) <;> rfl
@[simp] theorem State.fillService_settings (s : State) : (s.fillService).settings = s.settings := by unfold State.fillService; (repeat' split) <;> rfl
@[simp] theorem State.fillService_windows (s : State) : (s.fillService).windows = s.windows := by unfold State.fillService; (repeat' split) <;> rfl
@[simp] theorem State.fillService_peers (s : State) : (s.fillService).peers = s.peers := by unfold State.fillService; (repeat' split) <;> rfl
@[simp] theorem State.fillService_paused (s : State) : (s.fillService).paused = s.paused := by unfold State.fillService; (repeat' split) <;> rfl
@[simp] theorem State.fillService_orderQueue (s : State) : (s.fillService).orderQueue = s.orderQueue := by unfold State.fillService; (repeat' split) <;> rfl
@[simp] theorem State.fillService_orderOverflow (s : State) : (s.fillService).orderOverflow = s.orderOverflow := by unfold State.fillService; (repeat' split) <;> rfl
@[simp] theorem State.fillService_restartTaken (s : State) : (s.fillService).restartTaken = s.restartTaken := by unfold State.fillService; (repeat' split) <;> rfl
@[simp] theorem State.fillService_trunk (s : State) : (s.fillService).trunk = s.trunk := by unfold State.fillService; (repeat' split) <;> rfl
@[simp] theorem State.fillService_switchIn (s : State) : (s.fillService).switchIn = s.switchIn := by unfold State.fillService; (repeat' split) <;> rfl
@[simp] theorem State.fillService_legacyIn (s : State) : (s.fillService).legacyIn = s.legacyIn := by unfold State.fillService; (repeat' split) <;> rfl
@[simp] theorem State.fillService_bearerPlaces (s : State) : (s.fillService).bearerPlaces = s.bearerPlaces := by unfold State.fillService; (repeat' split) <;> rfl
@[simp] theorem State.fillService_laneOut (s : State) : (s.fillService).laneOut = s.laneOut := by unfold State.fillService; (repeat' split) <;> rfl
@[simp] theorem State.fillService_freeUsed (s : State) : (s.fillService).freeUsed = s.freeUsed := by unfold State.fillService; (repeat' split) <;> rfl
@[simp] theorem State.fillService_pending (s : State) : (s.fillService).pending = s.pending := by unfold State.fillService; (repeat' split) <;> rfl

@[simp] theorem State.endListening_powerGood (s : State) : (s.endListening).powerGood = s.powerGood := by unfold State.endListening; split <;> rfl
@[simp] theorem State.endListening_pinAsserted (s : State) : (s.endListening).pinAsserted = s.pinAsserted := by unfold State.endListening; split <;> rfl
@[simp] theorem State.endListening_startCause (s : State) : (s.endListening).startCause = s.startCause := by unfold State.endListening; split <;> rfl
@[simp] theorem State.endListening_stationNo (s : State) : (s.endListening).stationNo = s.stationNo := by unfold State.endListening; split <;> rfl
@[simp] theorem State.endListening_configFault (s : State) : (s.endListening).configFault = s.configFault := by unfold State.endListening; split <;> rfl
@[simp] theorem State.endListening_clampCount (s : State) : (s.endListening).clampCount = s.clampCount := by unfold State.endListening; split <;> rfl
@[simp] theorem State.endListening_clampedItems (s : State) : (s.endListening).clampedItems = s.clampedItems := by unfold State.endListening; split <;> rfl
@[simp] theorem State.endListening_bootReading (s : State) : (s.endListening).bootReading = s.bootReading := by unfold State.endListening; split <;> rfl
@[simp] theorem State.endListening_listenLeft (s : State) : (s.endListening).listenLeft = s.listenLeft := by unfold State.endListening; split <;> rfl
@[simp] theorem State.endListening_frameCount (s : State) : (s.endListening).frameCount = s.frameCount := by unfold State.endListening; split <;> rfl
@[simp] theorem State.endListening_missCount (s : State) : (s.endListening).missCount = s.missCount := by unfold State.endListening; split <;> rfl
@[simp] theorem State.endListening_cycleCount (s : State) : (s.endListening).cycleCount = s.cycleCount := by unfold State.endListening; split <;> rfl
@[simp] theorem State.endListening_settings (s : State) : (s.endListening).settings = s.settings := by unfold State.endListening; split <;> rfl
@[simp] theorem State.endListening_windows (s : State) : (s.endListening).windows = s.windows := by unfold State.endListening; split <;> rfl
@[simp] theorem State.endListening_peers (s : State) : (s.endListening).peers = s.peers := by unfold State.endListening; split <;> rfl
@[simp] theorem State.endListening_paused (s : State) : (s.endListening).paused = s.paused := by unfold State.endListening; split <;> rfl
@[simp] theorem State.endListening_orderQueue (s : State) : (s.endListening).orderQueue = s.orderQueue := by unfold State.endListening; split <;> rfl
@[simp] theorem State.endListening_orderOverflow (s : State) : (s.endListening).orderOverflow = s.orderOverflow := by unfold State.endListening; split <;> rfl
@[simp] theorem State.endListening_replyQueue (s : State) : (s.endListening).replyQueue = s.replyQueue := by unfold State.endListening; split <;> rfl
@[simp] theorem State.endListening_restartTaken (s : State) : (s.endListening).restartTaken = s.restartTaken := by unfold State.endListening; split <;> rfl
@[simp] theorem State.endListening_trunk (s : State) : (s.endListening).trunk = s.trunk := by unfold State.endListening; split <;> rfl
@[simp] theorem State.endListening_todo (s : State) : (s.endListening).todo = s.todo := by unfold State.endListening; split <;> rfl
@[simp] theorem State.endListening_switchIn (s : State) : (s.endListening).switchIn = s.switchIn := by unfold State.endListening; split <;> rfl
@[simp] theorem State.endListening_legacyIn (s : State) : (s.endListening).legacyIn = s.legacyIn := by unfold State.endListening; split <;> rfl
@[simp] theorem State.endListening_bearerPlaces (s : State) : (s.endListening).bearerPlaces = s.bearerPlaces := by unfold State.endListening; split <;> rfl
@[simp] theorem State.endListening_servicePlace (s : State) : (s.endListening).servicePlace = s.servicePlace := by unfold State.endListening; split <;> rfl
@[simp] theorem State.endListening_laneOut (s : State) : (s.endListening).laneOut = s.laneOut := by unfold State.endListening; split <;> rfl
@[simp] theorem State.endListening_freeUsed (s : State) : (s.endListening).freeUsed = s.freeUsed := by unfold State.endListening; split <;> rfl
@[simp] theorem State.endListening_pending (s : State) : (s.endListening).pending = s.pending := by unfold State.endListening; split <;> rfl

/-! ## The works among the commands, and an order that joins -/

@[simp] theorem State.testIdle_stationState (c : Nat) (s : State) : (s.testIdle c).stationState = s.stationState := by unfold State.testIdle; split <;> rfl
@[simp] theorem State.testIdle_powerGood (c : Nat) (s : State) : (s.testIdle c).powerGood = s.powerGood := by unfold State.testIdle; split <;> rfl
@[simp] theorem State.testIdle_pinAsserted (c : Nat) (s : State) : (s.testIdle c).pinAsserted = s.pinAsserted := by unfold State.testIdle; split <;> rfl
@[simp] theorem State.testIdle_startCause (c : Nat) (s : State) : (s.testIdle c).startCause = s.startCause := by unfold State.testIdle; split <;> rfl
@[simp] theorem State.testIdle_stationNo (c : Nat) (s : State) : (s.testIdle c).stationNo = s.stationNo := by unfold State.testIdle; split <;> rfl
@[simp] theorem State.testIdle_configFault (c : Nat) (s : State) : (s.testIdle c).configFault = s.configFault := by unfold State.testIdle; split <;> rfl
@[simp] theorem State.testIdle_clampCount (c : Nat) (s : State) : (s.testIdle c).clampCount = s.clampCount := by unfold State.testIdle; split <;> rfl
@[simp] theorem State.testIdle_clampedItems (c : Nat) (s : State) : (s.testIdle c).clampedItems = s.clampedItems := by unfold State.testIdle; split <;> rfl
@[simp] theorem State.testIdle_bootReading (c : Nat) (s : State) : (s.testIdle c).bootReading = s.bootReading := by unfold State.testIdle; split <;> rfl
@[simp] theorem State.testIdle_listenLeft (c : Nat) (s : State) : (s.testIdle c).listenLeft = s.listenLeft := by unfold State.testIdle; split <;> rfl
@[simp] theorem State.testIdle_frameCount (c : Nat) (s : State) : (s.testIdle c).frameCount = s.frameCount := by unfold State.testIdle; split <;> rfl
@[simp] theorem State.testIdle_missCount (c : Nat) (s : State) : (s.testIdle c).missCount = s.missCount := by unfold State.testIdle; split <;> rfl
@[simp] theorem State.testIdle_cycleCount (c : Nat) (s : State) : (s.testIdle c).cycleCount = s.cycleCount := by unfold State.testIdle; split <;> rfl
@[simp] theorem State.testIdle_settings (c : Nat) (s : State) : (s.testIdle c).settings = s.settings := by unfold State.testIdle; split <;> rfl
@[simp] theorem State.testIdle_windows (c : Nat) (s : State) : (s.testIdle c).windows = s.windows := by unfold State.testIdle; split <;> rfl
@[simp] theorem State.testIdle_peers (c : Nat) (s : State) : (s.testIdle c).peers = s.peers := by unfold State.testIdle; split <;> rfl
@[simp] theorem State.testIdle_paused (c : Nat) (s : State) : (s.testIdle c).paused = s.paused := by unfold State.testIdle; split <;> rfl
@[simp] theorem State.testIdle_orderQueue (c : Nat) (s : State) : (s.testIdle c).orderQueue = s.orderQueue := by unfold State.testIdle; split <;> rfl
@[simp] theorem State.testIdle_orderOverflow (c : Nat) (s : State) : (s.testIdle c).orderOverflow = s.orderOverflow := by unfold State.testIdle; split <;> rfl
@[simp] theorem State.testIdle_replyQueue (c : Nat) (s : State) : (s.testIdle c).replyQueue = s.replyQueue := by unfold State.testIdle; split <;> rfl
@[simp] theorem State.testIdle_restartTaken (c : Nat) (s : State) : (s.testIdle c).restartTaken = s.restartTaken := by unfold State.testIdle; split <;> rfl
@[simp] theorem State.testIdle_switchIn (c : Nat) (s : State) : (s.testIdle c).switchIn = s.switchIn := by unfold State.testIdle; split <;> rfl
@[simp] theorem State.testIdle_legacyIn (c : Nat) (s : State) : (s.testIdle c).legacyIn = s.legacyIn := by unfold State.testIdle; split <;> rfl
@[simp] theorem State.testIdle_bearerPlaces (c : Nat) (s : State) : (s.testIdle c).bearerPlaces = s.bearerPlaces := by unfold State.testIdle; split <;> rfl
@[simp] theorem State.testIdle_servicePlace (c : Nat) (s : State) : (s.testIdle c).servicePlace = s.servicePlace := by unfold State.testIdle; split <;> rfl
@[simp] theorem State.testIdle_laneOut (c : Nat) (s : State) : (s.testIdle c).laneOut = s.laneOut := by unfold State.testIdle; split <;> rfl
@[simp] theorem State.testIdle_freeUsed (c : Nat) (s : State) : (s.testIdle c).freeUsed = s.freeUsed := by unfold State.testIdle; split <;> rfl
@[simp] theorem State.testIdle_pending (c : Nat) (s : State) : (s.testIdle c).pending = s.pending := by unfold State.testIdle; split <;> rfl

@[simp] theorem State.giveSlotEarly_stationState (c : Nat) (s : State) : (s.giveSlotEarly c).stationState = s.stationState := by unfold State.giveSlotEarly; split <;> rfl
@[simp] theorem State.giveSlotEarly_powerGood (c : Nat) (s : State) : (s.giveSlotEarly c).powerGood = s.powerGood := by unfold State.giveSlotEarly; split <;> rfl
@[simp] theorem State.giveSlotEarly_pinAsserted (c : Nat) (s : State) : (s.giveSlotEarly c).pinAsserted = s.pinAsserted := by unfold State.giveSlotEarly; split <;> rfl
@[simp] theorem State.giveSlotEarly_startCause (c : Nat) (s : State) : (s.giveSlotEarly c).startCause = s.startCause := by unfold State.giveSlotEarly; split <;> rfl
@[simp] theorem State.giveSlotEarly_stationNo (c : Nat) (s : State) : (s.giveSlotEarly c).stationNo = s.stationNo := by unfold State.giveSlotEarly; split <;> rfl
@[simp] theorem State.giveSlotEarly_configFault (c : Nat) (s : State) : (s.giveSlotEarly c).configFault = s.configFault := by unfold State.giveSlotEarly; split <;> rfl
@[simp] theorem State.giveSlotEarly_clampCount (c : Nat) (s : State) : (s.giveSlotEarly c).clampCount = s.clampCount := by unfold State.giveSlotEarly; split <;> rfl
@[simp] theorem State.giveSlotEarly_clampedItems (c : Nat) (s : State) : (s.giveSlotEarly c).clampedItems = s.clampedItems := by unfold State.giveSlotEarly; split <;> rfl
@[simp] theorem State.giveSlotEarly_bootReading (c : Nat) (s : State) : (s.giveSlotEarly c).bootReading = s.bootReading := by unfold State.giveSlotEarly; split <;> rfl
@[simp] theorem State.giveSlotEarly_listenLeft (c : Nat) (s : State) : (s.giveSlotEarly c).listenLeft = s.listenLeft := by unfold State.giveSlotEarly; split <;> rfl
@[simp] theorem State.giveSlotEarly_frameCount (c : Nat) (s : State) : (s.giveSlotEarly c).frameCount = s.frameCount := by unfold State.giveSlotEarly; split <;> rfl
@[simp] theorem State.giveSlotEarly_missCount (c : Nat) (s : State) : (s.giveSlotEarly c).missCount = s.missCount := by unfold State.giveSlotEarly; split <;> rfl
@[simp] theorem State.giveSlotEarly_cycleCount (c : Nat) (s : State) : (s.giveSlotEarly c).cycleCount = s.cycleCount := by unfold State.giveSlotEarly; split <;> rfl
@[simp] theorem State.giveSlotEarly_settings (c : Nat) (s : State) : (s.giveSlotEarly c).settings = s.settings := by unfold State.giveSlotEarly; split <;> rfl
@[simp] theorem State.giveSlotEarly_windows (c : Nat) (s : State) : (s.giveSlotEarly c).windows = s.windows := by unfold State.giveSlotEarly; split <;> rfl
@[simp] theorem State.giveSlotEarly_peers (c : Nat) (s : State) : (s.giveSlotEarly c).peers = s.peers := by unfold State.giveSlotEarly; split <;> rfl
@[simp] theorem State.giveSlotEarly_paused (c : Nat) (s : State) : (s.giveSlotEarly c).paused = s.paused := by unfold State.giveSlotEarly; split <;> rfl
@[simp] theorem State.giveSlotEarly_orderQueue (c : Nat) (s : State) : (s.giveSlotEarly c).orderQueue = s.orderQueue := by unfold State.giveSlotEarly; split <;> rfl
@[simp] theorem State.giveSlotEarly_orderOverflow (c : Nat) (s : State) : (s.giveSlotEarly c).orderOverflow = s.orderOverflow := by unfold State.giveSlotEarly; split <;> rfl
@[simp] theorem State.giveSlotEarly_replyQueue (c : Nat) (s : State) : (s.giveSlotEarly c).replyQueue = s.replyQueue := by unfold State.giveSlotEarly; split <;> rfl
@[simp] theorem State.giveSlotEarly_restartTaken (c : Nat) (s : State) : (s.giveSlotEarly c).restartTaken = s.restartTaken := by unfold State.giveSlotEarly; split <;> rfl
@[simp] theorem State.giveSlotEarly_todo (c : Nat) (s : State) : (s.giveSlotEarly c).todo = s.todo := by unfold State.giveSlotEarly; split <;> rfl
@[simp] theorem State.giveSlotEarly_switchIn (c : Nat) (s : State) : (s.giveSlotEarly c).switchIn = s.switchIn := by unfold State.giveSlotEarly; split <;> rfl
@[simp] theorem State.giveSlotEarly_legacyIn (c : Nat) (s : State) : (s.giveSlotEarly c).legacyIn = s.legacyIn := by unfold State.giveSlotEarly; split <;> rfl
@[simp] theorem State.giveSlotEarly_bearerPlaces (c : Nat) (s : State) : (s.giveSlotEarly c).bearerPlaces = s.bearerPlaces := by unfold State.giveSlotEarly; split <;> rfl
@[simp] theorem State.giveSlotEarly_servicePlace (c : Nat) (s : State) : (s.giveSlotEarly c).servicePlace = s.servicePlace := by unfold State.giveSlotEarly; split <;> rfl
@[simp] theorem State.giveSlotEarly_laneOut (c : Nat) (s : State) : (s.giveSlotEarly c).laneOut = s.laneOut := by unfold State.giveSlotEarly; split <;> rfl
@[simp] theorem State.giveSlotEarly_freeUsed (c : Nat) (s : State) : (s.giveSlotEarly c).freeUsed = s.freeUsed := by unfold State.giveSlotEarly; split <;> rfl
@[simp] theorem State.giveSlotEarly_pending (c : Nat) (s : State) : (s.giveSlotEarly c).pending = s.pending := by unfold State.giveSlotEarly; split <;> rfl

@[simp] theorem State.joinOrder_stationState (o : Order) (s : State) : (s.joinOrder o).stationState = s.stationState := by unfold State.joinOrder; split <;> rfl
@[simp] theorem State.joinOrder_powerGood (o : Order) (s : State) : (s.joinOrder o).powerGood = s.powerGood := by unfold State.joinOrder; split <;> rfl
@[simp] theorem State.joinOrder_pinAsserted (o : Order) (s : State) : (s.joinOrder o).pinAsserted = s.pinAsserted := by unfold State.joinOrder; split <;> rfl
@[simp] theorem State.joinOrder_startCause (o : Order) (s : State) : (s.joinOrder o).startCause = s.startCause := by unfold State.joinOrder; split <;> rfl
@[simp] theorem State.joinOrder_stationNo (o : Order) (s : State) : (s.joinOrder o).stationNo = s.stationNo := by unfold State.joinOrder; split <;> rfl
@[simp] theorem State.joinOrder_configFault (o : Order) (s : State) : (s.joinOrder o).configFault = s.configFault := by unfold State.joinOrder; split <;> rfl
@[simp] theorem State.joinOrder_clampCount (o : Order) (s : State) : (s.joinOrder o).clampCount = s.clampCount := by unfold State.joinOrder; split <;> rfl
@[simp] theorem State.joinOrder_clampedItems (o : Order) (s : State) : (s.joinOrder o).clampedItems = s.clampedItems := by unfold State.joinOrder; split <;> rfl
@[simp] theorem State.joinOrder_bootReading (o : Order) (s : State) : (s.joinOrder o).bootReading = s.bootReading := by unfold State.joinOrder; split <;> rfl
@[simp] theorem State.joinOrder_listenLeft (o : Order) (s : State) : (s.joinOrder o).listenLeft = s.listenLeft := by unfold State.joinOrder; split <;> rfl
@[simp] theorem State.joinOrder_frameCount (o : Order) (s : State) : (s.joinOrder o).frameCount = s.frameCount := by unfold State.joinOrder; split <;> rfl
@[simp] theorem State.joinOrder_missCount (o : Order) (s : State) : (s.joinOrder o).missCount = s.missCount := by unfold State.joinOrder; split <;> rfl
@[simp] theorem State.joinOrder_cycleCount (o : Order) (s : State) : (s.joinOrder o).cycleCount = s.cycleCount := by unfold State.joinOrder; split <;> rfl
@[simp] theorem State.joinOrder_settings (o : Order) (s : State) : (s.joinOrder o).settings = s.settings := by unfold State.joinOrder; split <;> rfl
@[simp] theorem State.joinOrder_windows (o : Order) (s : State) : (s.joinOrder o).windows = s.windows := by unfold State.joinOrder; split <;> rfl
@[simp] theorem State.joinOrder_peers (o : Order) (s : State) : (s.joinOrder o).peers = s.peers := by unfold State.joinOrder; split <;> rfl
@[simp] theorem State.joinOrder_paused (o : Order) (s : State) : (s.joinOrder o).paused = s.paused := by unfold State.joinOrder; split <;> rfl
@[simp] theorem State.joinOrder_replyQueue (o : Order) (s : State) : (s.joinOrder o).replyQueue = s.replyQueue := by unfold State.joinOrder; split <;> rfl
@[simp] theorem State.joinOrder_restartTaken (o : Order) (s : State) : (s.joinOrder o).restartTaken = s.restartTaken := by unfold State.joinOrder; split <;> rfl
@[simp] theorem State.joinOrder_trunk (o : Order) (s : State) : (s.joinOrder o).trunk = s.trunk := by unfold State.joinOrder; split <;> rfl
@[simp] theorem State.joinOrder_todo (o : Order) (s : State) : (s.joinOrder o).todo = s.todo := by unfold State.joinOrder; split <;> rfl
@[simp] theorem State.joinOrder_switchIn (o : Order) (s : State) : (s.joinOrder o).switchIn = s.switchIn := by unfold State.joinOrder; split <;> rfl
@[simp] theorem State.joinOrder_legacyIn (o : Order) (s : State) : (s.joinOrder o).legacyIn = s.legacyIn := by unfold State.joinOrder; split <;> rfl
@[simp] theorem State.joinOrder_bearerPlaces (o : Order) (s : State) : (s.joinOrder o).bearerPlaces = s.bearerPlaces := by unfold State.joinOrder; split <;> rfl
@[simp] theorem State.joinOrder_servicePlace (o : Order) (s : State) : (s.joinOrder o).servicePlace = s.servicePlace := by unfold State.joinOrder; split <;> rfl
@[simp] theorem State.joinOrder_laneOut (o : Order) (s : State) : (s.joinOrder o).laneOut = s.laneOut := by unfold State.joinOrder; split <;> rfl
@[simp] theorem State.joinOrder_freeUsed (o : Order) (s : State) : (s.joinOrder o).freeUsed = s.freeUsed := by unfold State.joinOrder; split <;> rfl
@[simp] theorem State.joinOrder_pending (o : Order) (s : State) : (s.joinOrder o).pending = s.pending := by unfold State.joinOrder; split <;> rfl

@[simp] theorem State.doWork_stationState (w : Work) (s : State) : (s.doWork w).stationState = s.stationState := by cases w <;> simp [State.doWork]
@[simp] theorem State.doWork_powerGood (w : Work) (s : State) : (s.doWork w).powerGood = s.powerGood := by cases w <;> simp [State.doWork]
@[simp] theorem State.doWork_pinAsserted (w : Work) (s : State) : (s.doWork w).pinAsserted = s.pinAsserted := by cases w <;> simp [State.doWork]
@[simp] theorem State.doWork_startCause (w : Work) (s : State) : (s.doWork w).startCause = s.startCause := by cases w <;> simp [State.doWork]
@[simp] theorem State.doWork_stationNo (w : Work) (s : State) : (s.doWork w).stationNo = s.stationNo := by cases w <;> simp [State.doWork]
@[simp] theorem State.doWork_configFault (w : Work) (s : State) : (s.doWork w).configFault = s.configFault := by cases w <;> simp [State.doWork]
@[simp] theorem State.doWork_clampCount (w : Work) (s : State) : (s.doWork w).clampCount = s.clampCount := by cases w <;> simp [State.doWork]
@[simp] theorem State.doWork_clampedItems (w : Work) (s : State) : (s.doWork w).clampedItems = s.clampedItems := by cases w <;> simp [State.doWork]
@[simp] theorem State.doWork_bootReading (w : Work) (s : State) : (s.doWork w).bootReading = s.bootReading := by cases w <;> simp [State.doWork]
@[simp] theorem State.doWork_frameCount (w : Work) (s : State) : (s.doWork w).frameCount = s.frameCount := by cases w <;> simp [State.doWork]
@[simp] theorem State.doWork_missCount (w : Work) (s : State) : (s.doWork w).missCount = s.missCount := by cases w <;> simp [State.doWork]
@[simp] theorem State.doWork_cycleCount (w : Work) (s : State) : (s.doWork w).cycleCount = s.cycleCount := by cases w <;> simp [State.doWork]
@[simp] theorem State.doWork_settings (w : Work) (s : State) : (s.doWork w).settings = s.settings := by cases w <;> simp [State.doWork]
@[simp] theorem State.doWork_windows (w : Work) (s : State) : (s.doWork w).windows = s.windows := by cases w <;> simp [State.doWork]
@[simp] theorem State.doWork_paused (w : Work) (s : State) : (s.doWork w).paused = s.paused := by cases w <;> simp [State.doWork]
@[simp] theorem State.doWork_orderQueue (w : Work) (s : State) : (s.doWork w).orderQueue = s.orderQueue := by cases w <;> simp [State.doWork]
@[simp] theorem State.doWork_orderOverflow (w : Work) (s : State) : (s.doWork w).orderOverflow = s.orderOverflow := by cases w <;> simp [State.doWork]
@[simp] theorem State.doWork_restartTaken (w : Work) (s : State) : (s.doWork w).restartTaken = s.restartTaken := by cases w <;> simp [State.doWork]
@[simp] theorem State.doWork_switchIn (w : Work) (s : State) : (s.doWork w).switchIn = s.switchIn := by cases w <;> simp [State.doWork]
@[simp] theorem State.doWork_legacyIn (w : Work) (s : State) : (s.doWork w).legacyIn = s.legacyIn := by cases w <;> simp [State.doWork]
@[simp] theorem State.doWork_laneOut (w : Work) (s : State) : (s.doWork w).laneOut = s.laneOut := by cases w <;> simp [State.doWork]
@[simp] theorem State.doWork_freeUsed (w : Work) (s : State) : (s.doWork w).freeUsed = s.freeUsed := by cases w <;> simp [State.doWork]
@[simp] theorem State.doWork_pending (w : Work) (s : State) : (s.doWork w).pending = s.pending := by cases w <;> simp [State.doWork]

@[simp] theorem State.tick_stationState (s : State) : (s.tick).stationState = s.stationState := by unfold State.tick; split <;> simp
@[simp] theorem State.tick_powerGood (s : State) : (s.tick).powerGood = s.powerGood := by unfold State.tick; split <;> simp
@[simp] theorem State.tick_pinAsserted (s : State) : (s.tick).pinAsserted = s.pinAsserted := by unfold State.tick; split <;> simp
@[simp] theorem State.tick_startCause (s : State) : (s.tick).startCause = s.startCause := by unfold State.tick; split <;> simp
@[simp] theorem State.tick_stationNo (s : State) : (s.tick).stationNo = s.stationNo := by unfold State.tick; split <;> simp
@[simp] theorem State.tick_configFault (s : State) : (s.tick).configFault = s.configFault := by unfold State.tick; split <;> simp
@[simp] theorem State.tick_clampCount (s : State) : (s.tick).clampCount = s.clampCount := by unfold State.tick; split <;> simp
@[simp] theorem State.tick_clampedItems (s : State) : (s.tick).clampedItems = s.clampedItems := by unfold State.tick; split <;> simp
@[simp] theorem State.tick_bootReading (s : State) : (s.tick).bootReading = s.bootReading := by unfold State.tick; split <;> simp
@[simp] theorem State.tick_frameCount (s : State) : (s.tick).frameCount = s.frameCount := by unfold State.tick; split <;> simp
@[simp] theorem State.tick_missCount (s : State) : (s.tick).missCount = s.missCount := by unfold State.tick; split <;> simp
@[simp] theorem State.tick_cycleCount (s : State) : (s.tick).cycleCount = s.cycleCount := by unfold State.tick; split <;> simp
@[simp] theorem State.tick_settings (s : State) : (s.tick).settings = s.settings := by unfold State.tick; split <;> simp
@[simp] theorem State.tick_windows (s : State) : (s.tick).windows = s.windows := by unfold State.tick; split <;> simp
@[simp] theorem State.tick_paused (s : State) : (s.tick).paused = s.paused := by unfold State.tick; split <;> simp
@[simp] theorem State.tick_orderQueue (s : State) : (s.tick).orderQueue = s.orderQueue := by unfold State.tick; split <;> simp
@[simp] theorem State.tick_orderOverflow (s : State) : (s.tick).orderOverflow = s.orderOverflow := by unfold State.tick; split <;> simp
@[simp] theorem State.tick_restartTaken (s : State) : (s.tick).restartTaken = s.restartTaken := by unfold State.tick; split <;> simp
@[simp] theorem State.tick_switchIn (s : State) : (s.tick).switchIn = s.switchIn := by unfold State.tick; split <;> simp
@[simp] theorem State.tick_legacyIn (s : State) : (s.tick).legacyIn = s.legacyIn := by unfold State.tick; split <;> simp
@[simp] theorem State.tick_laneOut (s : State) : (s.tick).laneOut = s.laneOut := by unfold State.tick; split <;> simp
@[simp] theorem State.tick_freeUsed (s : State) : (s.tick).freeUsed = s.freeUsed := by unfold State.tick; split <;> simp
@[simp] theorem State.tick_pending (s : State) : (s.tick).pending = s.pending := by unfold State.tick; split <;> simp

/-- With no work asked for the block idles. -/
theorem State.tick_idle (s : State) (h : s.todo.between = []) : s.tick = s := by simp [State.tick, h]

@[simp] theorem State.onTrunk_stage (f : Ctx → Trunk → Trunk) (s : State) : (s.onTrunk f).stage = s.stage := rfl
@[simp] theorem State.setPeer_stage (p : Nat) (e : PeerEntry) (s : State) : (s.setPeer p e).stage = s.stage := rfl

/-- The stage outside LISTENING is the station state. -/
theorem State.stage_of_not_listening (s : State) (h : s.stationState ≠ .listening) : s.stage = s.stationState := by
  simp [State.stage, h]

/-! ## The trunk -/

@[simp] theorem Trunk.setCircuit_fallback (t : Trunk) (c : Nat) (r : Circuit) : (t.setCircuit c r).fallback = t.fallback := rfl
@[simp] theorem Trunk.setCircuit_waitQueue (t : Trunk) (c : Nat) (r : Circuit) : (t.setCircuit c r).waitQueue = t.waitQueue := rfl
@[simp] theorem Trunk.setCircuit_calendar (t : Trunk) (c : Nat) (r : Circuit) : (t.setCircuit c r).calendar = t.calendar := rfl
@[simp] theorem Trunk.setCircuit_reports (t : Trunk) (c : Nat) (r : Circuit) : (t.setCircuit c r).reports = t.reports := rfl
@[simp] theorem Trunk.setCircuit_reportOverflow (t : Trunk) (c : Nat) (r : Circuit) : (t.setCircuit c r).reportOverflow = t.reportOverflow := rfl

@[simp] theorem Trunk.modify_fallback (c : Nat) (f : Circuit → Circuit) (t : Trunk) : (t.modify c f).fallback = t.fallback := rfl
@[simp] theorem Trunk.modify_waitQueue (c : Nat) (f : Circuit → Circuit) (t : Trunk) : (t.modify c f).waitQueue = t.waitQueue := rfl
@[simp] theorem Trunk.modify_calendar (c : Nat) (f : Circuit → Circuit) (t : Trunk) : (t.modify c f).calendar = t.calendar := rfl
@[simp] theorem Trunk.modify_reports (c : Nat) (f : Circuit → Circuit) (t : Trunk) : (t.modify c f).reports = t.reports := rfl
@[simp] theorem Trunk.modify_reportOverflow (c : Nat) (f : Circuit → Circuit) (t : Trunk) : (t.modify c f).reportOverflow = t.reportOverflow := rfl

@[simp] theorem Trunk.mapCircuits_fallback (f : Nat → Circuit → Circuit) (t : Trunk) : (t.mapCircuits f).fallback = t.fallback := rfl
@[simp] theorem Trunk.mapCircuits_waitQueue (f : Nat → Circuit → Circuit) (t : Trunk) : (t.mapCircuits f).waitQueue = t.waitQueue := rfl
@[simp] theorem Trunk.mapCircuits_calendar (f : Nat → Circuit → Circuit) (t : Trunk) : (t.mapCircuits f).calendar = t.calendar := rfl
@[simp] theorem Trunk.mapCircuits_reports (f : Nat → Circuit → Circuit) (t : Trunk) : (t.mapCircuits f).reports = t.reports := rfl
@[simp] theorem Trunk.mapCircuits_reportOverflow (f : Nat → Circuit → Circuit) (t : Trunk) : (t.mapCircuits f).reportOverflow = t.reportOverflow := rfl

@[simp] theorem Trunk.enterReport_circuits (rep : Report) (t : Trunk) : (t.enterReport rep).circuits = t.circuits := by unfold Trunk.enterReport; split <;> rfl
@[simp] theorem Trunk.enterReport_fallback (rep : Report) (t : Trunk) : (t.enterReport rep).fallback = t.fallback := by unfold Trunk.enterReport; split <;> rfl
@[simp] theorem Trunk.enterReport_waitQueue (rep : Report) (t : Trunk) : (t.enterReport rep).waitQueue = t.waitQueue := by unfold Trunk.enterReport; split <;> rfl
@[simp] theorem Trunk.enterReport_calendar (rep : Report) (t : Trunk) : (t.enterReport rep).calendar = t.calendar := by unfold Trunk.enterReport; split <;> rfl

@[simp] theorem Trunk.setRow_circuits (k : Nat) (cs : List Nat) (t : Trunk) : (t.setRow k cs).circuits = t.circuits := rfl
@[simp] theorem Trunk.setRow_fallback (k : Nat) (cs : List Nat) (t : Trunk) : (t.setRow k cs).fallback = t.fallback := rfl
@[simp] theorem Trunk.setRow_waitQueue (k : Nat) (cs : List Nat) (t : Trunk) : (t.setRow k cs).waitQueue = t.waitQueue := rfl
@[simp] theorem Trunk.setRow_reports (k : Nat) (cs : List Nat) (t : Trunk) : (t.setRow k cs).reports = t.reports := rfl
@[simp] theorem Trunk.setRow_reportOverflow (k : Nat) (cs : List Nat) (t : Trunk) : (t.setRow k cs).reportOverflow = t.reportOverflow := rfl

@[simp] theorem Trunk.removeRecord_circuits (c : Nat) (t : Trunk) : (t.removeRecord c).circuits = t.circuits := rfl
@[simp] theorem Trunk.removeRecord_waitQueue (c : Nat) (t : Trunk) : (t.removeRecord c).waitQueue = t.waitQueue := rfl
@[simp] theorem Trunk.removeRecord_calendar (c : Nat) (t : Trunk) : (t.removeRecord c).calendar = t.calendar := rfl
@[simp] theorem Trunk.removeRecord_reports (c : Nat) (t : Trunk) : (t.removeRecord c).reports = t.reports := rfl
@[simp] theorem Trunk.removeRecord_reportOverflow (c : Nat) (t : Trunk) : (t.removeRecord c).reportOverflow = t.reportOverflow := rfl

@[simp] theorem Trunk.appendRecord_circuits (f : FallbackRecord) (t : Trunk) : (t.appendRecord f).circuits = t.circuits := by unfold Trunk.appendRecord; split <;> rfl
@[simp] theorem Trunk.appendRecord_waitQueue (f : FallbackRecord) (t : Trunk) : (t.appendRecord f).waitQueue = t.waitQueue := by unfold Trunk.appendRecord; split <;> rfl
@[simp] theorem Trunk.appendRecord_calendar (f : FallbackRecord) (t : Trunk) : (t.appendRecord f).calendar = t.calendar := by unfold Trunk.appendRecord; split <;> rfl
@[simp] theorem Trunk.appendRecord_reports (f : FallbackRecord) (t : Trunk) : (t.appendRecord f).reports = t.reports := by unfold Trunk.appendRecord; split <;> rfl
@[simp] theorem Trunk.appendRecord_reportOverflow (f : FallbackRecord) (t : Trunk) : (t.appendRecord f).reportOverflow = t.reportOverflow := by unfold Trunk.appendRecord; split <;> rfl

@[simp] theorem Trunk.addPending_circuits (c : Nat) (t : Trunk) : (t.addPending c).circuits = t.circuits := by simp [Trunk.addPending]
@[simp] theorem Trunk.addPending_waitQueue (c : Nat) (t : Trunk) : (t.addPending c).waitQueue = t.waitQueue := by simp [Trunk.addPending]
@[simp] theorem Trunk.addPending_calendar (c : Nat) (t : Trunk) : (t.addPending c).calendar = t.calendar := by simp [Trunk.addPending]
@[simp] theorem Trunk.addPending_reports (c : Nat) (t : Trunk) : (t.addPending c).reports = t.reports := by simp [Trunk.addPending]
@[simp] theorem Trunk.addPending_reportOverflow (c : Nat) (t : Trunk) : (t.addPending c).reportOverflow = t.reportOverflow := by simp [Trunk.addPending]

@[simp] theorem Trunk.recordLive_circuits (x : Ctx) (c : Nat) (t : Trunk) : (t.recordLive x c).circuits = t.circuits := by unfold Trunk.recordLive; split <;> simp
@[simp] theorem Trunk.recordLive_waitQueue (x : Ctx) (c : Nat) (t : Trunk) : (t.recordLive x c).waitQueue = t.waitQueue := by unfold Trunk.recordLive; split <;> simp
@[simp] theorem Trunk.recordLive_calendar (x : Ctx) (c : Nat) (t : Trunk) : (t.recordLive x c).calendar = t.calendar := by unfold Trunk.recordLive; split <;> simp
@[simp] theorem Trunk.recordLive_reports (x : Ctx) (c : Nat) (t : Trunk) : (t.recordLive x c).reports = t.reports := by unfold Trunk.recordLive; split <;> simp
@[simp] theorem Trunk.recordLive_reportOverflow (x : Ctx) (c : Nat) (t : Trunk) : (t.recordLive x c).reportOverflow = t.reportOverflow := by unfold Trunk.recordLive; split <;> simp

@[simp] theorem Trunk.queueUp_circuits (c : Nat) (t : Trunk) : (t.queueUp c).circuits = t.circuits := rfl
@[simp] theorem Trunk.queueUp_fallback (c : Nat) (t : Trunk) : (t.queueUp c).fallback = t.fallback := rfl
@[simp] theorem Trunk.queueUp_calendar (c : Nat) (t : Trunk) : (t.queueUp c).calendar = t.calendar := rfl
@[simp] theorem Trunk.queueUp_reports (c : Nat) (t : Trunk) : (t.queueUp c).reports = t.reports := rfl
@[simp] theorem Trunk.queueUp_reportOverflow (c : Nat) (t : Trunk) : (t.queueUp c).reportOverflow = t.reportOverflow := rfl

@[simp] theorem Trunk.leaveQueue_circuits (c : Nat) (t : Trunk) : (t.leaveQueue c).circuits = t.circuits := rfl
@[simp] theorem Trunk.leaveQueue_fallback (c : Nat) (t : Trunk) : (t.leaveQueue c).fallback = t.fallback := rfl
@[simp] theorem Trunk.leaveQueue_calendar (c : Nat) (t : Trunk) : (t.leaveQueue c).calendar = t.calendar := rfl
@[simp] theorem Trunk.leaveQueue_reports (c : Nat) (t : Trunk) : (t.leaveQueue c).reports = t.reports := rfl
@[simp] theorem Trunk.leaveQueue_reportOverflow (c : Nat) (t : Trunk) : (t.leaveQueue c).reportOverflow = t.reportOverflow := rfl

@[simp] theorem Trunk.endHold_circuits (c : Nat) (t : Trunk) : (t.endHold c).circuits = t.circuits := rfl
@[simp] theorem Trunk.endHold_waitQueue (c : Nat) (t : Trunk) : (t.endHold c).waitQueue = t.waitQueue := rfl
@[simp] theorem Trunk.endHold_calendar (c : Nat) (t : Trunk) : (t.endHold c).calendar = t.calendar := rfl
@[simp] theorem Trunk.endHold_reports (c : Nat) (t : Trunk) : (t.endHold c).reports = t.reports := rfl
@[simp] theorem Trunk.endHold_reportOverflow (c : Nat) (t : Trunk) : (t.endHold c).reportOverflow = t.reportOverflow := rfl

/-! ## The circuit record: what a change of state sets, and what it leaves -/

@[simp] theorem Circuit.enter_binding (st : CircuitState) (r : Circuit) : (r.enter st).binding = r.binding := rfl
@[simp] theorem Circuit.enter_peerPhase (st : CircuitState) (r : Circuit) : (r.enter st).peerPhase = r.peerPhase := rfl
@[simp] theorem Circuit.enter_ring (st : CircuitState) (r : Circuit) : (r.enter st).ring = r.ring := rfl
@[simp] theorem Circuit.enter_copperCode (st : CircuitState) (r : Circuit) : (r.enter st).copperCode = r.copperCode := rfl
@[simp] theorem Circuit.enter_fibreCode (st : CircuitState) (r : Circuit) : (r.enter st).fibreCode = r.fibreCode := rfl
@[simp] theorem Circuit.enter_deliveredCode (st : CircuitState) (r : Circuit) : (r.enter st).deliveredCode = r.deliveredCode := rfl
@[simp] theorem Circuit.enter_guard (st : CircuitState) (r : Circuit) : (r.enter st).guard = r.guard := rfl
@[simp] theorem Circuit.enter_silence (st : CircuitState) (r : Circuit) : (r.enter st).silence = r.silence := rfl
@[simp] theorem Circuit.enter_deferredRevert (st : CircuitState) (r : Circuit) : (r.enter st).deferredRevert = r.deferredRevert := rfl
@[simp] theorem Circuit.enter_releaseCells (st : CircuitState) (r : Circuit) : (r.enter st).releaseCells = r.releaseCells := rfl
@[simp] theorem Circuit.enter_calendarRow (st : CircuitState) (r : Circuit) : (r.enter st).calendarRow = r.calendarRow := rfl
@[simp] theorem Circuit.enter_counters (st : CircuitState) (r : Circuit) : (r.enter st).counters = r.counters := rfl
@[simp] theorem Circuit.enter_path (st : CircuitState) (r : Circuit) : (r.enter st).path = r.path := rfl
@[simp] theorem Circuit.enter_capture (st : CircuitState) (r : Circuit) : (r.enter st).capture = r.capture := rfl
@[simp] theorem Circuit.enter_captureCode (st : CircuitState) (r : Circuit) : (r.enter st).captureCode = r.captureCode := rfl
@[simp] theorem Circuit.enter_history (st : CircuitState) (r : Circuit) : (r.enter st).history = r.history := rfl
@[simp] theorem Circuit.enter_playout (st : CircuitState) (r : Circuit) : (r.enter st).playout = r.playout := rfl

@[simp] theorem Circuit.enter_state (st : CircuitState) (r : Circuit) : (r.enter st).state = st := rfl
@[simp] theorem Circuit.enter_lastReported (st : CircuitState) (r : Circuit) : (r.enter st).lastReported = none := rfl
@[simp] theorem Circuit.enter_stateTimer (st : CircuitState) (r : Circuit) : (r.enter st).stateTimer = 0 := rfl
@[simp] theorem Circuit.enter_legacyReleased (st : CircuitState) (r : Circuit) : (r.enter st).legacyReleased = (r.legacyReleased && st.keepsRelease) := rfl
@[simp] theorem Circuit.enter_align (st : CircuitState) (r : Circuit) : (r.enter st).align = r.align.onEntry st := rfl
@[simp] theorem Circuit.enter_splice (st : CircuitState) (r : Circuit) : (r.enter st).splice = { r.splice with ripe := false } := rfl

@[simp] theorem Circuit.toBridging_binding (p : Params) (r : Circuit) : (r.toBridging p).binding = r.binding := rfl
@[simp] theorem Circuit.toBridging_copperCode (p : Params) (r : Circuit) : (r.toBridging p).copperCode = r.copperCode := rfl
@[simp] theorem Circuit.toBridging_fibreCode (p : Params) (r : Circuit) : (r.toBridging p).fibreCode = r.fibreCode := rfl
@[simp] theorem Circuit.toBridging_deliveredCode (p : Params) (r : Circuit) : (r.toBridging p).deliveredCode = r.deliveredCode := rfl
@[simp] theorem Circuit.toBridging_guard (p : Params) (r : Circuit) : (r.toBridging p).guard = r.guard := rfl
@[simp] theorem Circuit.toBridging_releaseCells (p : Params) (r : Circuit) : (r.toBridging p).releaseCells = r.releaseCells := rfl
@[simp] theorem Circuit.toBridging_calendarRow (p : Params) (r : Circuit) : (r.toBridging p).calendarRow = r.calendarRow := rfl
@[simp] theorem Circuit.toBridging_counters (p : Params) (r : Circuit) : (r.toBridging p).counters = r.counters := rfl
@[simp] theorem Circuit.toBridging_path (p : Params) (r : Circuit) : (r.toBridging p).path = r.path := rfl
@[simp] theorem Circuit.toBridging_capture (p : Params) (r : Circuit) : (r.toBridging p).capture = r.capture := rfl
@[simp] theorem Circuit.toBridging_captureCode (p : Params) (r : Circuit) : (r.toBridging p).captureCode = r.captureCode := rfl
@[simp] theorem Circuit.toBridging_history (p : Params) (r : Circuit) : (r.toBridging p).history = r.history := rfl

@[simp] theorem Circuit.toBridging_state (p : Params) (r : Circuit) : (r.toBridging p).state = .bridging := rfl

@[simp] theorem Circuit.toCopper_binding (r : Circuit) : (r.toCopper).binding = r.binding := rfl
@[simp] theorem Circuit.toCopper_peerPhase (r : Circuit) : (r.toCopper).peerPhase = r.peerPhase := rfl
@[simp] theorem Circuit.toCopper_copperCode (r : Circuit) : (r.toCopper).copperCode = r.copperCode := rfl
@[simp] theorem Circuit.toCopper_fibreCode (r : Circuit) : (r.toCopper).fibreCode = r.fibreCode := rfl
@[simp] theorem Circuit.toCopper_deliveredCode (r : Circuit) : (r.toCopper).deliveredCode = r.deliveredCode := rfl
@[simp] theorem Circuit.toCopper_guard (r : Circuit) : (r.toCopper).guard = r.guard := rfl
@[simp] theorem Circuit.toCopper_silence (r : Circuit) : (r.toCopper).silence = r.silence := rfl
@[simp] theorem Circuit.toCopper_calendarRow (r : Circuit) : (r.toCopper).calendarRow = r.calendarRow := rfl
@[simp] theorem Circuit.toCopper_counters (r : Circuit) : (r.toCopper).counters = r.counters := rfl
@[simp] theorem Circuit.toCopper_path (r : Circuit) : (r.toCopper).path = r.path := rfl
@[simp] theorem Circuit.toCopper_capture (r : Circuit) : (r.toCopper).capture = r.capture := rfl
@[simp] theorem Circuit.toCopper_captureCode (r : Circuit) : (r.toCopper).captureCode = r.captureCode := rfl
@[simp] theorem Circuit.toCopper_history (r : Circuit) : (r.toCopper).history = r.history := rfl
@[simp] theorem Circuit.toCopper_playout (r : Circuit) : (r.toCopper).playout = r.playout := rfl

@[simp] theorem Circuit.toCopper_state (r : Circuit) : (r.toCopper).state = .copper := rfl

@[simp] theorem Circuit.toDown_binding (r : Circuit) : (r.toDown).binding = r.binding := rfl
@[simp] theorem Circuit.toDown_peerPhase (r : Circuit) : (r.toDown).peerPhase = r.peerPhase := rfl
@[simp] theorem Circuit.toDown_copperCode (r : Circuit) : (r.toDown).copperCode = r.copperCode := rfl
@[simp] theorem Circuit.toDown_fibreCode (r : Circuit) : (r.toDown).fibreCode = r.fibreCode := rfl
@[simp] theorem Circuit.toDown_deliveredCode (r : Circuit) : (r.toDown).deliveredCode = r.deliveredCode := rfl
@[simp] theorem Circuit.toDown_silence (r : Circuit) : (r.toDown).silence = r.silence := rfl
@[simp] theorem Circuit.toDown_deferredRevert (r : Circuit) : (r.toDown).deferredRevert = r.deferredRevert := rfl
@[simp] theorem Circuit.toDown_releaseCells (r : Circuit) : (r.toDown).releaseCells = r.releaseCells := rfl
@[simp] theorem Circuit.toDown_calendarRow (r : Circuit) : (r.toDown).calendarRow = r.calendarRow := rfl
@[simp] theorem Circuit.toDown_counters (r : Circuit) : (r.toDown).counters = r.counters := rfl
@[simp] theorem Circuit.toDown_path (r : Circuit) : (r.toDown).path = r.path := rfl
@[simp] theorem Circuit.toDown_capture (r : Circuit) : (r.toDown).capture = r.capture := rfl
@[simp] theorem Circuit.toDown_captureCode (r : Circuit) : (r.toDown).captureCode = r.captureCode := rfl
@[simp] theorem Circuit.toDown_history (r : Circuit) : (r.toDown).history = r.history := rfl
@[simp] theorem Circuit.toDown_playout (r : Circuit) : (r.toDown).playout = r.playout := rfl

@[simp] theorem Circuit.toDown_state (r : Circuit) : (r.toDown).state = .down := rfl

@[simp] theorem Circuit.toHeld_binding (p : Params) (r : Circuit) : (r.toHeld p).binding = r.binding := rfl
@[simp] theorem Circuit.toHeld_peerPhase (p : Params) (r : Circuit) : (r.toHeld p).peerPhase = r.peerPhase := rfl
@[simp] theorem Circuit.toHeld_ring (p : Params) (r : Circuit) : (r.toHeld p).ring = r.ring := rfl
@[simp] theorem Circuit.toHeld_copperCode (p : Params) (r : Circuit) : (r.toHeld p).copperCode = r.copperCode := rfl
@[simp] theorem Circuit.toHeld_fibreCode (p : Params) (r : Circuit) : (r.toHeld p).fibreCode = r.fibreCode := rfl
@[simp] theorem Circuit.toHeld_deliveredCode (p : Params) (r : Circuit) : (r.toHeld p).deliveredCode = r.deliveredCode := rfl
@[simp] theorem Circuit.toHeld_guard (p : Params) (r : Circuit) : (r.toHeld p).guard = r.guard := rfl
@[simp] theorem Circuit.toHeld_silence (p : Params) (r : Circuit) : (r.toHeld p).silence = r.silence := rfl
@[simp] theorem Circuit.toHeld_deferredRevert (p : Params) (r : Circuit) : (r.toHeld p).deferredRevert = r.deferredRevert := rfl
@[simp] theorem Circuit.toHeld_releaseCells (p : Params) (r : Circuit) : (r.toHeld p).releaseCells = r.releaseCells := rfl
@[simp] theorem Circuit.toHeld_calendarRow (p : Params) (r : Circuit) : (r.toHeld p).calendarRow = r.calendarRow := rfl
@[simp] theorem Circuit.toHeld_counters (p : Params) (r : Circuit) : (r.toHeld p).counters = r.counters := rfl
@[simp] theorem Circuit.toHeld_path (p : Params) (r : Circuit) : (r.toHeld p).path = r.path := rfl
@[simp] theorem Circuit.toHeld_capture (p : Params) (r : Circuit) : (r.toHeld p).capture = r.capture := rfl
@[simp] theorem Circuit.toHeld_captureCode (p : Params) (r : Circuit) : (r.toHeld p).captureCode = r.captureCode := rfl
@[simp] theorem Circuit.toHeld_history (p : Params) (r : Circuit) : (r.toHeld p).history = r.history := rfl
@[simp] theorem Circuit.toHeld_playout (p : Params) (r : Circuit) : (r.toHeld p).playout = r.playout := rfl

@[simp] theorem Circuit.toHeld_state (p : Params) (r : Circuit) : (r.toHeld p).state = .held := rfl

@[simp] theorem Circuit.markReverse_state (k : ReverseKind) (fl : SpliceFlags) (r : Circuit) : (r.markReverse k fl).state = r.state := rfl
@[simp] theorem Circuit.markReverse_binding (k : ReverseKind) (fl : SpliceFlags) (r : Circuit) : (r.markReverse k fl).binding = r.binding := rfl
@[simp] theorem Circuit.markReverse_legacyReleased (k : ReverseKind) (fl : SpliceFlags) (r : Circuit) : (r.markReverse k fl).legacyReleased = r.legacyReleased := rfl
@[simp] theorem Circuit.markReverse_peerPhase (k : ReverseKind) (fl : SpliceFlags) (r : Circuit) : (r.markReverse k fl).peerPhase = r.peerPhase := rfl
@[simp] theorem Circuit.markReverse_align (k : ReverseKind) (fl : SpliceFlags) (r : Circuit) : (r.markReverse k fl).align = r.align := rfl
@[simp] theorem Circuit.markReverse_ring (k : ReverseKind) (fl : SpliceFlags) (r : Circuit) : (r.markReverse k fl).ring = r.ring := rfl
@[simp] theorem Circuit.markReverse_copperCode (k : ReverseKind) (fl : SpliceFlags) (r : Circuit) : (r.markReverse k fl).copperCode = r.copperCode := rfl
@[simp] theorem Circuit.markReverse_fibreCode (k : ReverseKind) (fl : SpliceFlags) (r : Circuit) : (r.markReverse k fl).fibreCode = r.fibreCode := rfl
@[simp] theorem Circuit.markReverse_deliveredCode (k : ReverseKind) (fl : SpliceFlags) (r : Circuit) : (r.markReverse k fl).deliveredCode = r.deliveredCode := rfl
@[simp] theorem Circuit.markReverse_guard (k : ReverseKind) (fl : SpliceFlags) (r : Circuit) : (r.markReverse k fl).guard = r.guard := rfl
@[simp] theorem Circuit.markReverse_stateTimer (k : ReverseKind) (fl : SpliceFlags) (r : Circuit) : (r.markReverse k fl).stateTimer = r.stateTimer := rfl
@[simp] theorem Circuit.markReverse_silence (k : ReverseKind) (fl : SpliceFlags) (r : Circuit) : (r.markReverse k fl).silence = r.silence := rfl
@[simp] theorem Circuit.markReverse_deferredRevert (k : ReverseKind) (fl : SpliceFlags) (r : Circuit) : (r.markReverse k fl).deferredRevert = r.deferredRevert := rfl
@[simp] theorem Circuit.markReverse_releaseCells (k : ReverseKind) (fl : SpliceFlags) (r : Circuit) : (r.markReverse k fl).releaseCells = r.releaseCells := rfl
@[simp] theorem Circuit.markReverse_calendarRow (k : ReverseKind) (fl : SpliceFlags) (r : Circuit) : (r.markReverse k fl).calendarRow = r.calendarRow := rfl
@[simp] theorem Circuit.markReverse_lastReported (k : ReverseKind) (fl : SpliceFlags) (r : Circuit) : (r.markReverse k fl).lastReported = r.lastReported := rfl
@[simp] theorem Circuit.markReverse_counters (k : ReverseKind) (fl : SpliceFlags) (r : Circuit) : (r.markReverse k fl).counters = r.counters := rfl
@[simp] theorem Circuit.markReverse_path (k : ReverseKind) (fl : SpliceFlags) (r : Circuit) : (r.markReverse k fl).path = r.path := rfl
@[simp] theorem Circuit.markReverse_capture (k : ReverseKind) (fl : SpliceFlags) (r : Circuit) : (r.markReverse k fl).capture = r.capture := rfl
@[simp] theorem Circuit.markReverse_captureCode (k : ReverseKind) (fl : SpliceFlags) (r : Circuit) : (r.markReverse k fl).captureCode = r.captureCode := rfl
@[simp] theorem Circuit.markReverse_history (k : ReverseKind) (fl : SpliceFlags) (r : Circuit) : (r.markReverse k fl).history = r.history := rfl
@[simp] theorem Circuit.markReverse_playout (k : ReverseKind) (fl : SpliceFlags) (r : Circuit) : (r.markReverse k fl).playout = r.playout := rfl

@[simp] theorem Circuit.receive_state (cell : BearerCell) (r : Circuit) : (r.receive cell).state = r.state := rfl
@[simp] theorem Circuit.receive_binding (cell : BearerCell) (r : Circuit) : (r.receive cell).binding = r.binding := rfl
@[simp] theorem Circuit.receive_legacyReleased (cell : BearerCell) (r : Circuit) : (r.receive cell).legacyReleased = r.legacyReleased := rfl
@[simp] theorem Circuit.receive_peerPhase (cell : BearerCell) (r : Circuit) : (r.receive cell).peerPhase = r.peerPhase := rfl
@[simp] theorem Circuit.receive_align (cell : BearerCell) (r : Circuit) : (r.receive cell).align = r.align := rfl
@[simp] theorem Circuit.receive_ring (cell : BearerCell) (r : Circuit) : (r.receive cell).ring = r.ring := rfl
@[simp] theorem Circuit.receive_splice (cell : BearerCell) (r : Circuit) : (r.receive cell).splice = r.splice := rfl
@[simp] theorem Circuit.receive_copperCode (cell : BearerCell) (r : Circuit) : (r.receive cell).copperCode = r.copperCode := rfl
@[simp] theorem Circuit.receive_deliveredCode (cell : BearerCell) (r : Circuit) : (r.receive cell).deliveredCode = r.deliveredCode := rfl
@[simp] theorem Circuit.receive_guard (cell : BearerCell) (r : Circuit) : (r.receive cell).guard = r.guard := rfl
@[simp] theorem Circuit.receive_stateTimer (cell : BearerCell) (r : Circuit) : (r.receive cell).stateTimer = r.stateTimer := rfl
@[simp] theorem Circuit.receive_deferredRevert (cell : BearerCell) (r : Circuit) : (r.receive cell).deferredRevert = r.deferredRevert := rfl
@[simp] theorem Circuit.receive_releaseCells (cell : BearerCell) (r : Circuit) : (r.receive cell).releaseCells = r.releaseCells := rfl
@[simp] theorem Circuit.receive_calendarRow (cell : BearerCell) (r : Circuit) : (r.receive cell).calendarRow = r.calendarRow := rfl
@[simp] theorem Circuit.receive_lastReported (cell : BearerCell) (r : Circuit) : (r.receive cell).lastReported = r.lastReported := rfl
@[simp] theorem Circuit.receive_path (cell : BearerCell) (r : Circuit) : (r.receive cell).path = r.path := rfl
@[simp] theorem Circuit.receive_capture (cell : BearerCell) (r : Circuit) : (r.receive cell).capture = r.capture := rfl
@[simp] theorem Circuit.receive_captureCode (cell : BearerCell) (r : Circuit) : (r.receive cell).captureCode = r.captureCode := rfl
@[simp] theorem Circuit.receive_history (cell : BearerCell) (r : Circuit) : (r.receive cell).history = r.history := rfl
@[simp] theorem Circuit.receive_playout (cell : BearerCell) (r : Circuit) : (r.receive cell).playout = r.playout := rfl

@[simp] theorem Circuit.push_state (off : Word) (r : Circuit) : (r.push off).state = r.state := rfl
@[simp] theorem Circuit.push_binding (off : Word) (r : Circuit) : (r.push off).binding = r.binding := rfl
@[simp] theorem Circuit.push_legacyReleased (off : Word) (r : Circuit) : (r.push off).legacyReleased = r.legacyReleased := rfl
@[simp] theorem Circuit.push_peerPhase (off : Word) (r : Circuit) : (r.push off).peerPhase = r.peerPhase := rfl
@[simp] theorem Circuit.push_align (off : Word) (r : Circuit) : (r.push off).align = r.align := rfl
@[simp] theorem Circuit.push_splice (off : Word) (r : Circuit) : (r.push off).splice = r.splice := rfl
@[simp] theorem Circuit.push_copperCode (off : Word) (r : Circuit) : (r.push off).copperCode = r.copperCode := rfl
@[simp] theorem Circuit.push_fibreCode (off : Word) (r : Circuit) : (r.push off).fibreCode = r.fibreCode := rfl
@[simp] theorem Circuit.push_deliveredCode (off : Word) (r : Circuit) : (r.push off).deliveredCode = r.deliveredCode := rfl
@[simp] theorem Circuit.push_guard (off : Word) (r : Circuit) : (r.push off).guard = r.guard := rfl
@[simp] theorem Circuit.push_stateTimer (off : Word) (r : Circuit) : (r.push off).stateTimer = r.stateTimer := rfl
@[simp] theorem Circuit.push_silence (off : Word) (r : Circuit) : (r.push off).silence = r.silence := rfl
@[simp] theorem Circuit.push_deferredRevert (off : Word) (r : Circuit) : (r.push off).deferredRevert = r.deferredRevert := rfl
@[simp] theorem Circuit.push_releaseCells (off : Word) (r : Circuit) : (r.push off).releaseCells = r.releaseCells := rfl
@[simp] theorem Circuit.push_calendarRow (off : Word) (r : Circuit) : (r.push off).calendarRow = r.calendarRow := rfl
@[simp] theorem Circuit.push_lastReported (off : Word) (r : Circuit) : (r.push off).lastReported = r.lastReported := rfl
@[simp] theorem Circuit.push_counters (off : Word) (r : Circuit) : (r.push off).counters = r.counters := rfl
@[simp] theorem Circuit.push_path (off : Word) (r : Circuit) : (r.push off).path = r.path := rfl
@[simp] theorem Circuit.push_capture (off : Word) (r : Circuit) : (r.push off).capture = r.capture := rfl
@[simp] theorem Circuit.push_captureCode (off : Word) (r : Circuit) : (r.push off).captureCode = r.captureCode := rfl
@[simp] theorem Circuit.push_history (off : Word) (r : Circuit) : (r.push off).history = r.history := rfl
@[simp] theorem Circuit.push_playout (off : Word) (r : Circuit) : (r.push off).playout = r.playout := rfl

@[simp] theorem Circuit.write_state (cell : BearerCell) (r : Circuit) : (r.write cell).state = r.state := rfl
@[simp] theorem Circuit.write_binding (cell : BearerCell) (r : Circuit) : (r.write cell).binding = r.binding := rfl
@[simp] theorem Circuit.write_legacyReleased (cell : BearerCell) (r : Circuit) : (r.write cell).legacyReleased = r.legacyReleased := rfl
@[simp] theorem Circuit.write_peerPhase (cell : BearerCell) (r : Circuit) : (r.write cell).peerPhase = r.peerPhase := rfl
@[simp] theorem Circuit.write_align (cell : BearerCell) (r : Circuit) : (r.write cell).align = r.align := rfl
@[simp] theorem Circuit.write_ring (cell : BearerCell) (r : Circuit) : (r.write cell).ring = r.ring := rfl
@[simp] theorem Circuit.write_splice (cell : BearerCell) (r : Circuit) : (r.write cell).splice = r.splice := rfl
@[simp] theorem Circuit.write_copperCode (cell : BearerCell) (r : Circuit) : (r.write cell).copperCode = r.copperCode := rfl
@[simp] theorem Circuit.write_fibreCode (cell : BearerCell) (r : Circuit) : (r.write cell).fibreCode = r.fibreCode := rfl
@[simp] theorem Circuit.write_deliveredCode (cell : BearerCell) (r : Circuit) : (r.write cell).deliveredCode = r.deliveredCode := rfl
@[simp] theorem Circuit.write_guard (cell : BearerCell) (r : Circuit) : (r.write cell).guard = r.guard := rfl
@[simp] theorem Circuit.write_stateTimer (cell : BearerCell) (r : Circuit) : (r.write cell).stateTimer = r.stateTimer := rfl
@[simp] theorem Circuit.write_silence (cell : BearerCell) (r : Circuit) : (r.write cell).silence = r.silence := rfl
@[simp] theorem Circuit.write_deferredRevert (cell : BearerCell) (r : Circuit) : (r.write cell).deferredRevert = r.deferredRevert := rfl
@[simp] theorem Circuit.write_releaseCells (cell : BearerCell) (r : Circuit) : (r.write cell).releaseCells = r.releaseCells := rfl
@[simp] theorem Circuit.write_calendarRow (cell : BearerCell) (r : Circuit) : (r.write cell).calendarRow = r.calendarRow := rfl
@[simp] theorem Circuit.write_lastReported (cell : BearerCell) (r : Circuit) : (r.write cell).lastReported = r.lastReported := rfl
@[simp] theorem Circuit.write_counters (cell : BearerCell) (r : Circuit) : (r.write cell).counters = r.counters := rfl
@[simp] theorem Circuit.write_path (cell : BearerCell) (r : Circuit) : (r.write cell).path = r.path := rfl
@[simp] theorem Circuit.write_capture (cell : BearerCell) (r : Circuit) : (r.write cell).capture = r.capture := rfl
@[simp] theorem Circuit.write_captureCode (cell : BearerCell) (r : Circuit) : (r.write cell).captureCode = r.captureCode := rfl
@[simp] theorem Circuit.write_history (cell : BearerCell) (r : Circuit) : (r.write cell).history = r.history := rfl

@[simp] theorem Circuit.clearTags_state (r : Circuit) : (r.clearTags).state = r.state := rfl
@[simp] theorem Circuit.clearTags_binding (r : Circuit) : (r.clearTags).binding = r.binding := rfl
@[simp] theorem Circuit.clearTags_legacyReleased (r : Circuit) : (r.clearTags).legacyReleased = r.legacyReleased := rfl
@[simp] theorem Circuit.clearTags_peerPhase (r : Circuit) : (r.clearTags).peerPhase = r.peerPhase := rfl
@[simp] theorem Circuit.clearTags_align (r : Circuit) : (r.clearTags).align = r.align := rfl
@[simp] theorem Circuit.clearTags_ring (r : Circuit) : (r.clearTags).ring = r.ring := rfl
@[simp] theorem Circuit.clearTags_splice (r : Circuit) : (r.clearTags).splice = r.splice := rfl
@[simp] theorem Circuit.clearTags_copperCode (r : Circuit) : (r.clearTags).copperCode = r.copperCode := rfl
@[simp] theorem Circuit.clearTags_fibreCode (r : Circuit) : (r.clearTags).fibreCode = r.fibreCode := rfl
@[simp] theorem Circuit.clearTags_deliveredCode (r : Circuit) : (r.clearTags).deliveredCode = r.deliveredCode := rfl
@[simp] theorem Circuit.clearTags_guard (r : Circuit) : (r.clearTags).guard = r.guard := rfl
@[simp] theorem Circuit.clearTags_stateTimer (r : Circuit) : (r.clearTags).stateTimer = r.stateTimer := rfl
@[simp] theorem Circuit.clearTags_silence (r : Circuit) : (r.clearTags).silence = r.silence := rfl
@[simp] theorem Circuit.clearTags_deferredRevert (r : Circuit) : (r.clearTags).deferredRevert = r.deferredRevert := rfl
@[simp] theorem Circuit.clearTags_releaseCells (r : Circuit) : (r.clearTags).releaseCells = r.releaseCells := rfl
@[simp] theorem Circuit.clearTags_calendarRow (r : Circuit) : (r.clearTags).calendarRow = r.calendarRow := rfl
@[simp] theorem Circuit.clearTags_lastReported (r : Circuit) : (r.clearTags).lastReported = r.lastReported := rfl
@[simp] theorem Circuit.clearTags_counters (r : Circuit) : (r.clearTags).counters = r.counters := rfl
@[simp] theorem Circuit.clearTags_path (r : Circuit) : (r.clearTags).path = r.path := rfl
@[simp] theorem Circuit.clearTags_capture (r : Circuit) : (r.clearTags).capture = r.capture := rfl
@[simp] theorem Circuit.clearTags_captureCode (r : Circuit) : (r.clearTags).captureCode = r.captureCode := rfl
@[simp] theorem Circuit.clearTags_history (r : Circuit) : (r.clearTags).history = r.history := rfl

/-! ## Reading a peer entry and a circuit after a change -/

@[simp] theorem State.peer_setPeer_same (p : Nat) (e : PeerEntry) (s : State) : (s.setPeer p e).peer p = e := by
  simp [State.peer, State.setPeer]

theorem State.peer_setPeer (p q : Nat) (e : PeerEntry) (s : State) :
    (s.setPeer p e).peer q = if q = p then e else s.peer q := by
  simp [State.peer, State.setPeer, Table.read_write]

/-- A number past the 256 circuits reads as a record at a start. -/
theorem Trunk.circuit_past (t : Trunk) {c : Nat} (h : ¬ c < 256) : t.circuit c = Circuit.start := by
  simp [Trunk.circuit, h]

/-- After a start every record is at its start values (R3). -/
@[simp] theorem Trunk.circuit_start (k : StartCause) (c : Nat) : (Trunk.start k).circuit c = Circuit.start := by
  unfold Trunk.circuit; split <;> rfl

theorem Trunk.circuit_setCircuit (t : Trunk) (c d : Nat) (r : Circuit) :
    (t.setCircuit c r).circuit d = if d = c ∧ c < 256 then r else t.circuit d := by
  unfold Trunk.circuit Trunk.setCircuit
  by_cases hd : d = c
  · subst hd; by_cases h : d < 256 <;> simp [h]
  · simp [hd, Table.read_write]

/-- The record of a circuit after one circuit was changed. -/
theorem Trunk.circuit_modify (t : Trunk) (c d : Nat) (f : Circuit → Circuit) :
    (t.modify c f).circuit d = if d = c ∧ c < 256 then f (t.circuit c) else t.circuit d := by
  simp [Trunk.modify, Trunk.circuit_setCircuit]

theorem Trunk.circuit_modify_same (t : Trunk) {c : Nat} (f : Circuit → Circuit) (h : c < 256) :
    (t.modify c f).circuit c = f (t.circuit c) := by simp [Trunk.circuit_modify, h]

theorem Trunk.circuit_modify_ne (t : Trunk) {c d : Nat} (f : Circuit → Circuit) (h : d ≠ c) :
    (t.modify c f).circuit d = t.circuit d := by simp [Trunk.circuit_modify, h]

/-- The record of a circuit after every circuit was changed. -/
theorem Trunk.circuit_mapCircuits (t : Trunk) (f : Nat → Circuit → Circuit) (d : Nat) :
    (t.mapCircuits f).circuit d = if d < 256 then f d (t.circuit d) else Circuit.start := by
  unfold Trunk.circuit Trunk.mapCircuits
  by_cases h : d < 256 <;> simp [h, Table.read_build, Trunk.circuit]

@[simp] theorem Trunk.circuit_enterReport (rep : Report) (t : Trunk) (d : Nat) :
    (t.enterReport rep).circuit d = t.circuit d := by simp [Trunk.circuit]

@[simp] theorem Trunk.circuit_setRow (k : Nat) (cs : List Nat) (t : Trunk) (d : Nat) :
    (t.setRow k cs).circuit d = t.circuit d := rfl

@[simp] theorem Trunk.circuit_removeRecord (c : Nat) (t : Trunk) (d : Nat) : (t.removeRecord c).circuit d = t.circuit d := rfl

@[simp] theorem Trunk.circuit_appendRecord (f : FallbackRecord) (t : Trunk) (d : Nat) :
    (t.appendRecord f).circuit d = t.circuit d := by simp [Trunk.circuit]

@[simp] theorem Trunk.circuit_addPending (c : Nat) (t : Trunk) (d : Nat) : (t.addPending c).circuit d = t.circuit d := by
  simp [Trunk.circuit]

@[simp] theorem Trunk.circuit_recordLive (x : Ctx) (c : Nat) (t : Trunk) (d : Nat) :
    (t.recordLive x c).circuit d = t.circuit d := by simp [Trunk.circuit]

@[simp] theorem Trunk.circuit_queueUp (c : Nat) (t : Trunk) (d : Nat) : (t.queueUp c).circuit d = t.circuit d := rfl

@[simp] theorem Trunk.circuit_leaveQueue (c : Nat) (t : Trunk) (d : Nat) : (t.leaveQueue c).circuit d = t.circuit d := rfl

@[simp] theorem Trunk.circuit_endHold (c : Nat) (t : Trunk) (d : Nat) : (t.endHold c).circuit d = t.circuit d := rfl

@[simp] theorem Trunk.row_setRow_same (k : Nat) (cs : List Nat) (t : Trunk) : (t.setRow k cs).row k = cs := by
  simp [Trunk.row, Trunk.setRow]

theorem Trunk.row_setRow (k j : Nat) (cs : List Nat) (t : Trunk) :
    (t.setRow k cs).row j = if j = k then cs else t.row j := by
  simp [Trunk.row, Trunk.setRow, Table.read_write]

@[simp] theorem Trunk.row_modify (c : Nat) (f : Circuit → Circuit) (t : Trunk) (k : Nat) : (t.modify c f).row k = t.row k := rfl

@[simp] theorem Trunk.row_mapCircuits (f : Nat → Circuit → Circuit) (t : Trunk) (k : Nat) :
    (t.mapCircuits f).row k = t.row k := rfl

end Sys2Proof.Machine
end

