-- ==== Sys2Proof/Laws/Circuits.lean ====
section
/-! SUPPORT. Everything the trunk's operations can do to a circuit record, said once: `Circuit.Rule` lists the changes, and
a property of records that every listed change keeps is kept by every operation. -/

namespace Sys2Proof.Machine

/-- `P` is kept by each change that an operation makes in the record of circuit `c`, with `x` as the rest of the station. -/
structure Circuit.Rule (x : Ctx) (P : Nat → Circuit → Prop) : Prop where
  reported : ∀ c r k, P c r → P c { r with lastReported := some k }
  joined : ∀ c r k, k < 40 → r.calendarRow = none → P c r → P c { r with calendarRow := some k }
  left : ∀ c r, P c r → P c { r with calendarRow := none }
  spliced : ∀ c r kind o d gap, r.align.offset = some o →
    (d ≤ x.settings.params.dmax ∨ r.splice.deficit = some d ∨ d = 0) → P c r → P c (r.spliceAt (x.frame + 1) kind o d gap)
  splicedBlind : ∀ c r kind, r.align.offset = none → P c r → P c (r.spliceBlind x.settings.params.guard kind)
  released : ∀ c r, r.state = .committed → r.peerPhase = some .committed → P c r → P c { r with legacyReleased := true }
  committed : ∀ c r, P c r → P c { r.enter .committed with deferredRevert := false }
  waiting : ∀ c r d, d ≤ x.settings.params.dmax → P c r →
    P c { r.enter .spliceWait with splice := { (r.enter .spliceWait).splice with deficit := some d } }
  excess : ∀ c r, P c r → P c { r.enter .aligned with splice := { (r.enter .aligned).splice with deficit := none } }
  aligned : ∀ c r, P c r → P c (r.enter .aligned)
  deficit : ∀ c r d, d ≤ x.settings.params.dmax → P c r → P c { r with splice := { r.splice with deficit := some d } }
  queued : ∀ c r, P c r → P c (r.enter .splicePending)
  bridged : ∀ c r, P c r → P c (r.toBridging x.settings.params)
  coppered : ∀ c r, P c r → P c r.toCopper
  reversed : ∀ c r k fl, P c r → P c (r.markReverse k fl).toCopper
  rebridged : ∀ c r fl, P c r → P c ((r.markReverse .urgent fl).toBridging x.settings.params)
  held : ∀ c r, P c r → P c (r.toHeld x.settings.params)
  downed : ∀ c r, P c r → P c r.toDown
  returned : ∀ c r, P c r → P c (r.enter .committed)
  phase : ∀ c r ph, P c r → P c { r with peerPhase := ph }
  found : ∀ c r o, P c r → P c { r.enter .aligned with align := { (r.enter .aligned).align with offset := some o } }
  verifyCleared : ∀ c r, P c r → P c { r with align := { r.align with verifyMiss := 0 } }
  realigning : ∀ c r, P c r → P c (r.backToBridging x.settings.params)
  offsetLost : ∀ c r, P c r → P c { r with align := { r.align with offset := none } }
  judged : ∀ c r e, P c r → P c { r with align := { r.align with judging := r.align.judging.filter (fun d => !(d == e)) } }
  searched : ∀ c r s, P c r → P c (r.search x.settings s)
  verified : ∀ c r s o, P c r → P c (r.verify x.settings s o)
  reverting : ∀ c r, P c r → P c { r.enter .revertWait with deferredRevert := false }
  deferred : ∀ c r, P c r → P c { r with deferredRevert := true }
  returnedToCopper : ∀ c r, P c r → P c (r.enter .copper)
  guardEnded : ∀ c r, P c r → P c r.guardEnd
  fillEnded : ∀ c r, P c r → P c (r.fillEnd x.frame)
  counted : ∀ c r, P c r → P c r.countBoundary
  idleCounted : ∀ c r b sw, P c r → P c (r.countIdle x.settings b sw)
  opened : ∀ c r, P c r → P c (r.openSlot x c)
  given : ∀ c r, P c r → P c (r.giveOnce x c)
  passed : ∀ c r sw lg, P c r → P c (r.passSlot sw lg c)
  received : ∀ c r cell, P c r → P c (r.receive cell)
  pushed : ∀ c r off, P c r → P c (r.push off)
  written : ∀ c r cell, P c r → P c (r.write cell)
  writtenJudged : ∀ c r off cell, P c r → P c (r.writeJudged off cell)
  obase : ∀ c r off, P c r → P c (r.takeObase off)
  window : ∀ c r s, P c r → P c (r.takeWindow x.frame s)
  releaseSent : ∀ c r, r.state = .copper → 0 < r.releaseCells → P c r → P c { r with releaseCells := r.releaseCells - 1 }

/-- `P` holds of every circuit record. -/
def Trunk.All (P : Nat → Circuit → Prop) (t : Trunk) : Prop := ∀ c, P c (t.circuit c)

variable {P : Nat → Circuit → Prop} {x : Ctx} {t : Trunk} {c : Nat}

theorem Trunk.All.of_eq {u : Trunk} (h : t.All P) (e : ∀ c, u.circuit c = t.circuit c) : u.All P := fun c => by
  rw [e]; exact h c

theorem Trunk.All.modify {f : Circuit → Circuit} (h : t.All P) (hf : P c (f (t.circuit c))) : (t.modify c f).All P := by
  intro d
  rw [Trunk.circuit_modify]
  split
  · rename_i he; rw [he.1]; exact hf
  · exact h d

theorem Trunk.All.ite {q : Prop} [Decidable q] {u v : Trunk} (hu : u.All P) (hv : v.All P) : (if q then u else v).All P := by
  split
  · exact hu
  · exact hv

theorem Trunk.All.mapCircuits {f : Nat → Circuit → Circuit} (h : t.All P)
    (hf : ∀ c, P c (t.circuit c) → P c (f c (t.circuit c))) : (t.mapCircuits f).All P := by
  intro d
  rw [Trunk.circuit_mapCircuits]
  split
  · exact hf d (h d)
  · rename_i hd; rw [← t.circuit_past hd]; exact h d

theorem Trunk.All.forEach {f : Nat → Trunk → Trunk} (h : t.All P) (hf : ∀ c u, u.All P → (f c u).All P) :
    (t.forEach f).All P := by
  have key : ∀ (cs : List Nat) (u : Trunk), u.All P → (cs.foldl (fun t c => f c t) u).All P := by
    intro cs
    induction cs with
    | nil => intro u hu; exact hu
    | cons a as ih => intro u hu; exact ih _ (hf a u hu)
  exact key _ _ h

/-! ## Reports, calendar, list -/

theorem Trunk.All.report (hr : Circuit.Rule x P) (h : t.All P) (k : ReportKind) (v : Option ReportVariant) (d : Option Nat)
    (fl : SpliceFlags) : (t.report x c k v d fl).All P := by
  unfold Trunk.report
  repeat' split
  all_goals first
    | exact h
    | exact h.of_eq (by simp)
    | exact (h.of_eq (by simp)).modify (by simpa using hr.reported c _ k (h c))

theorem Trunk.All.reportPlain (hr : Circuit.Rule x P) (h : t.All P) (k : ReportKind) : (t.reportPlain x c k).All P :=
  h.report hr k none none .clear

theorem Trunk.All.reportStation (h : t.All P) (p : Nat) (k : ReportKind) : (t.reportStation x p k).All P :=
  h.of_eq (by simp [Trunk.reportStation])

/-- The row a join takes is one of the 40. -/
theorem Trunk.emptiestRow_lt (t : Trunk) : t.emptiestRow < 40 := by
  have key : ∀ (ks : List Nat) (b : Nat), b < 40 → (∀ k ∈ ks, k < 40) →
      ks.foldl (fun best k => if (t.row k).length < (t.row best).length then k else best) b < 40 := by
    intro ks
    induction ks with
    | nil => intro b hb _; exact hb
    | cons k ks ih =>
      intro b hb hk
      refine ih _ ?_ (fun j hj => hk j (List.mem_cons_of_mem _ hj))
      dsimp only
      split
      · exact hk k (List.mem_cons_self ..)
      · exact hb
  exact key _ 0 (by omega) (fun k hk => List.mem_range.mp hk)

theorem Trunk.All.join (hr : Circuit.Rule x P) (h : t.All P) {u : Trunk} (hu : t.join c = some u) : u.All P := by
  unfold Trunk.join at hu
  split at hu
  · cases hu; exact h
  · rename_i hn
    simp only at hu
    split at hu
    · cases hu
      exact (h.of_eq (by simp)).modify (by simpa using hr.joined c _ _ t.emptiestRow_lt hn (h c))
    · cases hu

theorem Trunk.All.leaveCalendar (hr : Circuit.Rule x P) (h : t.All P) : (t.leaveCalendar c).All P := by
  unfold Trunk.leaveCalendar
  split
  · exact h
  · exact (h.of_eq (by simp)).modify (by simpa using hr.left c _ (h c))

/-! ## Splices, commits, servings -/

theorem Trunk.All.splice (hr : Circuit.Rule x P) (h : t.All P) (kind : SpliceKind) (d : Nat) (gap : Bool)
    (hd : d ≤ x.settings.params.dmax ∨ (t.circuit c).splice.deficit = some d ∨ d = 0) : (t.splice x c kind d gap).All P := by
  have h1 : (t.modify c (fun r =>
      match r.align.offset with
      | some o => r.spliceAt (x.frame + 1) kind o d gap
      | none => r.spliceBlind x.settings.params.guard kind)).All P := by
    refine Trunk.All.modify h ?_
    split
    · rename_i o ho; exact hr.spliced c _ kind o d gap ho hd (h c)
    · rename_i ho; exact hr.splicedBlind c _ kind ho (h c)
  exact Trunk.All.report hr (h1.of_eq (fun e => Trunk.circuit_recordLive _ _ _ e)) _ _ _ _

theorem Trunk.All.legacyRelease (hr : Circuit.Rule x P) (h : t.All P) : (t.legacyRelease x c).All P := by
  unfold Trunk.legacyRelease
  simp only
  split
  · rename_i hc
    exact (h.modify (hr.released c _ hc.1 hc.2.1 (h c))).reportPlain hr _
  · exact h

theorem Trunk.All.commit (hr : Circuit.Rule x P) (h : t.All P) (k : ReportKind) (d : Option Nat) :
    (t.commit x c k d).All P := by
  unfold Trunk.commit
  exact (((h.of_eq (by simp)).modify (by simpa using hr.committed c _ (h c))).report hr _ _ _ _).legacyRelease hr

theorem Trunk.All.forcedCommit (hr : Circuit.Rule x P) (h : t.All P) (v : Nat) : (t.forcedCommit x v c).All P :=
  Trunk.All.commit hr h _ _

theorem Trunk.All.request (hr : Circuit.Rule x P) (h : t.All P) {u : Trunk} (hu : t.request x c = some u) : u.All P := by
  unfold Trunk.request at hu
  repeat' split at hu
  all_goals cases hu
  · exact h
  · exact h.forcedCommit hr _

theorem Trunk.All.grant (hr : Circuit.Rule x P) (h : t.All P) (d : Nat) (hd : d ≤ x.settings.params.dmax) :
    (t.grant x c d).All P := by
  unfold Trunk.grant
  split
  · exact h.splice hr _ _ _ (Or.inr (Or.inr rfl))
  · exact (h.of_eq (by simp)).modify (by simpa using hr.waiting c _ d hd (h c))

theorem Trunk.All.delayExcess (hr : Circuit.Rule x P) (h : t.All P) (d : Nat) : (t.delayExcess x c d).All P := by
  unfold Trunk.delayExcess
  exact (h.modify (hr.excess c _ (h c))).report hr _ _ _ _

theorem Trunk.All.unserved (hr : Circuit.Rule x P) (h : t.All P) : (t.unserved c).All P :=
  h.modify (hr.aligned c _ (h c))

theorem Trunk.All.serveRoll (hr : Circuit.Rule x P) : ∀ (n : Nat) (t : Trunk), t.All P → (Trunk.serveRoll x n t).All P := by
  intro n
  induction n with
  | zero => intro t h; exact h
  | succ n ih =>
    intro t h
    unfold Trunk.serveRoll
    split
    · rename_i hd rest v _ _
      have h1 : ({ t with waitQueue := rest } : Trunk).All P := h
      simp only
      split
      · exact ih _ (h1.unserved hr)
      · split
        · exact ih _ (h1.delayExcess hr _)
        · rename_i hle
          have h2 := (h1.forcedCommit (c := hd) hr v).grant (c := hd) hr _ (Nat.le_of_not_lt hle)
          split
          · exact ih _ h2
          · exact h2
    · exact h

theorem Trunk.All.serveRoom (hr : Circuit.Rule x P) : ∀ (n : Nat) (t : Trunk), t.All P → (Trunk.serveRoom x n t).All P := by
  intro n
  induction n with
  | zero => intro t h; exact h
  | succ n ih =>
    intro t h
    unfold Trunk.serveRoom
    split
    · exact h
    · rename_i hd rest _
      have h1 : ({ t with waitQueue := rest } : Trunk).All P := h
      simp only
      split
      · split
        · exact ih _ (h1.unserved hr)
        · split
          · exact ih _ (h1.delayExcess hr _)
          · rename_i hle
            have h2 := h1.grant (c := hd) hr _ (Nat.le_of_not_lt hle)
            split
            · exact Trunk.All.serveRoll hr _ _ h2
            · exact ih _ h2
      · exact h

theorem Trunk.All.serve (hr : Circuit.Rule x P) (h : t.All P) : (t.serve x).All P := Trunk.All.serveRoom hr _ _ h

theorem Trunk.All.serveLive (hr : Circuit.Rule x P) (h : t.All P) : (t.serveLive x).All P := by
  unfold Trunk.serveLive
  split
  · exact Trunk.All.serveRoll hr _ _ h
  · exact h

theorem Trunk.All.spliceAndServe (hr : Circuit.Rule x P) (h : t.All P) (kind : SpliceKind) (d : Nat) (gap : Bool)
    (hd : d ≤ x.settings.params.dmax ∨ (t.circuit c).splice.deficit = some d ∨ d = 0) :
    (t.spliceAndServe x c kind d gap).All P := (h.splice hr kind d gap hd).serveLive hr

/-- A deficit field read as 0 where it is absent is one that a splice may use. -/
theorem Circuit.deficit_usable (r : Circuit) (m : Nat) :
    r.splice.deficit.getD 0 ≤ m ∨ r.splice.deficit = some (r.splice.deficit.getD 0) ∨ r.splice.deficit.getD 0 = 0 := by
  cases r.splice.deficit <;> simp

theorem Trunk.All.arrive (hr : Circuit.Rule x P) (h : t.All P) : (t.arrive x c).All P := by
  unfold Trunk.arrive
  split
  · unfold Trunk.arriveBridging
    split
    · split
      · rename_i u hu
        exact (h.request hr hu).spliceAndServe hr _ _ _ (Or.inr (Or.inr rfl))
      · exact h
    · exact h
  · unfold Trunk.arriveAligned
    simp only
    split
    · split
      · exact h
      · split
        · exact h.report hr _ _ _ _
        · rename_i hle
          split
          · rename_i u hu
            exact ((h.request hr hu).grant hr _ (Nat.le_of_not_lt hle)).serveLive hr
          · exact (h.of_eq (by simp)).modify (by simpa using hr.queued c _ (h c))
    · exact h
  · unfold Trunk.arriveWaiting
    simp only
    split
    · exact h
    · split
      · exact ((h.of_eq (t := t) (u := t.removeRecord c) (by simp)).delayExcess hr _).serve hr
      · rename_i hle
        split
        · exact h.spliceAndServe hr _ _ _ (Or.inr (Or.inr rfl))
        · have h1 := h.modify (c := c) (f := fun r => { r with splice := { r.splice with deficit := some _ } })
            (hr.deficit c _ _ (Nat.le_of_not_lt hle) (h c))
          split
          · exact h1.spliceAndServe hr _ _ _ (Or.inl (Nat.le_of_not_lt hle))
          · exact h1
  · exact h

/-! ## The controller -/

theorem Trunk.All.abandonWith (hr : Circuit.Rule x P) (h : t.All P) (k : Option ReportKind) :
    (t.abandonWith x c k).All P := by
  unfold Trunk.abandonWith Trunk.abandonCore
  have h1 : (((t.removeRecord c).leaveQueue c).modify c Circuit.toCopper).All P :=
    (h.of_eq (by simp)).modify (by simpa using hr.coppered c _ (h c))
  cases k with
  | none =>
    simp only
    split
    · exact h1.serve hr
    · exact h1
  | some k =>
    simp only
    split
    · exact (h1.reportPlain hr k).serve hr
    · exact h1.reportPlain hr k

theorem Trunk.All.reverseSplice (hr : Circuit.Rule x P) (h : t.All P) (k : ReverseKind) : (t.reverseSplice x c k).All P := by
  unfold Trunk.reverseSplice
  have h1 : ((t.removeRecord c).modify c (fun r => (r.markReverse k ((t.circuit c).judgeReverse x.settings (x.frame + 1)).1).toCopper)).All P :=
    (h.of_eq (by simp)).modify (by simpa using hr.reversed c _ k _ (h c))
  simp only
  split
  · exact (h1.report hr _ _ _ _).serve hr
  · exact h1.report hr _ _ _ _

theorem Trunk.All.reBridge (hr : Circuit.Rule x P) (h : t.All P) : (t.reBridge x c).All P := by
  unfold Trunk.reBridge
  exact (h.modify (hr.rebridged c _ _ (h c))).report hr _ _ _ _

theorem Trunk.All.joinOrReport (hr : Circuit.Rule x P) (h : t.All P) : (t.joinOrReport x c).All P := by
  unfold Trunk.joinOrReport
  split
  · rename_i u hu
    have hu := h.join hr hu
    exact hu.modify (hr.bridged c _ (hu c))
  · exact h.reportPlain hr _

theorem Trunk.All.follow (hr : Circuit.Rule x P) (h : t.All P) : (t.follow x c).All P := by
  unfold Trunk.follow
  simp only
  repeat' split
  all_goals first
    | exact h
    | exact h.joinOrReport hr

theorem Trunk.All.hold (hr : Circuit.Rule x P) (h : t.All P) : (t.hold x c).All P := by
  unfold Trunk.hold
  exact (h.modify (hr.held c _ (h c))).reportPlain hr _

theorem Trunk.All.heldReturn (hr : Circuit.Rule x P) (h : t.All P) (ph : Phase) : (t.heldReturn x c ph).All P := by
  unfold Trunk.heldReturn
  have h1 := (h.modify (c := c) (hr.returned c _ (h c))).legacyRelease hr (c := c)
  exact (h1.modify (hr.phase c _ _ (h1 c))).legacyRelease hr

theorem Trunk.All.goDown (hr : Circuit.Rule x P) (h : t.All P) : (t.goDown x c).All P := by
  unfold Trunk.goDown
  have h1 := h.leaveCalendar (c := c) hr
  exact (h1.modify (hr.downed c _ (h1 c))).reportPlain hr _

theorem Trunk.All.releaseCommitted (hr : Circuit.Rule x P) (h : t.All P) : (t.releaseCommitted x c).All P := by
  unfold Trunk.releaseCommitted
  split
  · exact h.goDown hr
  · exact h.reverseSplice hr _

theorem Trunk.All.react (hr : Circuit.Rule x P) (h : t.All P) (ph : Phase) : (t.react x c ph).All P := by
  have hp : (t.modify c (fun r => { r with peerPhase := some .committed })).All P := h.modify (hr.phase c _ _ (h c))
  unfold Trunk.react
  split
  · exact h
  · exact Trunk.All.ite (h.follow hr) h
  iterate 4 exact Trunk.All.ite (h.abandonWith hr _) h
  iterate 2 exact Trunk.All.ite (h.reverseSplice hr _) h
  · exact Trunk.All.ite (h.reBridge hr) (Trunk.All.ite (hp.legacyRelease hr) (Trunk.All.ite (h.releaseCommitted hr) h))
  · exact Trunk.All.ite (h.reBridge hr) (Trunk.All.ite (h.heldReturn hr _) (Trunk.All.ite (h.releaseCommitted hr) h))
  · exact Trunk.All.ite (h.joinOrReport hr) h

theorem Trunk.All.takePhase (hr : Circuit.Rule x P) (h : t.All P) (ph : Phase) : (t.takePhase x c ph).All P := by
  unfold Trunk.takePhase
  have h1 := h.react (c := c) hr ph
  exact h1.modify (hr.phase c _ _ (h1 c))

theorem Trunk.All.peerEvent (hr : Circuit.Rule x P) (h : t.All P) : (t.peerEvent x c).All P := by
  unfold Trunk.peerEvent
  have h1 := h.modify (c := c) (f := fun r => { r with peerPhase := none }) (hr.phase c _ none (h c))
  simp only
  split
  iterate 4 exact h1.abandonWith hr _
  iterate 2 exact h1.reverseSplice hr _
  · exact h1.hold hr
  · exact h1

theorem Trunk.All.peerEvents (hr : Circuit.Rule x P) (h : t.All P) (p : Nat) : (t.peerEvents x p).All P := by
  unfold Trunk.peerEvents
  refine h.forEach ?_
  intro c u hu
  exact Trunk.All.ite (hu.peerEvent hr) hu

/-! ## Alignment -/

theorem Trunk.All.alignmentFound (hr : Circuit.Rule x P) (h : t.All P) (o : Word) : (t.alignmentFound x c o).All P := by
  unfold Trunk.alignmentFound
  exact (h.modify (hr.found c _ o (h c))).report hr _ _ _ _

theorem Trunk.All.alignmentLost (hr : Circuit.Rule x P) (h : t.All P) : (t.alignmentLost x c).All P := by
  unfold Trunk.alignmentLost
  have h0 := h.modify (c := c) (f := fun r => { r with align := { r.align with verifyMiss := 0 } })
    (hr.verifyCleared c _ (h c))
  have h1 := ((h0.of_eq (u := ((t.modify c (fun r => { r with align := { r.align with verifyMiss := 0 } })).removeRecord c).leaveQueue c)
    (by simp)).modify (c := c) (f := Circuit.backToBridging x.settings.params)
    (by simpa using hr.realigning c _ (h0 c))).reportPlain (c := c) hr .alignLost
  simp only
  split
  iterate 3 exact Trunk.All.ite (h1.serve hr) h1
  iterate 3 exact (h0.modify (hr.offsetLost c _ (h0 c))).reportPlain hr _
  · exact h0

theorem Trunk.All.judgeWindow (hr : Circuit.Rule x P) (h : t.All P) (s : Word) : (t.judgeWindow x c s).All P := by
  have h1 := h.modify (c := c) (f := Circuit.search x.settings s) (hr.searched c _ s (h c))
  have h2 : ∀ o, (t.modify c (Circuit.verify x.settings s o)).All P := fun o => h.modify (hr.verified c _ s o (h c))
  unfold Trunk.judgeWindow
  simp only
  split
  · split
    · exact Trunk.All.ite (h1.alignmentFound hr _) h1
    · exact h1
  iterate 6
    split
    · exact Trunk.All.ite (Trunk.All.ite ((h2 _).alignmentLost hr) (h2 _)) h
    · exact h
  · exact h

theorem Trunk.All.windowJudgement (hr : Circuit.Rule x P) (h : t.All P) : (t.windowJudgement x c).All P := by
  unfold Trunk.windowJudgement
  split
  · exact h
  · exact (h.modify (hr.judged c _ _ (h c))).judgeWindow hr _

/-! ## Expiries and counts -/

theorem Trunk.All.alignmentTimeout (hr : Circuit.Rule x P) (h : t.All P) : (t.alignmentTimeout x c).All P := by
  unfold Trunk.alignmentTimeout; simp only; split
  · exact h.abandonWith hr _
  · exact h

theorem Trunk.All.bridgeIdle (hr : Circuit.Rule x P) (h : t.All P) : (t.bridgeIdle x c).All P := by
  unfold Trunk.bridgeIdle; simp only; split
  · exact h.abandonWith hr _
  · exact h

theorem Trunk.All.streamLoss (hr : Circuit.Rule x P) (h : t.All P) : (t.streamLoss x c).All P := by
  unfold Trunk.streamLoss; simp only
  repeat' split
  all_goals first
    | exact h
    | exact h.reverseSplice hr _
    | exact h.hold hr

theorem Trunk.All.peerHoldExpiry (hr : Circuit.Rule x P) (h : t.All P) : (t.peerHoldExpiry x c).All P := by
  unfold Trunk.peerHoldExpiry; simp only; split
  · exact h.goDown hr
  · exact h

theorem Trunk.All.toRevertWait (hr : Circuit.Rule x P) (h : t.All P) : (t.toRevertWait c).All P :=
  h.modify (hr.reverting c _ (h c))

theorem Trunk.All.holdExpiry (hr : Circuit.Rule x P) (h : t.All P) : (t.holdExpiry x c).All P := by
  unfold Trunk.holdExpiry
  have h1 : (t.endHold c).All P := h.of_eq (by simp)
  split
  · exact Trunk.All.ite (Trunk.All.ite (h1.toRevertWait hr) h1) h
  · exact h

theorem Trunk.All.settleExpiry (hr : Circuit.Rule x P) (h : t.All P) : (t.settleExpiry x c).All P := by
  unfold Trunk.settleExpiry
  have h1 : (t.endHold c).All P := h.of_eq (by simp)
  split
  · exact Trunk.All.ite (Trunk.All.ite (h1.toRevertWait hr) ((h.commit hr _ _).serve hr)) h
  · exact h

theorem Trunk.All.takeDue (hr : Circuit.Rule x P) (h : t.All P) : (t.takeDue x c).All P := by
  unfold Trunk.takeDue
  exact (((((h.alignmentTimeout hr).bridgeIdle hr).streamLoss hr).peerHoldExpiry hr).holdExpiry hr).settleExpiry hr

theorem Trunk.All.countBoundary (hr : Circuit.Rule x P) (h : t.All P) :
    t.countBoundary.All P := by
  unfold Trunk.countBoundary
  exact (h.mapCircuits (fun c hc => hr.counted c _ hc)).of_eq (fun _ => rfl)

theorem Trunk.All.countRelease (hr : Circuit.Rule x P) (h : t.All P) : (t.countRelease c).All P := by
  unfold Trunk.countRelease
  simp only
  split
  · rename_i hc
    have h1 := h.modify (c := c) (f := fun r => { r with releaseCells := r.releaseCells - 1 })
      (hr.releaseSent c _ hc.1 hc.2 (h c))
    split
    · exact h1.leaveCalendar hr
    · exact h1
  · exact h

theorem Trunk.All.countRow (hr : Circuit.Rule x P) (h : t.All P) : (t.countRow x).All P := by
  unfold Trunk.countRow
  have key : ∀ (cs : List Nat) (u : Trunk), u.All P → (cs.foldl (fun t c => t.countRelease c) u).All P := by
    intro cs
    induction cs with
    | nil => intro u hu; exact hu
    | cons a as ih => intro u hu; exact ih _ (hu.countRelease hr)
  exact key _ _ h

theorem Trunk.All.quietSplice (hr : Circuit.Rule x P) (h : t.All P) : (t.quietSplice x c).All P := by
  unfold Trunk.quietSplice
  simp only
  split
  · exact h.spliceAndServe hr _ _ _ (Circuit.deficit_usable _ _)
  · exact h

theorem Trunk.All.quietReverse (hr : Circuit.Rule x P) (h : t.All P) : (t.quietReverse x c).All P := by
  unfold Trunk.quietReverse
  simp only
  split
  · exact h.reverseSplice hr _
  · exact h

/-! ## A delivered cell -/

theorem Trunk.All.deliver (hr : Circuit.Rule x P) (h : t.All P) (cell : BearerCell) : (t.deliver x c cell).All P := by
  unfold Trunk.deliver
  have h1 := (h.bridgeIdle (c := c) hr).streamLoss (c := c) hr
  have h2 := (h1.modify (c := c) (hr.received c _ cell (h1 c))).takePhase (c := c) hr cell.phase
  unfold Trunk.workCell
  simp only
  split
  · refine Trunk.All.arrive hr (h2.modify ?_)
    exact hr.window c _ _ (hr.obase c _ _ (hr.written c _ _ (hr.pushed c _ _ (h2 c))))
  · split
    · split
      · exact h2.modify (hr.writtenJudged c _ _ _ (hr.pushed c _ _ (h2 c)))
      · refine h2.modify ?_
        have h3 := hr.writtenJudged c _ (x.frame - cell.ssn) cell (hr.pushed c _ (x.frame - cell.ssn) (h2 c))
        unfold Circuit.takeWindowFrom
        split
        · exact h3
        · exact hr.window c _ _ h3
    · exact h2

theorem Trunk.All.mismatch (hr : Circuit.Rule x P) (h : t.All P) (ph : Phase) : (t.mismatch x c ph).All P := by
  unfold Trunk.mismatch
  split
  · exact h.reportPlain hr _
  · exact h

/-! ## Orders -/

theorem Trunk.All.cutOne (hr : Circuit.Rule x P) (h : t.All P) : (t.cutOne x c).1.All P := by
  unfold Trunk.cutOne
  simp only
  split
  · exact h
  · repeat' split
    all_goals first
      | exact h
      | skip
    rename_i u hu
    have hu := h.join hr hu
    exact hu.modify (hr.bridged c _ (hu c))

theorem Trunk.All.revertOne (hr : Circuit.Rule x P) (h : t.All P) : (t.revertOne x c).1.All P := by
  unfold Trunk.revertOne
  repeat' split
  all_goals first
    | exact h
    | exact h.abandonWith hr _
    | exact h.modify (hr.deferred c _ (h c))
    | exact h.toRevertWait hr
    | exact h.modify (hr.returnedToCopper c _ (h c))

theorem Trunk.All.commitOne (hr : Circuit.Rule x P) (h : t.All P) : (t.commitOne x c).1.All P := by
  unfold Trunk.commitOne
  split
  all_goals first
    | exact h
    | exact (h.commit hr _ _).serve hr

theorem Trunk.All.forceOne (hr : Circuit.Rule x P) (h : t.All P) : (t.forceOne x c).1.All P := by
  unfold Trunk.forceOne
  simp only
  split
  all_goals first
    | exact h
    | exact h.spliceAndServe hr _ _ _ (Circuit.deficit_usable _ _)
    | exact h.reverseSplice hr _

theorem Trunk.All.runGroup {f : Nat → Trunk → Trunk × Option Reason} (hf : ∀ c u, u.All P → (f c u).1.All P) :
    ∀ (cs : List Nat) (t : Trunk), t.All P → (runGroup f cs t).1.All P := by
  intro cs
  induction cs with
  | nil => intro t h; exact h
  | cons a as ih => intro t h; exact ih _ (hf a t h)

theorem Trunk.All.resume (hr : Circuit.Rule x P) (h : t.All P) : (t.resume x).All P := by
  unfold Trunk.resume
  split
  · exact h.serve hr
  · exact h.serveLive hr

/-! ## Frames -/

theorem Trunk.All.openSlots (hr : Circuit.Rule x P) (h : t.All P) :
    (t.openSlots x).All P := by
  unfold Trunk.openSlots
  exact (h.mapCircuits (fun c hc => hr.opened c _ hc)).of_eq (fun _ => rfl)

end Sys2Proof.Machine
end

