-- ==== Sys2Proof/Laws/Delivery.lean ====
section
/-! SUPPORT. What the work on a delivered cell can do: the window it offers to the judging list (R60) and the positions of the
playout buffer it writes (R47). -/

namespace Sys2Proof.Machine

/-- R60: taking a window is an offer at Obase to the judging list, in a judging state. -/
theorem Circuit.takeWindow_eq (a s : Word) (r : Circuit) :
    r.takeWindow a s = match r.align.obase with
      | none => r
      | some ob =>
        if r.judges then { r with align := { r.align with judging := windowEntered a s ob r.align.judging } } else r := by
  unfold Circuit.takeWindow windowEntered
  cases r.align.obase with
  | none => rfl
  | some ob =>
    cases hj : r.judges with
    | false => simp
    | true =>
      simp only [Bool.true_and, if_true, diff, judgingFrame, Config.judgingEntries, Bool.and_eq_true, decide_eq_true_eq,
        Bool.not_eq_true', List.any_eq_false, beq_iff_eq, and_assoc, ne_eq]
      split
      next h => rw [if_pos ⟨of_decide_eq_true h.1, of_decide_eq_true h.2.1, h.2.2⟩]
      next h => rw [if_neg fun g => h ⟨decide_eq_true g.1, decide_eq_true g.2.1, g.2.2⟩]

theorem place512_ne (s : Word) {i : Nat} (h0 : 0 < i) (h : i < 512) : place512 (s + BitVec.ofNat 16 i) ≠ place512 s := by
  simp only [place512, BitVec.toNat_add, BitVec.toNat_ofNat]
  omega

theorem ssn_succ (s : Word) (i : Nat) : s + 1 + BitVec.ofNat 16 i = s + BitVec.ofNat 16 (i + 1) := by
  apply BitVec.eq_of_toNat_eq
  have h1 : (1 : Word).toNat = 1 := rfl
  simp only [BitVec.toNat_add, BitVec.toNat_ofNat, h1]
  omega

/-- R47: a position that no sample of the cell belongs to keeps what it held. -/
theorem read_writeCell_other (code : Code) (k : Nat) (bs : List Byte) :
    ∀ (p : Table PlayoutEntry) (s : Word), (∀ i, i < bs.length → k ≠ place512 (s + BitVec.ofNat 16 i)) →
      Table.read PlayoutEntry.start (writeCell code p s bs) k = Table.read PlayoutEntry.start p k := by
  induction bs with
  | nil => intro p s _; rfl
  | cons b bs ih =>
    intro p s h
    rw [writeCell, ih _ _ fun i hi => by rw [ssn_succ]; exact h (i + 1) (by simpa using hi), writePlayout]
    exact Table.read_write_ne _ _ _ (by simpa using h 0 (by simp))

/-- R47: the position of sample `i` of the cell holds it with its SSN and the cell's code. -/
theorem read_writeCell (code : Code) (bs : List Byte) :
    ∀ (p : Table PlayoutEntry) (s : Word) (i : Nat) (b : Byte), bs.length ≤ 512 → bs[i]? = some b →
      Table.read PlayoutEntry.start (writeCell code p s bs) (place512 (s + BitVec.ofNat 16 i)) =
        ⟨b, some (s + BitVec.ofNat 16 i), code⟩ := by
  induction bs with
  | nil => intro p s i b _ h; simp at h
  | cons c bs ih =>
    intro p s i b hl h
    have hl' : bs.length < 512 := by simpa using hl
    cases i with
    | succ i =>
      rw [writeCell, ← ssn_succ]
      exact ih _ _ i b hl'.le (by simpa using h)
    | zero =>
      obtain rfl : c = b := by simpa using h
      have h0 : s + BitVec.ofNat 16 0 = s := BitVec.add_zero s
      rw [h0, writeCell, read_writeCell_other, writePlayout, Table.read_write_same]
      intro i hi
      rw [ssn_succ]
      exact (place512_ne s (Nat.succ_pos i) (by omega)).symm

/-- R47: a delivered cell as it was received is written to its forty positions and to no other. -/
theorem Circuit.write_wroteCell (place : List Byte) (ph : Phase) (c : Nat) (r : Circuit) :
    r.wroteCell place (r.write (bearerOf place ph c)) := by
  have hs : (bearerOf place ph c).ssn = ssnOf place := by
    simp [bearerOf, ssnOf, fieldAt, List.range_succ]
  have hb : (bearerOf place ph c).samples.length = 40 := by simp [bearerOf, bytesFrom]
  refine ⟨fun i hi => ?_, fun u hu => ?_⟩
  · simp only [Circuit.positionOf, Circuit.write, hs]
    exact read_writeCell _ _ _ _ i _ (by omega) (by simp [bearerOf, bytesFrom, sampleOf, hi])
  · simp only [Circuit.positionOf, Circuit.write, hs]
    exact read_writeCell_other _ _ _ _ _ fun i hi => hu i (by omega)

end Sys2Proof.Machine
end

