-- ==== Sys2Proof/Laws/PerInstr.lean ====
section
/-! SUPPORT. What a well-formed command says of its operands, command by command: circuits below 256, stations and lanes
below 15, places and highways of the manual's sizes. -/

namespace Sys2Proof.Laws.Operands

/-- A highway lists slots 0..255, each at most once (R27). -/
def Slots (h : Highway) : Prop := (∀ e ∈ h, e.1 < 256) ∧ (h.map Prod.fst).Nodup

/-- The works among a frame's commands name circuits 0..255 (R2). -/
def Works (o : FrameOrder) : Prop := ∀ c, (Work.idle c ∈ o.between ∨ Work.slot c ∈ o.between) → c < 256

/-- What well-formedness says of each command's operands (R2, R27, R117, R134, 12 section 12.1). -/
def Range : Instr → Prop
  | .frameMarker sw lg _ order => Slots sw ∧ Slots lg ∧ Works order
  | .missedFrameMarker sw lg order => Slots sw ∧ Slots lg ∧ Works order
  | .bootReadComplete record => record.length ≤ 68
  | .bearerCell lane place => lane < 15 ∧ place.length = 46
  | .beacon lane place => lane < 15 ∧ place.length = 68
  | .orderCell lane place => lane < 15 ∧ place.length = 68
  | .replyCell lane place => lane < 15 ∧ place.length = 68
  | .peerLoss station => station < 15
  | .windowJudgement circuit => circuit < 256
  | .alignmentTimeout circuit => circuit < 256
  | .bridgeIdleWatchdog circuit => circuit < 256
  | .streamLoss circuit => circuit < 256
  | .peerHoldExpiry circuit => circuit < 256
  | .holdExpiry circuit => circuit < 256
  | .settleExpiry circuit => circuit < 256
  | .guardEnd circuit => circuit < 256
  | .fillEnd circuit => circuit < 256
  | .quietRunSplice circuit => circuit < 256
  | .quietRunReverseSplice circuit => circuit < 256
  | .lastReleaseCell circuit => circuit < 256
  | .powerOn => True
  | .resetPin => True
  | .timingLoss => True
  | .listeningEnd => True
  | .cut => True
  | .revert => True
  | .revertLast => True
  | .force => True
  | .commit => True
  | .pause => True
  | .resume => True
  | .queryCircuit => True
  | .queryStation => True
  | .takeReports => True
  | .restart => True
  | .orderStart => True
  | .resetPinRelease => True

/-- A command is well formed exactly when its operands are in their ranges. -/
def Statement (i : Instr) : Prop := i.wellFormed = true ↔ Range i

theorem slots_ok (h : Highway) : Highway.ok h = true ↔ Slots h := by
  simp [Highway.ok, Slots]

theorem works_ok (o : FrameOrder) : o.ok = true ↔ Works o := by
  simp only [FrameOrder.ok, List.all_eq_true, Works]
  constructor
  · rintro h c (hc | hc) <;> simpa [Work.ok, circuitOk] using h _ hc
  · intro h w hw
    cases w with
    | idle c => simpa [Work.ok, circuitOk] using h c (Or.inl hw)
    | slot c => simpa [Work.ok, circuitOk] using h c (Or.inr hw)
    | _ => rfl

theorem powerOn : Statement (.powerOn) := by simp [Statement, Range, Instr.wellFormed]
theorem resetPin : Statement (.resetPin) := by simp [Statement, Range, Instr.wellFormed]
theorem frameMarker (sw : Highway) (lg : Highway) (straps : BitVec 4) (order : FrameOrder) : Statement (.frameMarker sw lg straps order) :=
  by simp [Statement, Range, Instr.wellFormed, slots_ok, works_ok, and_assoc]
theorem missedFrameMarker (sw : Highway) (lg : Highway) (order : FrameOrder) : Statement (.missedFrameMarker sw lg order) :=
  by simp [Statement, Range, Instr.wellFormed, slots_ok, works_ok, and_assoc]
theorem timingLoss : Statement (.timingLoss) := by simp [Statement, Range, Instr.wellFormed]
theorem bootReadComplete (record : List Byte) : Statement (.bootReadComplete record) :=
  by simp [Statement, Range, Instr.wellFormed, bootRecordOk]
theorem listeningEnd : Statement (.listeningEnd) := by simp [Statement, Range, Instr.wellFormed]
theorem bearerCell (lane : Nat) (place : List Byte) : Statement (.bearerCell lane place) :=
  by simp [Statement, Range, Instr.wellFormed, stationOk, bearerPlaceOk]
theorem beacon (lane : Nat) (place : List Byte) : Statement (.beacon lane place) :=
  by simp [Statement, Range, Instr.wellFormed, stationOk, servicePlaceOk]
theorem orderCell (lane : Nat) (place : List Byte) : Statement (.orderCell lane place) :=
  by simp [Statement, Range, Instr.wellFormed, stationOk, servicePlaceOk]
theorem replyCell (lane : Nat) (place : List Byte) : Statement (.replyCell lane place) :=
  by simp [Statement, Range, Instr.wellFormed, stationOk, servicePlaceOk]
theorem windowJudgement (circuit : Nat) : Statement (.windowJudgement circuit) :=
  by simp [Statement, Range, Instr.wellFormed, circuitOk]
theorem alignmentTimeout (circuit : Nat) : Statement (.alignmentTimeout circuit) :=
  by simp [Statement, Range, Instr.wellFormed, circuitOk]
theorem bridgeIdleWatchdog (circuit : Nat) : Statement (.bridgeIdleWatchdog circuit) :=
  by simp [Statement, Range, Instr.wellFormed, circuitOk]
theorem streamLoss (circuit : Nat) : Statement (.streamLoss circuit) :=
  by simp [Statement, Range, Instr.wellFormed, circuitOk]
theorem peerHoldExpiry (circuit : Nat) : Statement (.peerHoldExpiry circuit) :=
  by simp [Statement, Range, Instr.wellFormed, circuitOk]
theorem holdExpiry (circuit : Nat) : Statement (.holdExpiry circuit) :=
  by simp [Statement, Range, Instr.wellFormed, circuitOk]
theorem settleExpiry (circuit : Nat) : Statement (.settleExpiry circuit) :=
  by simp [Statement, Range, Instr.wellFormed, circuitOk]
theorem guardEnd (circuit : Nat) : Statement (.guardEnd circuit) := by simp [Statement, Range, Instr.wellFormed, circuitOk]
theorem fillEnd (circuit : Nat) : Statement (.fillEnd circuit) := by simp [Statement, Range, Instr.wellFormed, circuitOk]
theorem peerLoss (station : Nat) : Statement (.peerLoss station) := by simp [Statement, Range, Instr.wellFormed, stationOk]
theorem quietRunSplice (circuit : Nat) : Statement (.quietRunSplice circuit) :=
  by simp [Statement, Range, Instr.wellFormed, circuitOk]
theorem quietRunReverseSplice (circuit : Nat) : Statement (.quietRunReverseSplice circuit) :=
  by simp [Statement, Range, Instr.wellFormed, circuitOk]
theorem lastReleaseCell (circuit : Nat) : Statement (.lastReleaseCell circuit) :=
  by simp [Statement, Range, Instr.wellFormed, circuitOk]
theorem cut : Statement (.cut) := by simp [Statement, Range, Instr.wellFormed]
theorem revert : Statement (.revert) := by simp [Statement, Range, Instr.wellFormed]
theorem revertLast : Statement (.revertLast) := by simp [Statement, Range, Instr.wellFormed]
theorem force : Statement (.force) := by simp [Statement, Range, Instr.wellFormed]
theorem commit : Statement (.commit) := by simp [Statement, Range, Instr.wellFormed]
theorem pause : Statement (.pause) := by simp [Statement, Range, Instr.wellFormed]
theorem resume : Statement (.resume) := by simp [Statement, Range, Instr.wellFormed]
theorem queryCircuit : Statement (.queryCircuit) := by simp [Statement, Range, Instr.wellFormed]
theorem queryStation : Statement (.queryStation) := by simp [Statement, Range, Instr.wellFormed]
theorem takeReports : Statement (.takeReports) := by simp [Statement, Range, Instr.wellFormed]
theorem restart : Statement (.restart) := by simp [Statement, Range, Instr.wellFormed]
theorem orderStart : Statement (.orderStart) := by simp [Statement, Range, Instr.wellFormed]
theorem resetPinRelease : Statement (.resetPinRelease) := by simp [Statement, Range, Instr.wellFormed]

end Sys2Proof.Laws.Operands
end

