-- ==== Sys2Proof/Laws/Serving.lean ====
section
/-! SUPPORT. What a report that passes the filter can do (R153, R154), and what a SEAMLESS splice that creates its record can
do (R17, R77, R82, R96): the grants with a deficit of 0 rest on them. -/

namespace Sys2Proof.Machine

/-- R153, R154: a report of a bound circuit whose last reported kind is another is entered, or counted as lost; of the trunk
nothing else changes but the circuit's last reported kind, and that when it is entered. -/
theorem Trunk.report_passes (x : Ctx) (t : Trunk) {c : Nat} {k : ReportKind} (v : Option ReportVariant) (d : Option Nat)
    (fl : SpliceFlags) {b : Binding} (hc : c < 256) (hb : (t.circuit c).binding = some b)
    (hk : (t.circuit c).lastReported ≠ some k) :
    t.entered (aboutCircuit x.cycles c b k v d fl) (t.report x c k v d fl) ∧ t.sameLists (t.report x c k v d fl) ∧
      t.sameOthers c (t.report x c k v d fl) ∧
      (t.report x c k v d fl).circuit c =
        { t.circuit c with lastReported := if t.reports.length < 64 then some k else (t.circuit c).lastReported } := by
  unfold Trunk.report
  rw [hb]
  simp only [hk, if_false, Config.reportPlaces]
  by_cases h : t.reports.length < 64
  · simp only [h, if_true, Trunk.enterReport, Config.reportPlaces]
    exact ⟨⟨fun _ => ⟨rfl, rfl⟩, fun g => absurd h (by omega)⟩, ⟨rfl, rfl, rfl⟩, fun d hd => Trunk.circuit_modify_ne _ _ hd,
      Trunk.circuit_modify_same _ _ hc⟩
  · simp only [h, if_false, Trunk.enterReport, Config.reportPlaces]
    exact ⟨⟨fun g => absurd g h, fun _ => ⟨rfl, rfl⟩⟩, ⟨rfl, rfl, rfl⟩, fun _ _ => rfl, rfl⟩

/-- R17, R77, R82, R96: a SEAMLESS splice of a circuit with O and without a record, while the list has room. -/
theorem Trunk.splice_seamless (x : Ctx) (t : Trunk) {c : Nat} {b : Binding} {o : Word} (hc : c < 256)
    (hb : (t.circuit c).binding = some b) (ho : (t.circuit c).align.offset = some o) (hr : t.recordOf c = none)
    (hl : t.fallback.length < 8) :
    let u := t.splice x c .seamless 0 false
    u.fallback = t.fallback ++ [x.liveRecord c] ∧ u.waitQueue = t.waitQueue ∧ u.calendar = t.calendar ∧ t.sameOthers c u ∧
      (t.circuit c).splicedSeamless o (u.circuit c) ∧
      t.entered (aboutCircuit x.cycles c b .spliced (some (.splice .seamless)) (some 0) ⟨false, false, false⟩) u := by
  -- the trunk with its record LIVE, before the report
  let w := (t.modify c (fun r => r.spliceAt (x.frame + 1) .seamless o 0 false)).recordLive x c
  have same : ∀ d, w.circuit d = (t.modify c (fun r => r.spliceAt (x.frame + 1) .seamless o 0 false)).circuit d := fun d => by
    simp [w, Trunk.circuit]
  have own : w.circuit c = (t.circuit c).spliceAt (x.frame + 1) .seamless o 0 false :=
    (same c).trans (Trunk.circuit_modify_same _ _ hc)
  have others : t.sameOthers c w := fun d hd => (same d).trans (Trunk.circuit_modify_ne _ _ hd)
  have list : w.fallback = t.fallback ++ [x.liveRecord c] := by
    have hr' : (t.modify c (fun r => r.spliceAt (x.frame + 1) .seamless o 0 false)).recordOf c = none := hr
    simp only [w, Trunk.recordLive, hr', Trunk.appendRecord, Trunk.hasRoom, Config.fallbackRecords, Trunk.modify_fallback, hl,
      decide_true, if_true]
    rfl
  have said : t.splice x c .seamless 0 false = w.report x c .spliced (some (.splice .seamless)) (some 0) .clear := by
    have hw : t.splice x c .seamless 0 false =
        w.report x c .spliced (some (.splice .seamless)) (w.circuit c).splice.deficit (w.circuit c).splice.flags := by
      simp only [Trunk.splice, w, Trunk.modify, ho]
    rw [hw, own]
    rfl
  obtain ⟨rep, ⟨lf, lq, lc⟩, ro, rc⟩ := w.report_passes x (some (.splice .seamless)) (some 0) .clear hc
    (b := b) (k := .spliced) (by rw [own]; exact hb) (by rw [own]; simp [Circuit.spliceAt])
  simp only [said]
  refine ⟨lf.trans list, lq.trans (by simp [w]), lc.trans (by simp [w]), fun d hd => (ro d hd).trans (others d hd), ?_, ?_⟩
  · rw [rc, own]
    simp [Circuit.splicedSeamless, Circuit.spliceAt, Circuit.enter, CircuitState.keepsRelease, AlignItems.onEntry]
  · have e1 : w.reports = t.reports := by simp [w]
    have e2 : w.reportOverflow = t.reportOverflow := by simp [w]
    unfold Trunk.entered at rep ⊢
    rwa [e1, e2] at rep

end Sys2Proof.Machine
end

