-- ==== Sys2Proof/Laws/Station.lean ====
section
/-! SUPPORT. A property of circuit records that every change of `Circuit.Rule` keeps is kept by every command. -/

namespace Sys2Proof.Machine

/-- The settings satisfy `Q`, and every circuit record satisfies `P`. -/
def State.Good (Q : Settings → Prop) (P : Nat → Circuit → Prop) (s : State) : Prop := Q s.settings ∧ s.trunk.All P

/-- `P` is kept by every listed change under settings that satisfy `Q` and by the binding at the end of the boot read, and holds
of a record at a start. -/
structure CircuitInvariant (Q : Settings → Prop) (P : Nat → Circuit → Prop) : Prop where
  rule : ∀ x : Ctx, Q x.settings → Circuit.Rule x P
  start : ∀ c, P c Circuit.start
  settings : Q Settings.start
  boot : ∀ m, Q (bootSettings m)
  bound : ∀ c r b, (∀ v, b = some v → v.window ≤ 7 ∧ v.peer ≤ 14 ∧ v.circuit ≤ 255) → P c r → P c (r.bind b)

variable {Q : Settings → Prop} {P : Nat → Circuit → Prop} {s : State}

theorem State.Good.of_eq {u : State} (h : s.Good Q P) (hs : u.settings = s.settings) (ht : u.trunk = s.trunk) : u.Good Q P := by
  unfold State.Good; rw [hs, ht]; exact h

theorem State.Good.ite {q : Prop} [Decidable q] {u v : State} (hu : u.Good Q P) (hv : v.Good Q P) :
    (if q then u else v).Good Q P := by
  split
  · exact hu
  · exact hv

theorem State.Good.onTrunk {f : Ctx → Trunk → Trunk} (h : s.Good Q P)
    (hf : ∀ x : Ctx, Q x.settings → (f x s.trunk).All P) : (s.onTrunk f).Good Q P := ⟨h.1, hf s.ctx h.1⟩

theorem State.Good.start (inv : CircuitInvariant Q P) (k : StartCause) (s : State) : (s.start k).Good Q P :=
  ⟨inv.settings, fun c => by
    have h := inv.start c
    rwa [← Trunk.circuit_start k c] at h⟩

theorem State.Good.countBoundary (inv : CircuitInvariant Q P) (h : s.Good Q P) : s.countBoundary.Good Q P :=
  ⟨h.1, Trunk.All.countBoundary (inv.rule s.ctx h.1) h.2⟩

theorem State.Good.settleBoundary (inv : CircuitInvariant Q P) (h : s.Good Q P) : s.settleBoundary.Good Q P :=
  State.Good.ite (h.countBoundary inv) h

theorem State.Good.countIdles (inv : CircuitInvariant Q P) (h : s.Good Q P) : s.countIdles.Good Q P := by
  unfold State.countIdles
  split
  · refine ⟨h.1, h.2.mapCircuits (fun c hc => ?_)⟩
    split
    · exact hc
    · exact (inv.rule s.ctx h.1).idleCounted c _ _ _ hc
  · exact h

theorem State.Good.testIdle (inv : CircuitInvariant Q P) (h : s.Good Q P) (c : Nat) : (s.testIdle c).Good Q P := by
  unfold State.testIdle
  split
  · exact ⟨h.1, h.2.modify ((inv.rule s.ctx h.1).idleCounted c _ _ _ (h.2 c))⟩
  · exact h

theorem State.Good.giveAll (inv : CircuitInvariant Q P) (h : s.Good Q P) : s.giveAll.Good Q P := by
  unfold State.giveAll
  split
  · exact ⟨h.1, h.2.mapCircuits (fun c hc => (inv.rule s.ctx h.1).given c _ hc)⟩
  · exact h

theorem Circuit.Rule.givenEarly {x : Ctx} (hr : Circuit.Rule x P) (c : Nat) (r : Circuit) (h : P c r) :
    P c (r.giveEarly x c) := by
  unfold Circuit.giveEarly
  split
  · exact h
  · exact hr.given c _ h

theorem State.Good.giveSome (inv : CircuitInvariant Q P) (h : s.Good Q P) : s.giveSome.Good Q P :=
  h.onTrunk (fun x hx => h.2.mapCircuits (fun c hc => (inv.rule x hx).givenEarly c _ hc))

theorem State.Good.giveSlotEarly (inv : CircuitInvariant Q P) (h : s.Good Q P) (c : Nat) : (s.giveSlotEarly c).Good Q P :=
  State.Good.ite (h.onTrunk (fun x hx => h.2.modify ((inv.rule x hx).givenEarly c _ (h.2 c)))) h

theorem State.Good.buildRow (inv : CircuitInvariant Q P) (h : s.Good Q P) : s.buildRow.Good Q P := by
  unfold State.buildRow
  split
  · exact ⟨h.1, h.2.countRow (inv.rule s.ctx h.1)⟩
  · exact h

theorem State.Good.fillService (h : s.Good Q P) : s.fillService.Good Q P := h.of_eq (by simp) (by simp)

theorem State.Good.doWork (inv : CircuitInvariant Q P) (h : s.Good Q P) (w : Work) : (s.doWork w).Good Q P := by
  cases w
  · exact h.settleBoundary inv
  · exact h.testIdle inv _
  · exact h.giveSlotEarly inv _
  · exact h.buildRow inv
  · exact h.fillService

theorem State.Good.tick (inv : CircuitInvariant Q P) (h : s.Good Q P) : s.tick.Good Q P := by
  unfold State.tick
  split
  · exact h
  · rename_i w ws _
    have h1 : ({ s with todo := { s.todo with between := ws } } : State).Good Q P := h.of_eq rfl rfl
    exact h1.doWork inv w

theorem State.Good.endListening (h : s.Good Q P) : s.endListening.Good Q P := h.of_eq (by simp) (by simp)

theorem State.Good.sendLane (h : s.Good Q P) : s.sendLane.Good Q P := h.of_eq rfl rfl

theorem State.Good.losePeer (inv : CircuitInvariant Q P) (h : s.Good Q P) (p : Nat) : (s.losePeer p).Good Q P := by
  unfold State.losePeer
  split
  · exact State.Good.onTrunk (h.of_eq rfl rfl)
      (fun x hx => Trunk.All.peerEvents (inv.rule x hx) (Trunk.All.reportStation h.2 _ _) p)
  · exact h

theorem State.Good.losePeers (inv : CircuitInvariant Q P) (h : s.Good Q P) : s.losePeers.Good Q P := by
  unfold State.losePeers
  have key : ∀ (ps : List Nat) (u : State), u.Good Q P → (ps.foldl (fun s p => s.losePeer p) u).Good Q P := by
    intro ps
    induction ps with
    | nil => intro u hu; exact hu
    | cons a as ih => intro u hu; exact ih _ (hu.losePeer inv a)
  exact key _ _ h

theorem State.Good.takeEvents (inv : CircuitInvariant Q P) (h : s.Good Q P) : s.takeEvents.Good Q P := by
  unfold State.takeEvents
  have h1 := (h.losePeers inv).onTrunk (f := fun x t => t.forEach (fun c t => t.takeDue x c))
    (fun x hx => (h.losePeers inv).2.forEach (fun c u hu => hu.takeDue (inv.rule x hx)))
  exact h1.endListening.onTrunk (fun x hx => h1.endListening.2.forEach (fun c u hu => hu.windowJudgement (inv.rule x hx)))

theorem State.Good.takeQuiet (inv : CircuitInvariant Q P) (h : s.Good Q P) : s.takeQuiet.Good Q P :=
  h.onTrunk (fun x hx => h.2.forEach (fun _ _ hu => (hu.quietSplice (inv.rule x hx)).quietReverse (inv.rule x hx)))

/-! ## Orders -/

theorem State.Good.onNamed {f : Ctx → Nat → Trunk → Trunk × Option Reason} (h : s.Good Q P)
    (hf : ∀ (x : Ctx) c (u : Trunk), Q x.settings → u.All P → (f x c u).1.All P) (o : Order) : (s.onNamed f o).1.Good Q P := by
  unfold State.onNamed
  split
  · exact ⟨h.1, hf s.ctx _ _ h.1 h.2⟩
  · exact ⟨h.1, Trunk.All.runGroup (fun c u hu => hf s.ctx c u h.1 hu) _ _ h.2⟩
  · exact h

theorem State.Good.act (inv : CircuitInvariant Q P) (h : s.Good Q P) (row : OrderRow) (o : Order) :
    (s.act row o).1.Good Q P := by
  cases row <;> simp only [State.act]
  · unfold State.doCut
    split
    · exact h.onNamed (fun x c u hx hu => hu.cutOne (inv.rule x hx)) o
    · unfold State.cutNotReady
      split
      · exact h
      · exact h.of_eq rfl rfl
      · exact h
  · exact h.onNamed (fun x c u hx hu => hu.revertOne (inv.rule x hx)) o
  · unfold State.doRevertLast
    split
    · exact h
    · exact ⟨h.1, h.2.revertOne (inv.rule s.ctx h.1)⟩
  · exact h.onNamed (fun x c u hx hu => hu.forceOne (inv.rule x hx)) o
  · exact h.onNamed (fun x c u hx hu => hu.commitOne (inv.rule x hx)) o
  · exact h.of_eq rfl rfl
  · unfold State.doResume
    split
    · exact State.Good.onTrunk (h.of_eq rfl rfl) (fun x hx => Trunk.All.resume (inv.rule x hx) h.2)
    · exact h
  · unfold State.doQueryCircuit
    simp only
    split <;> exact h
  · exact h
  · exact ⟨h.1, h.2⟩
  · exact h.of_eq rfl rfl

theorem State.Good.carryOut (inv : CircuitInvariant Q P) (h : s.Good Q P) (o : Order) : (s.carryOut o).1.Good Q P := by
  unfold State.carryOut
  split
  · unfold State.carryOutUnconfigured
    split
    · split
      · exact h
      · exact h.of_eq rfl rfl
    · exact h.of_eq rfl rfl
    · exact h.of_eq rfl rfl
  · split
    · exact h.of_eq rfl rfl
    · split
      · exact h.act inv _ o
      · exact h.of_eq rfl rfl

theorem State.Good.takeHead (inv : CircuitInvariant Q P) (h : s.Good Q P) : s.takeHead.Good Q P := by
  unfold State.takeHead
  split
  · exact h
  · rename_i o rest _
    exact State.Good.of_eq (State.Good.carryOut inv (State.Good.of_eq (u := { s with orderQueue := rest }) h rfl rfl) o) rfl rfl

theorem State.Good.takeOrders (inv : CircuitInvariant Q P) : ∀ (n : Nat) (s : State), s.Good Q P → (State.takeOrders n s).Good Q P := by
  intro n
  induction n with
  | zero => intro s h; exact h
  | succ n ih =>
    intro s h
    unfold State.takeOrders
    split
    · exact ih _ (h.takeHead inv)
    · exact h

theorem State.Good.takeAll (inv : CircuitInvariant Q P) (h : s.Good Q P) : s.takeAll.Good Q P :=
  State.Good.takeOrders inv _ _ h

theorem State.Good.takeNameless (inv : CircuitInvariant Q P) : ∀ (n : Nat) (s : State), s.Good Q P → (State.takeNameless n s).Good Q P := by
  intro n
  induction n with
  | zero => intro s h; exact h
  | succ n ih =>
    intro s h
    unfold State.takeNameless
    split
    · split
      · exact ih _ (h.takeHead inv)
      · exact h
    · exact h

theorem State.Good.takeAs (inv : CircuitInvariant Q P) (h : s.Good Q P) (row : OrderRow) : (s.takeAs row).Good Q P := by
  unfold State.takeAs
  have h1 := State.Good.takeNameless inv s.orderQueue.length s h
  simp only
  split
  · exact State.Good.ite (h1.takeHead inv) h
  · exact h

/-! ## Frames and starts -/

theorem State.Good.takeRest (inv : CircuitInvariant Q P) (h : s.Good Q P) : s.takeRest.Good Q P :=
  State.Good.ite (((((h.countIdles inv).giveAll inv).takeQuiet inv).takeEvents inv).takeAll inv)
    (((((h.takeEvents inv).takeAll inv).countIdles inv).giveAll inv).takeQuiet inv)

theorem State.Good.finishFrame (inv : CircuitInvariant Q P) (h : s.Good Q P) : s.finishFrame.Good Q P :=
  ((((h.settleBoundary inv).takeRest inv).buildRow inv).fillService.takeAll inv).sendLane

theorem State.Good.closeFrame (inv : CircuitInvariant Q P) (h : s.Good Q P) : s.closeFrame.Good Q P := by
  unfold State.closeFrame
  split
  · exact State.Good.start inv _ _
  · simp only
    split
    · exact State.Good.of_eq (State.Good.start inv .order s.finishFrame) rfl rfl
    · exact h.finishFrame inv

theorem State.Good.earlyWorks (inv : CircuitInvariant Q P) (h : s.Good Q P) (o : FrameOrder) : (s.earlyWorks o).Good Q P := by
  unfold State.earlyWorks
  have h1 : (if o.boundaryLast then s else s.settleBoundary).Good Q P := State.Good.ite h (h.settleBoundary inv)
  simp only
  generalize (if o.boundaryLast then s else s.settleBoundary) = s1 at *
  have h2 : (if o.idleFirst then s1.countIdles else s1).Good Q P := State.Good.ite (h1.countIdles inv) h1
  generalize (if o.idleFirst then s1.countIdles else s1) = s2 at *
  have h3 : (if o.selectFirst then s2.giveSome else s2).Good Q P := State.Good.ite (h2.giveSome inv) h2
  generalize (if o.selectFirst then s2.giveSome else s2) = s3 at *
  have h4 : (if o.buildFirst then s3.buildRow else s3).Good Q P := State.Good.ite (h3.buildRow inv) h3
  generalize (if o.buildFirst then s3.buildRow else s3) = s4 at *
  exact State.Good.ite h4.fillService h4

theorem State.Good.openFrame (inv : CircuitInvariant Q P) (h : s.Good Q P) (sw lg : Highway) (o : FrameOrder) :
    (s.openFrame sw lg o).Good Q P := by
  have h1 : (s.beginFrame sw lg o.eventsLast o.between).Good Q P := h.of_eq rfl rfl
  exact State.Good.earlyWorks inv
    (h1.onTrunk (fun x hx => Trunk.All.openSlots (inv.rule x hx) h1.2)) o

theorem State.Good.passThrough (inv : CircuitInvariant Q P) (h : s.Good Q P) (sw lg : Highway) : (s.passThrough sw lg).Good Q P :=
  ⟨h.1, h.2.mapCircuits (fun c hc => (inv.rule s.ctx h.1).passed c _ _ _ hc)⟩

theorem State.Good.markerInReset (inv : CircuitInvariant Q P) (h : s.Good Q P) (sw lg : Highway) (straps : BitVec 4)
    (o : FrameOrder) : (s.markerInReset sw lg straps o).Good Q P := by
  unfold State.markerInReset
  split
  · exact h.passThrough inv sw lg
  · have h1 : (s.beginLoading straps).Good Q P := h.of_eq rfl rfl
    exact h1.openFrame inv sw lg o

theorem State.Good.marker (inv : CircuitInvariant Q P) (h : s.Good Q P) (sw lg : Highway) (straps : BitVec 4)
    (o : FrameOrder) : (s.marker sw lg straps o).Good Q P := by
  unfold State.marker
  split
  · exact h.markerInReset inv sw lg straps o
  · have h1 := h.closeFrame inv
    simp only
    split
    · exact h1.markerInReset inv sw lg straps o
    · have h2 : ({ s.closeFrame with missCount := 0 } : State).Good Q P := h1.of_eq rfl rfl
      exact h2.openFrame inv sw lg o

theorem State.Good.missedMarker (inv : CircuitInvariant Q P) (h : s.Good Q P) (sw lg : Highway) (o : FrameOrder) :
    (s.missedMarker sw lg o).Good Q P := by
  unfold State.missedMarker
  split
  · exact h.passThrough inv sw lg
  · have h1 := h.closeFrame inv
    simp only
    split
    · exact h1.passThrough inv sw lg
    · have h2 : ({ s.closeFrame with missCount := countUp Config.missedMarkers s.closeFrame.missCount } : State).Good Q P :=
        h1.of_eq rfl rfl
      exact h2.openFrame inv sw lg o

theorem State.Good.bootReadComplete (inv : CircuitInvariant Q P) (h : s.Good Q P) (bs : List Byte) :
    (s.bootReadComplete bs).Good Q P := by
  unfold State.bootReadComplete
  split
  · unfold State.endRead
    split
    · exact h.of_eq rfl rfl
    · exact ⟨inv.boot _, h.2.mapCircuits (fun c hc => inv.bound c _ _ (bindingOf_range _ _ c) hc)⟩
  · exact h

/-! ## Cells -/

theorem State.Good.takeBearer (inv : CircuitInvariant Q P) (h : s.Good Q P) (p : Nat) (bs : List Byte) (ph : Phase) :
    (s.takeBearer p bs ph).Good Q P := by
  unfold State.takeBearer
  split
  · exact h.of_eq rfl rfl
  · simp only
    split
    · exact h.onTrunk (fun x hx => h.2.deliver (inv.rule x hx) _)
    · split
      · exact State.Good.onTrunk (h.of_eq rfl rfl) (fun x hx => Trunk.All.mismatch (inv.rule x hx) h.2 ph)
      · exact h.of_eq rfl rfl

theorem State.Good.judgeBeacon (inv : CircuitInvariant Q P) (h : s.Good Q P) (p n : Nat) : (s.judgeBeacon p n).Good Q P := by
  have h1 : (s.peerRestart p).Good Q P :=
    h.onTrunk (fun x hx => Trunk.All.reportStation (h.2.peerEvents (inv.rule x hx) p) _ _)
  have h2 : (s.onTrunk (fun x t => t.reportStation x p .peerBack)).Good Q P :=
    h.onTrunk (fun x _ => Trunk.All.reportStation h.2 _ _)
  unfold State.judgeBeacon
  split
  · exact h
  · exact State.Good.ite h1 h
  · exact h
  · exact State.Good.ite h1 h2
  · exact h2

theorem State.Good.takeBeacon (inv : CircuitInvariant Q P) (h : s.Good Q P) (p : Nat) (b : BeaconCell) :
    (s.takeBeacon p b).Good Q P :=
  State.Good.of_eq ((h.losePeer inv p).judgeBeacon inv p b.cycles) rfl rfl

theorem State.Good.joinOrder (h : s.Good Q P) (o : Order) : (s.joinOrder o).Good Q P :=
  State.Good.ite (h.of_eq rfl rfl) (h.of_eq rfl rfl)

theorem State.Good.takeOrderCell (inv : CircuitInvariant Q P) (h : s.Good Q P) (bs : List Byte) :
    (s.takeOrderCell bs).Good Q P := State.Good.ite ((h.takeAll inv).joinOrder _) h

theorem State.Good.receivePlace (inv : CircuitInvariant Q P) (h : s.Good Q P) (lane : Nat) (bs : List Byte) :
    (s.receivePlace lane bs).Good Q P := by
  unfold State.receivePlace
  split
  · exact h
  · split
    · exact h
    · split
      · unfold State.handOn
        split
        · split
          · exact State.Good.ite (h.takeBearer inv _ _ _) h
          · exact h
        · exact State.Good.ite (h.takeBeacon inv _ _) h
        · exact h.takeOrderCell inv bs
        · exact h
      · exact h.of_eq rfl rfl

/-! ## Every command -/

/-- A property of records that every listed change keeps holds after every command that completes. -/
theorem exec_keeps_circuits (inv : CircuitInvariant Q P) (i : Instr) (s s' : State) (h : s.Good Q P)
    (he : exec i s = .next s') : s'.Good Q P := by
  have hb := h.settleBoundary inv
  have hg : ∀ c, (s.giveSlotNow c).Good Q P := by
    intro c
    unfold State.giveSlotNow
    split
    · exact h
    · exact h.onTrunk (fun x hx => h.2.modify ((inv.rule x hx).given c _ (h.2 c)))
  cases i <;> simp only [exec] at he <;> injection he with he <;> subst he
  · exact State.Good.start inv _ _
  · exact State.Good.start inv _ _
  · exact h.marker inv _ _ _ _
  · exact h.missedMarker inv _ _ _
  · unfold State.timingLoss
    exact State.Good.ite (State.Good.start inv _ _) h
  · exact h.bootReadComplete inv _
  · exact hb.endListening
  · exact h.receivePlace inv _ _
  · exact h.receivePlace inv _ _
  · exact h.receivePlace inv _ _
  · exact h.receivePlace inv _ _
  · exact h.onTrunk (fun x hx => h.2.windowJudgement (inv.rule x hx))
  · exact hb.onTrunk (fun x hx => hb.2.alignmentTimeout (inv.rule x hx))
  · exact hb.onTrunk (fun x hx => hb.2.bridgeIdle (inv.rule x hx))
  · exact hb.onTrunk (fun x hx => hb.2.streamLoss (inv.rule x hx))
  · exact hb.onTrunk (fun x hx => hb.2.peerHoldExpiry (inv.rule x hx))
  · exact hb.onTrunk (fun x hx => hb.2.holdExpiry (inv.rule x hx))
  · exact hb.onTrunk (fun x hx => hb.2.settleExpiry (inv.rule x hx))
  · exact h.onTrunk (fun x hx => h.2.modify ((inv.rule x hx).guardEnded _ _ (h.2 _)))
  · exact h.onTrunk (fun x hx => h.2.modify ((inv.rule x hx).fillEnded _ _ (h.2 _)))
  · exact hb.losePeer inv _
  · rename_i c
    unfold State.quietRunSplice
    exact State.Good.ite ((hg c).onTrunk (fun x hx => (hg c).2.quietSplice (inv.rule x hx))) h
  · rename_i c
    unfold State.quietRunReverseSplice
    exact State.Good.ite ((hg c).onTrunk (fun x hx => (hg c).2.quietReverse (inv.rule x hx))) h
  · exact State.Good.ite (h.buildRow inv) h
  iterate 11 exact h.takeAs inv _
  · unfold State.orderStart
    exact State.Good.ite (h.closeFrame inv) h
  · unfold State.releasePin
    refine State.Good.ite (State.Good.ite (State.Good.start inv _ _) (h.of_eq rfl rfl)) h

/-- The same of a step. -/
theorem step_keeps_circuits (inv : CircuitInvariant Q P) (s s' : State) (h : s.Good Q P) (he : step s = .next s') :
    s'.Good Q P := by
  unfold step at he
  split at he
  · injection he with he
    subst he
    exact h.tick inv
  · rename_i i rest _
    exact exec_keeps_circuits inv i { s with pending := rest } s' (h.of_eq rfl rfl) he

end Sys2Proof.Machine
end

