-- ==== Sys2Proof/Tests/Slice0.lean ====
section
/-! SUPPORT. Tests: the checks of well-formedness, the manual's worked numbers, one step on a small station, and for every
statement that has hypotheses a station and operands that meet them together. -/

open Sys2Proof Sys2Proof.Machine

namespace Sys2Proof.Tests

/-! ## A small station -/

/-- A window to station 3 that maps every circuit to its own number, and is matched. -/
def window : Window := ⟨true, 3, 0, 0, 256, .valid, true⟩

/-- Circuit 4 after LISTENING: in COPPER, bound by the window. -/
def copper : Circuit := { Circuit.start with state := .copper, binding := some ⟨0, 3, 4⟩ }

/-- Station 2 in OPERATING, in frame 1005, with station 3 PRESENT and circuit 4 as given. -/
def put (r : Circuit) : State := { State.reset with
  stationState := .operating, stationNo := some 2, frameCount := some 1005, cycleCount := 25
  windows := window :: List.replicate 7 .start
  peers := [(3, ⟨.present, 0, true, some 24, none, 0, 0⟩)]
  trunk := ⟨[(4, r)], [], [], [], [], 0⟩ }

/-- The same, changed in its trunk. -/
def putWith (r : Circuit) (f : Trunk → Trunk) : State := { put r with trunk := f (put r).trunk }

/-- Circuit 4 in a state, with O of 130, O′ of 146, a deficit of 16, and a full ring of arrival offsets 130. -/
def bridged (st : CircuitState) : Circuit := { copper with
  state := st
  align := { AlignItems.start with obase := some 130, offset := some 130 }
  ring := List.replicate 16 130
  splice := { SpliceItems.start with playOffset := some 146, deficit := some 16 }
  calendarRow := some 0 }

/-- Circuit 4 on fibre with the sample of SSN 860 in its buffer, which is due in frame 1006 at O′ = 146. -/
def playing : Circuit := { bridged .spliced with playout := [(348, ⟨7, some 860, 5⟩)] }

/-- Circuit 4 in HELD with its peer hold running. -/
def waiting : Circuit := { bridged .held with stateTimer := 100 }

/-- Circuit 4 with fill frames that run from frame 1006, and with a guard of two cycles. -/
def filling : Circuit := { playing with splice := { playing.splice with fill := some ⟨1006, 16⟩ } }
/-- The largest count of fill frames, in its last frame. -/
def filled : Circuit := { playing with splice := { playing.splice with fill := some ⟨783, 224⟩ } }
def guarded : Circuit := { playing with guard := some ⟨2, 5⟩ }
/-- The guard's last cycle. -/
def guardedLast : Circuit := { bridged .down with guard := some ⟨1, 5⟩ }
/-- Circuit 4 with a splice to take effect in the next frame. -/
def switching : Circuit := { playing with splice := { playing.splice with switchPoint := true } }
/-- Circuit 4 in DOWN, which it entered in the frame of its splice decision. -/
def fallen : Circuit := { bridged .down with splice := { SpliceItems.start with switchPoint := true, guardOff := true } }
def starved : Circuit := { playing with playout := [] }

theorem put_peer (r : Circuit) (p : Nat) :
    (put r).peer p = if p = 3 then ⟨.present, 0, true, some 24, none, 0, 0⟩ else .start := by
  by_cases h : p = 3
  · subst h; rfl
  · simp [State.peer, put, Table.read, h]

theorem put_circuit (r : Circuit) (c : Nat) : (put r).circuit c = if c = 4 then r else Circuit.start := by
  by_cases h : c = 4
  · subst h; rfl
  · simp [State.circuit, put, Trunk.circuit, Table.read, h]

theorem bound_in_range : ∀ b, (some ⟨0, 3, 4⟩ : Option Binding) = some b → b.inRange := by
  rintro b h; cases h; exact ⟨by decide, by decide, by decide⟩

theorem forEach_unchanged (f : Nat → Trunk → Trunk) (t : Trunk) (h : ∀ c, f c t = t) : t.forEach f = t := by
  unfold Trunk.forEach
  generalize List.range Config.circuits = l
  induction l with
  | nil => rfl
  | cons c l ih => simpa [h c] using ih

/-- Nothing is due for circuit 4 in the open frame. -/
def still (r : Circuit) : Prop :=
  (put r).trunk.takeDue (put r).ctx 4 = (put r).trunk ∧ (put r).trunk.windowJudgement (put r).ctx 4 = (put r).trunk ∧
    ((put r).trunk.quietSplice (put r).ctx 4).quietReverse (put r).ctx 4 = (put r).trunk

/-- A frame in which nothing is due and nothing is to be done changes nothing but the lane frame. -/
theorem finish_still (r : Circuit) (h : still r) : (put r).finishFrame = (put r).sendLane := by
  have hc : ∀ c, (put r).trunk.circuit c = if c = 4 then r else Circuit.start := put_circuit r
  have e1 : (put r).trunk.forEach (fun c t => t.takeDue (put r).ctx c) = (put r).trunk := forEach_unchanged _ _ fun c => by
    by_cases h4 : c = 4
    · subst h4; exact h.1
    · have hs : (put r).trunk.circuit c = Circuit.start := by rw [hc, if_neg h4]
      have hl : (put r).trunk.liveOf c = none := rfl
      simp [Trunk.takeDue, Trunk.alignmentTimeout, Trunk.bridgeIdle, Trunk.streamLoss, Trunk.peerHoldExpiry, Trunk.holdExpiry,
        Trunk.settleExpiry, hs, hl, Circuit.start, CircuitState.beforeSplice]
  have e2 : (put r).trunk.forEach (fun c t => t.windowJudgement (put r).ctx c) = (put r).trunk :=
    forEach_unchanged _ _ fun c => by
      by_cases h4 : c = 4
      · subst h4; exact h.2.1
      · have hs : (put r).trunk.circuit c = Circuit.start := by rw [hc, if_neg h4]
        simp [Trunk.windowJudgement, Trunk.dueWindow, hs, Circuit.start, AlignItems.start]
  have e3 : (put r).trunk.forEach (fun c t => (t.quietSplice (put r).ctx c).quietReverse (put r).ctx c) = (put r).trunk :=
    forEach_unchanged _ _ fun c => by
      by_cases h4 : c = 4
      · subst h4; exact h.2.2
      · have hs : (put r).trunk.circuit c = Circuit.start := by rw [hc, if_neg h4]
        simp [Trunk.quietSplice, Trunk.quietReverse, hs, Circuit.start]
  have e4 : (put r).losePeers = put r := by
    have hp : ∀ p, (put r).losePeer p = put r := fun p => by
      have hd : ((put r).peer p).lossDue = false := by rw [put_peer]; split <;> rfl
      rw [State.losePeer, hd]; rfl
    unfold State.losePeers
    generalize List.range 15 = l
    induction l with
    | nil => rfl
    | cons c l ih => simpa [hp c] using ih
  have f1 : (put r).takeEvents = put r := by
    have g1 : (put r).onTrunk (fun x t => t.forEach (fun c t => t.takeDue x c)) = put r := by simp only [State.onTrunk, e1]
    have g2 : (put r).onTrunk (fun x t => t.forEach (fun c t => t.windowJudgement x c)) = put r := by simp only [State.onTrunk, e2]
    have g3 : (put r).endListening = put r := rfl
    rw [State.takeEvents, e4, g1, g3, g2]
  have f2 : (put r).takeQuiet = put r := by simp only [State.takeQuiet, State.onTrunk, e3]
  have f0 : (put r).settleBoundary = put r := rfl
  have f3 : (put r).takeAll = put r := rfl
  have f4 : (put r).countIdles = put r := rfl
  have f5 : (put r).giveAll = put r := rfl
  have f6 : (put r).buildRow = put r := rfl
  have f7 : (put r).fillService = put r := rfl
  have f8 : (put r).takeRest = put r := by
    have hl : ¬(put r).todo.late = true := fun h => Bool.noConfusion h
    rw [State.takeRest, if_neg hl, f1, f3, f4, f5, f2]
  rw [State.finishFrame, f0, f8, f6, f7, f3]

theorem finish_circuit (r : Circuit) (h : still r) : (put r).finishFrame.circuit 4 = r := by
  rw [finish_still r h]; exact put_circuit r 4

theorem still_sends {r : Circuit} (h : still r) : (put r).finishFrame.sendsRestart = false := by
  rw [finish_still r h]; rfl

theorem still_copper : still copper := ⟨rfl, rfl, rfl⟩
theorem still_down : still (bridged .down) := ⟨rfl, rfl, rfl⟩
theorem still_filling : still filling := ⟨rfl, rfl, rfl⟩
theorem still_filled : still filled := ⟨rfl, rfl, rfl⟩
theorem still_playing : still playing := ⟨rfl, rfl, rfl⟩
theorem still_starved : still starved := ⟨rfl, rfl, rfl⟩
theorem still_waiting : still waiting := ⟨rfl, rfl, rfl⟩
theorem still_switching : still switching := ⟨rfl, rfl, rfl⟩
theorem still_fallen : still fallen := ⟨rfl, rfl, rfl⟩
theorem still_guarded : still guarded := ⟨rfl, rfl, rfl⟩
theorem still_guardedLast : still guardedLast := ⟨rfl, rfl, rfl⟩
theorem still_aligned : still (bridged .aligned) := ⟨rfl, rfl, rfl⟩

/-- Station 2 in LISTENING, with its first boundary still to come. -/
def hearing : State := { put copper with stationState := .listening, listenLeft := 4 }

/-- A bearer cell of station 3's circuit 4 with a phase code and a first SSN; its samples are zeros. -/
def cell (ph ssn : Nat) : List Byte := withHeaderCheck ([0x23, 4] ++ be 2 ssn ++ [BitVec.ofNat 8 (16 * ph)]) ++ List.replicate 40 0

theorem mask_holds_station : allStations.getLsbD 3 = true := by decide

set_option maxRecDepth 16000 in
/-- A cell of a phase that arrives at circuit 4 with arrival offset 130. -/
theorem heard (r : Circuit) (ph : Phase) (f : Trunk → Trunk) : (putWith r f).delivers 3 (cell (phaseCode ph) 875) ph 4 := by
  refine ⟨?_, by decide, Or.inl (by simp [State.ctx, putWith, put, cyclePos]), window, ?_, rfl⟩
  · cases ph <;> exact ⟨⟨rfl, by decide, by simp [putWith, put], by decide⟩, by decide, by decide, by decide, mask_holds_station⟩
  · cases ph <;> exact ⟨rfl, by decide⟩

theorem heard_plain (r : Circuit) (ph : Phase) : (put r).delivers 3 (cell (phaseCode ph) 875) ph 4 := heard r ph id

/-- Station 2 with an order at the head of its queue. -/
def ordered (s : State) (value kind operand segment : Nat) : State :=
  { s with orderQueue := [⟨5, 7, value, kind, operand, segment⟩] }

theorem takes_order (r : Circuit) (f : Trunk → Trunk) (v k o g : Nat) :
    (ordered (putWith r f) v k o g).headIs ⟨5, 7, v, k, o, g⟩ [] :=
  ⟨rfl, Nat.zero_lt_succ 7, rfl, rfl⟩

/-! ## Well-formedness: an ill-formed command for each check -/

theorem test_circuit_number : Instr.wellFormed (.guardEnd 256) = false ∧ Instr.wellFormed (.guardEnd 255) = true := by decide
theorem test_station_number : Instr.wellFormed (.peerLoss 15) = false ∧ Instr.wellFormed (.peerLoss 14) = true := by decide
theorem test_highway_slot : Instr.wellFormed (.missedFrameMarker [(256, ⟨0, 0⟩)] [] .usual) = false := by decide
theorem test_highway_slot_twice : Instr.wellFormed (.frameMarker [] [(1, ⟨0, 0⟩), (1, ⟨1, 0⟩)] 2 .usual) = false := by decide
theorem test_bearer_place : Instr.wellFormed (.bearerCell 3 (List.replicate 45 0)) = false := by decide
theorem test_service_place : Instr.wellFormed (.beacon 3 (List.replicate 46 0)) = false := by decide
theorem test_frame_order : Instr.wellFormed (.frameMarker [] [] 2 { FrameOrder.usual with between := [.build, .idle 256] }) = false ∧
    Instr.wellFormed (.missedFrameMarker [] [] { FrameOrder.usual with between := [.slot 255, .service] }) = true := by decide
theorem test_boot_record : Instr.wellFormed (.bootReadComplete (List.replicate 69 0)) = false := by decide

/-! ## The manual's worked numbers -/

/-- 02, Table 2.1. -/
theorem test_magnitude_table :
    ([255, 127, 105, 100, 200, 0].map fun c => magnitude .mu (BitVec.ofNat 8 c)) = [0, 0, 22, 27, 55, 127] ∧
      ([213, 85, 220, 127, 255].map fun c => magnitude .a (BitVec.ofNat 8 c)) = [0, 0, 9, 42, 42] := by decide

/-- 00, section 4.3: a cell with first SSN 65500 that completes at frame 94 has arrival offset 130. -/
theorem test_arrival_offset : (94 : Word) - 65500 = 130 ∧ diff 130 120 = 10 ∧ diff 65535 1 = -2 := by decide

/-- 05, section 5.5: the ring of the worked example. -/
def exampleRing : List Word := [130, 127, 135, 124, 138, 129, 131, 126, 133, 130, 128, 136, 125, 132, 134, 137]

/-- 05, section 5.5: the leads at O = 120, the deficit of 34, and the deficit of 37 after an arrival offset of 141. -/
theorem test_worked_deficit :
    leadMin 120 exampleRing = some (-18) ∧ leadMax 120 exampleRing = some (-4) ∧
      { Circuit.start with align := { AlignItems.start with offset := some 120 }, ring := exampleRing }.deficitNow .start =
        some 34 ∧
      { Circuit.start with
          align := { AlignItems.start with offset := some 120 }, ring := pushRing exampleRing 141 }.deficitNow .start =
        some 37 := by decide

set_option maxRecDepth 16000 in
/-- The usual check values of the two codes of R158, which stand outside the manual. -/
theorem test_check_codes :
    crc8 [0x31, 0x32, 0x33, 0x34, 0x35, 0x36, 0x37, 0x38, 0x39] = 0xF4 ∧
      crc16 [0x31, 0x32, 0x33, 0x34, 0x35, 0x36, 0x37, 0x38, 0x39] = 0x29B1 := by decide

/-! ## Stations that meet the hypotheses of the statements -/

theorem test_meets_StepRunsFrontCommand :
    { put copper with pending := [.cut, .pause] }.pending = .cut :: [.pause] ∧
    ((put copper).pending = [] ∧ (put copper).todo.between = []) ∧
    (put copper).pending = [] ∧ { put copper with todo := { FrameTodo.none with between := [.build] } }.todo.between = [.build] := by
  decide

theorem test_meets_StartCommandsSetTable92 :
    ({ State.reset with pinAsserted := true }.pinAsserted = true ∧ State.reset.powerGood = true) ∧
      { State.reset with pinAsserted := true, powerGood := false }.powerGood = false ∧
      (16 ≤ { put copper with missCount := 16 }.missCount ∧ (put copper).stationState ≠ .reset) ∧
      { put copper with missCount := 15 }.missCount < 16 := by decide

/-- Station 2 with the RESTART's reply in the service place. -/
def leaving : State := { put copper with restartTaken := true, servicePlace := .reply ⟨5, 7, 10, .done, none, []⟩ }

theorem test_meets_OrderStartFollowsRestartReply :
    (leaving.stationState.onStar = true ∧ leaving.missCount < 16 ∧ leaving.restartTaken = true ∧ leaving.todo.service = false ∧
      leaving.servicePlace = .reply ⟨5, 7, 10, .done, none, []⟩) ∧
    ({ leaving with todo := { FrameTodo.none with service := true } }.todo.service = true ∧ leaving.frame.toNat % 40 ≠ 0 ∧
      { leaving with replyQueue := [⟨5, 7, 10, .done, none, []⟩] }.replyQueue = ⟨5, 7, 10, .done, none, []⟩ :: []) ∧
    (put copper).restartTaken = false ∧
    { leaving with servicePlace := .empty, frameCount := some 1000, todo := { FrameTodo.none with service := true } }.frame.toNat
      % 40 = 0 := by decide

set_option maxRecDepth 16000 in
/-- The close of the frame finds the RESTART's reply in the place, with the pin released and asserted; and it finds the order
itself still waiting, takes it and puts its reply into the place. -/
theorem test_meets_MarkerSendsRestartReply :
    (leaving.finishFrame.restartTaken = true ∧ leaving.finishFrame.servicePlace = .reply ⟨5, 7, 10, .done, none, []⟩ ∧
      leaving.pinAsserted = false ∧ leaving.powerGood = true) ∧
    { leaving with pinAsserted := true }.finishFrame.servicePlace = .reply ⟨5, 7, 10, .done, none, []⟩ ∧
    (let s := { ordered (put copper) 10 0 0 0 with todo := { FrameTodo.none with service := true } }
     s.finishFrame.restartTaken = true ∧ s.finishFrame.servicePlace = .reply ⟨5, 7, 10, .done, none, []⟩) := by decide

/-- R149: the RESTART's reply waits behind another, and the place of the frame is still to be filled. -/
theorem test_order_start_waits :
    let s := { leaving with servicePlace := .empty, todo := { FrameTodo.none with service := true },
                            replyQueue := [⟨5, 7, 9, .done, none, []⟩, ⟨5, 7, 10, .done, none, []⟩] }
    s.restartTaken = true ∧ s.restartLeaves = false := by decide

theorem test_meets_MarkersInResetAndTimingLoss :
    ({ State.reset with pinAsserted := true }.stationState = .reset ∧ { State.reset with pinAsserted := true }.pinAsserted = true) ∧
      (State.reset.stationState = .reset ∧ State.reset.frameCount = none ∧ State.reset.pinAsserted = false ∧
        State.reset.powerGood = true) ∧
      ({ put copper with missCount := 16 }.stationState ≠ .reset ∧ 16 ≤ { put copper with missCount := 16 }.missCount ∧
        (put copper).pinAsserted = false ∧ (put copper).powerGood = true) := by decide

theorem test_finish_sends_no_restart : (put copper).finishFrame.sendsRestart = false := by
  rw [finish_still _ still_copper]; rfl

theorem test_meets_MarkersAdvanceFrames :
    (put copper).stationState ≠ .reset ∧ { put copper with missCount := 15 }.missCount < 16 ∧
      (put copper).frameCount = some 1005 ∧ (put copper).finishFrame.sendsRestart = false :=
  ⟨by decide, by decide, rfl, test_finish_sends_no_restart⟩

/-- Frame 1000, a cycle boundary whose boundary is still to be counted. -/
def atBoundary (s : State) : State := { s with frameCount := some 1000, todo := { s.todo with boundary := true } }

theorem test_meets_BoundaryCountsAndListening :
    ((atBoundary (put copper)).todo.boundary = true ∧ (atBoundary (put copper)).stationState ≠ .listening) ∧
    (putWith copper fun t => { t with fallback := [⟨4, some ⟨990, 12000, some 400, false⟩⟩] }).trunk.fallback[0]? =
      some ⟨4, some ⟨990, 12000, some 400, false⟩⟩ ∧ ((put copper).peer 3).state = .present ∧
    ({ put copper with stationState := .listening }.settleBoundary.listenLeft = 0 ∧
      { put copper with stationState := .listening, listenLeft := 1 }.settleBoundary.listenLeft ≠ 0 ∧
      (atBoundary { put copper with stationState := .listening, listenLeft := 1 }).settleBoundary.listenLeft = 0) := by decide

/-- Station 2 while it reads the boot memory. -/
def loading (f : Word) : State :=
  { State.reset with stationState := .loading, bootReading := true, frameCount := some f, stationNo := some 2 }

/-- A boot record without its check: the default parameters, and window 0 to station 3. -/
def bootBody : List Byte :=
  [0x3A, 0xC5, 0x5C, 0xA3, 1, 0, 0, 0x0F, 0x7F, 0xFF] ++
    (([16, 160, 80, 24, 10, 200, 20, 2, 60, 40, 500, 2000].map (be 2)).flatten ++ ([0x83, 0, 0, 255] ++ List.replicate 28 0))

/-- The record with its check (12, Table 12.7). -/
def bootGood : List Byte := bootBody ++ be 2 0xBB78

set_option maxRecDepth 100000 in
theorem test_meets_BootRecordFailures :
    ((loading 1).stationState = .loading ∧ (loading 1).bootReading = true ∧ (loading 40).frameCount = some 40) ∧
      bytesFrom (bootRecord []) 0 4 ≠ [0x3A, 0xC5, 0x5C, 0xA3] ∧
      (bytesFrom (bootRecord [0x3A, 0xC5, 0x5C, 0xA3, 2]) 0 4 = [0x3A, 0xC5, 0x5C, 0xA3] ∧
        byteAt (bootRecord [0x3A, 0xC5, 0x5C, 0xA3, 2]) 4 ≠ 1) ∧
      (byteAt (bootRecord bootBody) 4 = 1 ∧
        (crc16 (bytesFrom (bootRecord bootBody) 0 66)).toNat ≠ fieldAt (bootRecord bootBody) 66 2) ∧
      ((loading 0).frameCount = some 0 ∧ 40 < (41 : Word).toNat) := by decide

set_option maxRecDepth 100000 in
theorem test_meets_BootWindowsBindCircuits :
    ((loading 40).stationState = .loading ∧ (loading 40).bootReading = true ∧ (loading 40).frameCount = some 40 ∧
      bootFault (bootRecord bootGood) = none) ∧
    (bootWindows 2 (bootRecord bootGood))[0]? = some ⟨true, 3, 0, 0, 256, .valid, false⟩ := by decide

/-- A record whose windows 1 to 6 fail one test of R136 each, in the order of the tests, behind a VALID window 0. -/
def bootFaulty : List Byte :=
  let body := bootBody.take 34 ++ [0x83, 0, 0, 15] ++ [0x03, 250, 250, 31] ++ [0x83, 250, 250, 31] ++ [0x8F, 32, 250, 31] ++
    [0x8F, 0, 0, 15] ++ [0x83, 15, 0, 0] ++ [0x83, 16, 15, 0] ++ [0x84, 16, 15, 0]
  body ++ be 2 (crc16 body).toNat

set_option maxRecDepth 100000 in
theorem test_meets_BootWindowsValidated :
    bootFault (bootRecord bootFaulty) = none ∧
    (bootWindows 2 (bootRecord bootFaulty)).map Window.validity =
      [.valid, .notEnabled, .localRange, .peerRange, .peerNumber, .localOverlap, .peerOverlap, .valid] := by decide

set_option maxRecDepth 100000 in
theorem test_meets_BootParametersClamped :
    (loading 1).stationState = .loading ∧ (loading 1).bootReading = true ∧ (loading 1).frameCount = some 1 ∧
      1 ≤ (1 : Word).toNat ∧ (1 : Word).toNat ≤ 40 ∧ bootFault (bootRecord bootGood) = none := by decide

theorem test_meets_ConfigurationFixedBetweenStarts :
    exec .cut (put copper) = .next (put copper) ∧
    ((put copper).stationState ≠ .reset ∧ (put copper).missCount < 16 ∧ (put copper).finishFrame.sendsRestart = false) ∧
    (∃ t, exec (.frameMarker [] [] 2 .usual) (put copper) = .next t) ∧ ∃ t, exec (.missedFrameMarker [] [] .usual) (put copper) = .next t :=
  ⟨rfl, ⟨by decide, by decide, test_finish_sends_no_restart⟩, ⟨_, rfl⟩, ⟨_, rfl⟩⟩

theorem test_meets_MagnitudeIndexAndQuiet :
    { Settings.start with params := { Params.start with threshold := 127 } }.params.threshold = 127 := rfl

/-- The path selection is asked for at once. -/
def selecting : FrameOrder := { FrameOrder.usual with selectFirst := true }

/-- Frame 1006, in which the path selection is still to be done, with a source for circuit 4. -/
def dueFrom (src : Source) (r : Circuit) : State := { put { r with path := { r.path with source := src } } with
  frameCount := some 1006, todo := { FrameTodo.none with select := true } }

/-- The same with circuit 4 on fibre at O′ of 146. -/
def due (r : Circuit) : State := dueFrom (.fibre 146) r

set_option maxRecDepth 100000 in
theorem test_meets_SlotGivenBySource :
    ((put copper).selectsAt 1005 selecting 4 copper ∧ copper.state = .copper) ∧
    ((put (bridged .down)).selectsAt 1005 selecting 4 (bridged .down) ∧ (bridged .down).state = .down) ∧
    ((put filling).selectsAt 1005 selecting 4 filling ∧ filling.state.onFibre = true ∧
      filling.splice.fill = some ⟨1006, 16⟩ ∧ ((1005 + 1 : Word) - 1006).toNat < 16) ∧
    ((put filled).selectsAt 1005 selecting 4 filled ∧ ((1005 + 1 : Word) - 783).toNat = 223) ∧
    ((put waiting).selectsAt 1005 selecting 4 waiting ∧ waiting.state = .held) ∧
    ({ put copper with stationState := .configBad }.stationState.passes = true ∧
      { put copper with stationState := .configBad }.finishFrame.sendsRestart = false) :=
  ⟨⟨⟨rfl, by decide, rfl, still_sends still_copper, rfl, by decide, (finish_circuit _ still_copper).symm, rfl, rfl, nofun⟩, rfl⟩,
    ⟨⟨rfl, by decide, rfl, still_sends still_down, rfl, by decide, (finish_circuit _ still_down).symm, rfl, rfl, nofun⟩, rfl⟩,
    ⟨⟨rfl, by decide, rfl, still_sends still_filling, rfl, by decide, (finish_circuit _ still_filling).symm, rfl, rfl,
      fun _ => ⟨_, rfl, by decide, by decide⟩⟩, by decide⟩,
    ⟨⟨rfl, by decide, rfl, still_sends still_filled, rfl, by decide, (finish_circuit _ still_filled).symm, rfl, rfl,
      fun _ => ⟨_, rfl, by decide, by decide⟩⟩, by decide⟩,
    ⟨⟨rfl, by decide, rfl, still_sends still_waiting, rfl, by decide, (finish_circuit _ still_waiting).symm, rfl, rfl, nofun⟩, rfl⟩,
    by decide⟩

set_option maxRecDepth 100000 in
theorem test_meets_FibreSlotRead :
    ((put playing).stationState.passes = false ∧ (put playing).finishFrame.sendsRestart = false ∧
      playing = (put playing).finishFrame.circuit 4 ∧ playing.state.onFibre = true ∧ playing.splice.fill = none ∧
      playing.splice.playOffset = some 146) ∧
    ((due playing).selectionDue 4 ((due playing).circuit 4) ∧ ((due playing).circuit 4).path.source = .fibre 146 ∧
      ((due playing).circuit 4).playoutAt (1006 - 146) = some 7 ∧ ((due playing).circuit 4).guard = none) ∧
    ((due starved).selectionDue 4 ((due starved).circuit 4) ∧ ((due starved).circuit 4).playoutAt (1006 - 146) = none) ∧
    ((due guarded).selectionDue 4 ((due guarded).circuit 4) ∧ ((due guarded).circuit 4).guard = some ⟨2, 5⟩) :=
  ⟨⟨rfl, still_sends still_playing, (finish_circuit _ still_playing).symm, rfl, rfl, rfl⟩,
    ⟨⟨rfl, rfl, by decide, rfl, rfl, nofun⟩, rfl, by decide, rfl⟩,
    ⟨⟨rfl, rfl, by decide, rfl, rfl, nofun⟩, by decide⟩,
    ⟨⟨rfl, rfl, by decide, rfl, rfl, nofun⟩, rfl⟩⟩

/-- Every source with no guard, one with a guard that runs, and a station state in which every slot passes. -/
theorem test_meets_SlotsGivenAtTheClose :
    (∀ src, (dueFrom src waiting).selectionDue 4 ((dueFrom src waiting).circuit 4) ∧
      ((dueFrom src waiting).circuit 4).path.source = src ∧ ((dueFrom src waiting).circuit 4).guard = none) ∧
    ((dueFrom .copper guarded).selectionDue 4 ((dueFrom .copper guarded).circuit 4) ∧
      ((dueFrom .copper guarded).circuit 4).guard = some ⟨2, 5⟩) ∧
    ({ dueFrom .copper copper with stationState := .configBad }.stationState.passes = true ∧
      ((dueFrom .copper copper).circuit 4).path.given = false ∧ (copper.state.onFibre = false)) ∧
    (FrameOrder.usual.selectFirst = false ∧ (put waiting).finishFrame.sendsRestart = false ∧
      waiting = (put waiting).finishFrame.circuit 4) :=
  ⟨fun _ => ⟨⟨rfl, rfl, by decide, rfl, rfl, nofun⟩, rfl, rfl⟩, ⟨⟨rfl, rfl, by decide, rfl, rfl, nofun⟩, rfl⟩, by decide,
    rfl, still_sends still_waiting, (finish_circuit _ still_waiting).symm⟩

/-- R47: the path selection asked for at once leaves a slot that plays fibre to the end of the frame. -/
theorem test_fibre_slot_is_given_last :
    (((due starved).giveSome.circuit 4).path.given = false ∧ ((due starved).giveAll.circuit 4).path.given = true) ∧
    ((put copper).giveSome.circuit 4).path.given = true := by decide

theorem test_meets_GuardFreezesSupervision :
    ((put switching).stationState.passes = false ∧ (put switching).finishFrame.sendsRestart = false ∧
      0 < (put switching).finishFrame.settings.params.sigGuard ∧
      ((put switching).finishFrame.circuit 4).splice.switchPoint = true ∧
      ((put switching).finishFrame.circuit 4).splice.guardOff = false) ∧
    (((put fallen).finishFrame.circuit 4).splice.switchPoint = true ∧ ((put fallen).finishFrame.circuit 4).splice.guardOff = true) ∧
    (((put guarded).finishFrame.circuit 4).guard = some ⟨2, 5⟩ ∧ guarded.splice.switchPoint = false) ∧
    ((1005 : Word) + 1).toNat % 40 ≠ 0 ∧ ((1039 : Word) + 1).toNat % 40 = 0 := by
  rw [finish_still _ still_switching, finish_still _ still_guarded, finish_still _ still_fallen]; decide

set_option maxRecDepth 100000 in
/-- A guard of 1 as a frame that is no boundary begins, and as frame 1040, a boundary, begins. -/
theorem test_meets_GuardFreezesSupervision_last :
    (((put guardedLast).finishFrame.circuit 4).guard = some ⟨1, 5⟩ ∧ guardedLast.splice.switchPoint = false ∧
      (put guardedLast).finishFrame.sendsRestart = false) ∧
    ((({ put guardedLast with frameCount := some 1039 }.finishFrame).circuit 4).guard = some ⟨1, 5⟩ ∧
      { put guardedLast with frameCount := some 1039 }.finishFrame.sendsRestart = false) := by
  refine ⟨?_, ?_⟩
  · rw [finish_still _ still_guardedLast]; decide
  · decide

theorem test_meets_GuardAndFillRunOut :
    ((put { playing with guard := some ⟨0, 5⟩ }).circuit 4).guard = some ⟨0, 5⟩ ∧
    ((put { playing with guard := some ⟨1, 5⟩ }).circuit 4).guard = some ⟨1, 5⟩ ∧
    (((put { playing with splice := { playing.splice with fill := some ⟨989, 16⟩ } }).circuit 4).splice.fill =
      some ⟨989, 16⟩ ∧ (put playing).frame = 989 + BitVec.ofNat 16 16) ∧
    (put playing).frame ≠ 990 + BitVec.ofNat 16 16 ∧ ((put playing).circuit 4).splice.fill = none ∧
    ((put { bridged .held with splice := filling.splice }).circuit 4).state.onFibre = false := by decide

/-- Cells of station 3 on its lane: a beacon of a cycle count, with a window back to station 2, and an order cell. -/
def beaconCell (n : Nat) : List Byte :=
  let body := be 6 n ++ ([0x82, 0, 0, 255] ++ List.replicate 28 0)
  padTo 68 (withHeaderCheck [0x43, 0x31, 0, 0, 0] ++ body ++ be 2 (crc16 body).toNat)
def orderFor (target : Byte) : List Byte :=
  padTo 68 (withHeaderCheck [0x63, target, 7, 1, 1] ++ ([4, 0] ++ be 2 (crc16 [4, 0]).toNat))

set_option maxRecDepth 100000 in
theorem test_meets_PlacesCheckedAndDamageCounted :
    (put copper).takesCell 3 ((cell 1 875).set 5 0) ∧ headerOk 3 ((cell 1 875).set 5 0) = false ∧
    (kindOf ((beaconCell 25).set 9 1) = 2 ∧ beaconBodyOk ((beaconCell 25).set 9 1) = false) ∧
    (kindOf ((orderFor 2).set 6 5) = 3 ∧ orderBodyOk ((orderFor 2).set 6 5) = false) ∧
    (headerOk 3 (withHeaderCheck [0x83, 2, 7, 1, 0]) = true ∧ kindOf (withHeaderCheck [0x83, 2, 7, 1, 0]) = 4) ∧
    isEmptyPlace (List.replicate 68 0) = true ∧ (put copper).stationNo = some 2 := by
  refine ⟨⟨?_, ?_, ?_, ?_⟩, ?_⟩ <;> decide

/-- Station 2 with four orders waiting behind eight replies. -/
def crowded : State := { put copper with
  orderQueue := List.replicate 4 ⟨5, 7, 1, 1, 4, 0⟩, replyQueue := List.replicate 8 ⟨5, 7, 5, .done, none, []⟩ }

set_option maxRecDepth 100000 in
theorem test_meets_OrderCellsQueued :
    ((put copper).takesCell 3 (orderFor 2) ∧ headerOk 3 (orderFor 2) = true ∧ kindOf (orderFor 2) = 3 ∧
      orderBodyOk (orderFor 2) = true ∧ (put copper).stationNo = some ((byteAt (orderFor 2) 1).toNat % 16) ∧
      (put copper).takeAll.orderQueue.length < 4) ∧
    (headerOk 3 (orderFor 15) = true ∧ (byteAt (orderFor 15) 1).toNat % 16 = 15) ∧
    (headerOk 3 (orderFor 5) = true ∧ (put copper).stationNo ≠ some ((byteAt (orderFor 5) 1).toNat % 16)) ∧
    4 ≤ crowded.takeAll.orderQueue.length ∧ 8 ≤ crowded.replyQueue.length := by
  refine ⟨⟨⟨?_, ?_, ?_, ?_⟩, ?_⟩, ?_⟩ <;> decide

set_option maxRecDepth 100000 in
theorem test_meets_BeaconsKeepThePeerTable :
    ((put copper).takesCell 3 (beaconCell 24) ∧ headerOk 3 (beaconCell 24) = true ∧ kindOf (beaconCell 24) = 2 ∧
      beaconBodyOk (beaconCell 24) = true ∧ (put copper).settings.acceptMask.getLsbD 3 = true ∧
      ((put copper).peer 3).lossDue = false ∧ ((put copper).peer 3).cycles = some 24 ∧ 24 ≤ fieldAt (beaconCell 24) 6 6) ∧
    ({ put copper with peers := [] }.peer 3).state = .absent ∧
    (({ put copper with peers := [(3, ⟨.lost, 4, false, some 24, none, 0, 0⟩)] }.peer 3).state = .lost ∧
      ({ put copper with peers := [(3, ⟨.lost, 4, false, some 24, none, 0, 0⟩)] }.peer 3).lossDue = false) ∧
    { put copper with settings := { Settings.start with acceptMask := 0 } }.settings.acceptMask.getLsbD 3 = false := by
  refine ⟨⟨⟨?_, ?_, ?_, ?_⟩, ?_⟩, ?_⟩ <;> decide

set_option maxRecDepth 100000 in
theorem test_meets_UnboundBearerCells :
    ((put copper).takesCell 3 (cell 1 875) ∧ headerOk 3 (cell 1 875) = true ∧ kindOf (cell 1 875) = 1 ∧
      phaseOf (cell 1 875) = some .bridging ∧ (put copper).settings.acceptMask.getLsbD 3 = true) ∧
    { put copper with windows := List.replicate 8 .start }.windows.find? (Window.maps 3 (senderCircuitOf (cell 1 875))) =
      none ∧
    { put copper with windows := [{ window with matched := false }] }.windows.find?
      (Window.maps 3 (senderCircuitOf (cell 1 875))) = some { window with matched := false } ∧
    ((put copper).stage = .operating ∧ ((put copper).circuit 4).state = .copper ∧
      ((put copper).circuit 4).lastReported ≠ some .mismatch) ∧ hearing.stage ≠ .operating := by
  refine ⟨⟨⟨?_, ?_, ?_, ?_⟩, ?_⟩, ?_⟩ <;> decide

theorem test_meets_CellIgnoredOnCopper :
    ((put copper).delivers 3 (cell 6 875) .release 4 ∧ ((put copper).circuit 4).state = .copper) ∧
    ((put { copper with releaseCells := 1 }).delivers 3 (cell 1 875) .bridging 4 ∧
      ((put { copper with releaseCells := 1 }).circuit 4).releaseCells ≠ 0) ∧
    (hearing.stage ≠ .operating ∧ (hearing.circuit 4).state = .copper) ∧
    ((put (bridged .down)).delivers 3 (cell 3 875) .spliced 4 ∧ ((put (bridged .down)).circuit 4).state = .down) :=
  ⟨⟨heard_plain _ .release, by decide⟩, ⟨heard_plain _ .bridging, by decide⟩, by decide, heard_plain _ .spliced, by decide⟩

/-- Every row full of other circuits. -/
def fullRows (t : Trunk) : Trunk := { t with calendar := (List.range 40).map fun k => (k, List.replicate 6 (k + 8)) }

theorem test_meets_FollowBridgesOrIsRefused :
    ((put copper).delivers 3 (cell 2 875) .aligned 4 ∧ ((put copper).circuit 4).state = .copper ∧
      ((put copper).circuit 4).releaseCells = 0 ∧ (put copper).stage = .operating ∧
      ((put copper).circuit 4).binding = some ⟨0, 3, 4⟩ ∧ ((put copper).peer 3).state = .present ∧
      ((put copper).circuit 4).calendarRow = none ∧ ((put copper).trunk.row 0).length < 6 ∧
      ∀ j, j < 40 → ((put copper).trunk.row 0).length = ((put copper).trunk.row j).length ∧ 0 ≤ j) ∧
    ((put { copper with state := .down }).delivers 3 (cell 1 875) .bridging 4 ∧
      ((put { copper with state := .down }).circuit 4).state = .down ∧
      ((put { copper with state := .down }).circuit 4).calendarRow = none) ∧
    ((putWith copper fullRows).delivers 3 (cell 1 875) .bridging 4 ∧
      ∀ k, k < 40 → 6 ≤ ((putWith copper fullRows).trunk.row k).length) ∧
    ((putWith { copper with state := .down } fullRows).delivers 3 (cell 1 875) .bridging 4 ∧
      ((putWith { copper with state := .down } fullRows).circuit 4).state = .down) :=
  ⟨⟨heard_plain _ .aligned, by decide⟩, ⟨heard_plain _ .bridging, by decide⟩, ⟨heard _ .bridging fullRows, by decide⟩,
    heard _ .bridging fullRows, by decide⟩

/-- Circuit 4 on fibre at a playout offset. -/
def playedAt (o : Word) : Circuit := { bridged .spliced with splice := { SpliceItems.start with playOffset := some o } }

/-- The first part: the leads 473, 472, 0 and −1 of a cell with arrival offset 130, on fibre with O and off it. -/
theorem test_meets_DeliveredCellsWorkByState :
    (∀ o, (put (playedAt o)).delivers 3 (cell 3 875) .spliced 4) ∧
    ((put (playedAt 603)).circuit 4).splice.playOffset = some 603 ∧ ((put (playedAt 603)).circuit 4).ring.length ≤ 16 ∧
    ((put (playedAt 603)).circuit 4).state = .spliced ∧ (put (playedAt 603)).frame - ssnOf (cell 3 875) = 130 ∧
    ((603 : Word) - 130).toInt = 473 ∧ ((602 : Word) - 130).toInt = 472 ∧ ((130 : Word) - 130).toInt = 0 ∧
    ((129 : Word) - 130).toInt = -1 ∧
    (((put (playedAt 602)).circuit 4).align.obase = some 130 ∧ ((put (playedAt 602)).circuit 4).align.offset ≠ none ∧
      ((put (playedAt 602)).circuit 4).legacyReleased = false) ∧
    ((put (bridged .held)).delivers 3 (cell 4 875) .reverting 4 ∧ ((put (bridged .held)).circuit 4).state = .held) :=
  ⟨fun _ => heard_plain _ .spliced, by decide, by decide, by decide, by decide, by decide, by decide, by decide, by decide,
    by decide, heard_plain _ .reverting, by decide⟩

/-- The second part: COMMITTED heard in COMMITTED, and the three returns from HELD. -/
theorem test_meets_DeliveredCellsWorkByState_committed :
    ((put (bridged .committed)).delivers 3 (cell 5 875) .committed 4 ∧ ((put (bridged .committed)).circuit 4).state = .committed ∧
      ((put (bridged .committed)).circuit 4).splice.playOffset = some 146) ∧
    ((put waiting).delivers 3 (cell 3 875) .spliced 4 ∧ ((put waiting).circuit 4).state = .held ∧
      ((put waiting).circuit 4).peerPhase ≠ some .committed ∧ ((put waiting).circuit 4).legacyReleased = false ∧
      ((put waiting).circuit 4).align.obase = some 130) ∧
    ((put waiting).delivers 3 (cell 5 875) .committed 4 ∧
      ((put { waiting with peerPhase := some .committed }).circuit 4).peerPhase = some .committed) :=
  ⟨⟨heard_plain _ .committed, by decide⟩, ⟨heard_plain _ .spliced, by decide⟩, heard_plain _ .committed, by decide⟩

/-- The third part: the first cell after a CUT, later ones, and cells that bring nothing at the splice unit. -/
theorem test_meets_DeliveredCellsWorkByState_before :
    (∀ r, (put r).delivers 3 (cell 1 875) .bridging 4) ∧ (CircuitState.bridging.beforeSplice = true ∧
      CircuitState.aligned.beforeSplice = true ∧ CircuitState.splicePending.beforeSplice = true ∧
      CircuitState.spliceWait.beforeSplice = true) ∧
    ((put { copper with state := .bridging }).circuit 4).align.obase = none ∧
    ((put (bridged .aligned)).circuit 4).align.obase = some 130 ∧
    (pushRing ((put { bridged .aligned with ring := List.replicate 14 130 }).circuit 4).ring 130).length ≠ 16 ∧
    { put (bridged .aligned) with paused := true }.paused = true ∧
    ((put { copper with state := .aligned }).circuit 4).align.obase = none :=
  ⟨fun _ => heard_plain _ .bridging, by decide⟩

/-- R60: the windows of the cell at the ends of 0..511, one whose SSN stands in the list, and a list of 15 and of 16. -/
theorem test_windows_entered :
    ([65403, 65402, 378, 379].map fun ob => (windowEntered 1005 875 ob []).length) = [1, 0, 1, 0] ∧
      (windowEntered 1005 875 130 [⟨875, 9⟩]).length = 1 ∧
      ([15, 16].map fun n => (windowEntered 1005 875 130 (List.replicate n ⟨760, 1153⟩)).length) = [16, 16] := by decide

theorem test_meets_EarlyCellDiscarded :
    (put (playedAt 603)).delivers 3 (cell 3 875) .spliced 4 ∧ ((put (playedAt 603)).circuit 4).splice.playOffset = some 603 ∧
      473 ≤ ((603 : Word) - ((put (playedAt 603)).frame - ssnOf (cell 3 875))).toInt ∧
      ((put (playedAt 603)).circuit 4).state = .spliced :=
  ⟨heard_plain _ .spliced, by decide⟩

theorem test_meets_ReleasePhaseByState :
    ((∀ r, (put r).delivers 3 (cell 6 875) .release 4) ∧ (∀ r, (put r).servesNone 4) ∧
      ((put (bridged .bridging)).circuit 4).state.beforeSplice = true ∧
      ((put (bridged .spliceWait)).circuit 4).state.beforeSplice = true) ∧
    (((put playing).circuit 4).state = .spliced ∧ ((put playing).circuit 4).binding = some ⟨0, 3, 4⟩) ∧
    ((put { bridged .held with legacyReleased := true }).circuit 4).legacyReleased = true :=
  ⟨⟨fun _ => heard_plain _ .release, fun _ => Or.inr (Or.inl rfl), by decide⟩, by decide⟩

theorem test_meets_PhasesOnCommittedAndHeld :
    ((put (bridged .committed)).delivers 3 (cell 5 875) .committed 4 ∧
      ((put (bridged .committed)).circuit 4).lastReported ≠ some .legacyReleased ∧
      ((put (bridged .committed)).circuit 4).legacyReleased = false) ∧
    ((put (bridged .held)).delivers 3 (cell 3 875) .spliced 4 ∧ ((put (bridged .held)).circuit 4).state = .held) ∧
    ((put (bridged .held)).delivers 3 (cell 1 875) .bridging 4 ∧
      ((put (bridged .held)).circuit 4).binding = some ⟨0, 3, 4⟩) :=
  ⟨⟨heard_plain _ .committed, by decide⟩, ⟨heard_plain _ .spliced, by decide⟩, heard_plain _ .bridging, by decide⟩

theorem test_meets_SearchDomainOffsets :
    ((0 : Word).toNat < 224 ∧ 223 + (0 : Word).toNat < 224) ∧ 224 ≤ 224 + (0 : Word).toNat ∧
      65759 < 225 + (65535 : Word).toNat ∧ Circuit.start.align.obase = none := by decide

/-- Circuit 4 with a window of zeros at SSN 760 that is judged in frame 1005, and the frames of its copper that carried
the same samples at an offset of 146, which is position 240 of the domain around 130. -/
def judged (st : CircuitState) (cs : Candidates) (n miss : Nat) : Circuit := { bridged st with
  align := ⟨some 130, cs, n, some 146, miss, 0, [⟨760, 1005⟩]⟩
  playout := writeCell 0 [] 760 (List.replicate 40 0)
  history := Table.build 255 512 (fun k => if 394 ≤ k ∧ k < 434 then 0 else 255) }

theorem test_judged_due (st : CircuitState) (cs : Candidates) (n miss : Nat) :
    (put (judged st cs n miss)).trunk.dueWindow (put (judged st cs n miss)).ctx 4 = some ⟨760, 1005⟩ := rfl

set_option maxRecDepth 100000 in
theorem test_judged_window :
    (judged .bridging .whole 0 0).conclusive .start 760 = true ∧ (judged .bridging .whole 0 0).matchSet 760 130 = [240] := by
  decide

set_option maxRecDepth 100000 in
/-- A window of which one sample has not come. -/
theorem test_inconclusive_window :
    ({ judged .bridging .whole 0 0 with playout := writeCell 0 [] 760 (List.replicate 39 0) } : Circuit).conclusive .start 760 =
      false := by decide

set_option maxRecDepth 100000 in
/-- A set that narrows to one position with a count of 3, one that does not, and one that starts again. -/
theorem test_meets_MatchSetNarrowsCandidates :
    Candidates.meet (.positions [3, 240]) [240] = [240] ∧ min (2 + 1) 3 = 3 ∧ Candidates.whole.meet [240] = [240] ∧
      min (1 + 1) 3 = 2 ∧ Candidates.meet (.positions [3, 4]) [240] = [] ∧ Candidates.inRange (.positions [3, 240]) ∧
      (judged .bridging (.positions [3, 240]) 2 0).matchSet 760 130 = [240] ∧
      ((put (judged .bridging (.positions [3, 240]) 2 0)).circuit 4).binding = some ⟨0, 3, 4⟩ := by
  refine ⟨by decide, by decide, by decide, by decide, by decide, ⟨by decide, by decide, by decide⟩, by decide, by decide⟩

set_option maxRecDepth 100000 in
theorem test_meets_EmptyMatchSetIsMismatch :
    ({ judged .bridging .whole 0 0 with history := [] }).conclusive .start 760 = true ∧
      ∀ k, k < 449 → ({ judged .bridging .whole 0 0 with history := [] }).matchesAt 760 (domainOffset 130 k) = false := by
  decide

set_option maxRecDepth 100000 in
theorem test_meets_VerificationAtO :
    ((put (judged .aligned .whole 0 2)).servesNone 4 ∧ ((put (judged .aligned .whole 0 2)).circuit 4).align.verifyMiss < 3 ∧
      ((put (judged .aligned .whole 0 2)).circuit 4).matchesAt 760 146 = true) ∧
    ({ judged .spliced .whole 0 2 with history := [] }.conclusive .start 760 = true ∧
      { judged .spliced .whole 0 2 with history := [] }.matchesAt 760 146 = false) ∧
    ({ judged .aligned .whole 0 1 with playout := [] }.conclusive .start 760 = false) ∧
    (∀ e ∈ ((put copper).circuit 4).align.judging, e.frame ≠ (put copper).frame) ∧
    ((put (judged .held .whole 0 0)).circuit 4).state = .held := by
  refine ⟨⟨Or.inr (Or.inl rfl), ?_, ?_⟩, ⟨?_, ?_⟩, ?_, ?_, ?_⟩ <;> decide

/-- A frame with two tests of circuit 4 among its commands. -/
def testing : State :=
  { put (bridged .aligned) with todo := { FrameTodo.none with idle := true, between := [.idle 4, .idle 4] } }

theorem test_meets_IdleQualifyCount :
    ((put (bridged .aligned)).stationState ≠ .reset ∧ (put (bridged .aligned)).finishFrame.sendsRestart = false ∧
      ((put (bridged .aligned)).finishFrame.circuit 4).state = .aligned) ∧
    (testing.pending = [] ∧ testing.todo.between = .idle 4 :: [.idle 4] ∧ testing.todo.idle = true ∧ 4 ∉ testing.todo.tested) ∧
    4 ∈ ({ testing.todo with tested := [4] } : FrameTodo).tested ∧ { put copper with missCount := 15 }.missCount < 16 := by
  rw [finish_still _ still_aligned]; decide

/-- Frame 1000, a cycle boundary that has been counted. -/
def counted (s : State) : State := { s with frameCount := some 1000 }

theorem test_meets_ExpiriesAbandon :
    ((put (bridged .bridging)).servesNone 4 ∧ ((put (bridged .bridging)).settleBoundary.circuit 4).state = .bridging ∧
      ((put (bridged .bridging)).settleBoundary.circuit 4).stateTimer = 0) ∧
    ((counted (put { bridged .spliceWait with silence := 40 })).ctx.counted = true ∧
      ((counted (put { bridged .spliceWait with silence := 40 })).circuit 4).state.beforeSplice = true ∧
      (put copper).settings.params.bridgeIdle ≤ 40) ∧
    ((put { bridged .bridging with stateTimer := 1 }).settleBoundary.circuit 4).stateTimer ≠ 0 ∧
    ((put (bridged .aligned)).settleBoundary.circuit 4).state ≠ .bridging ∧
    ((put copper).settleBoundary.circuit 4).state.beforeSplice = false ∧ (put copper).settleBoundary.ctx.counted = false ∧
    ((counted (put { bridged .spliceWait with silence := 39 })).settleBoundary.circuit 4).silence <
      (put copper).settings.params.bridgeIdle :=
  ⟨⟨Or.inr (Or.inl rfl), by decide, by decide⟩, by decide⟩

theorem test_meets_StreamLossThenPeerHold :
    ((counted (put { playing with silence := 4 })).ctx.counted = true ∧
      (put copper).settings.params.streamLoss ≤ ((counted (put { playing with silence := 4 })).circuit 4).silence ∧
      ((counted (put { playing with silence := 4 })).circuit 4).state = .spliced) ∧
    ((counted (put { bridged .committed with silence := 4 })).circuit 4).state = .committed ∧
    ((counted (put { bridged .held with silence := 4 })).circuit 4).state.onFibre = false ∧
    (((put (bridged .held)).circuit 4).state = .held ∧ ((put (bridged .held)).circuit 4).stateTimer = 0) ∧
    ((put waiting).circuit 4).stateTimer ≠ 0 ∧ (put playing).settleBoundary.ctx.counted = false ∧
    ((counted (put { playing with silence := 3 })).settleBoundary.circuit 4).silence < (put copper).settings.params.streamLoss := by
  decide

/-- The list with a LIVE record of circuit 4. -/
def live (settle : Nat) (hold : Option Nat) (t : Trunk) : Trunk :=
  { t with fallback := [⟨4, some ⟨990, settle, hold, false⟩⟩] }

theorem test_meets_HoldAndSettleExpiry :
    (putWith playing (live 9 (some 0))).trunk.liveOf 4 = some ⟨990, 9, some 0, false⟩ ∧
    (putWith playing (live 9 (some 1))).trunk.liveOf 4 = some ⟨990, 9, some 1, false⟩ ∧
    (putWith playing (live 0 none)).trunk.liveOf 4 = some ⟨990, 0, none, false⟩ ∧
    ((putWith { playing with deferredRevert := true } (live 0 none)).circuit 4).deferredRevert = true ∧
    ((putWith (bridged .revertWait) (live 0 none)).circuit 4).state = .revertWait ∧
    (put copper).trunk.liveOf 4 = none ∧ (putWith playing (live 0 none)).trunk.waitQueue = [] ∧ (put playing).settleBoundary = put playing := by decide

set_option maxRecDepth 100000 in
theorem test_meets_PeerLossAndRestartHandedToCircuits :
    (({ put playing with peers := [(3, ⟨.present, 4, false, some 24, none, 0, 0⟩)] }.peer 3).miss = 4 ∧
      ({ put playing with peers := [(3, ⟨.present, 3, false, some 24, none, 0, 0⟩)] }.peer 3).miss < 4 ∧
      (put playing).trunk.waitQueue = [] ∧
      ({ put playing with peers := [(3, ⟨.lost, 4, false, some 24, none, 0, 0⟩)] }.peer 3).state ≠ .present ∧
      ((put playing).peer 5).state ≠ .present) ∧
    ((put playing).takesCell 3 (beaconCell 23) ∧ headerOk 3 (beaconCell 23) = true ∧ kindOf (beaconCell 23) = 2 ∧
      beaconBodyOk (beaconCell 23) = true ∧ (put playing).settings.acceptMask.getLsbD 3 = true ∧
      ((put playing).peer 3).lossDue = false ∧ ((put playing).peer 3).state ≠ .absent ∧
      ((put playing).peer 3).cycles = some 24 ∧ fieldAt (beaconCell 23) 6 6 < 24) := by
  refine ⟨?_, ⟨?_, ?_, ?_, ?_⟩, ?_⟩ <;> decide

theorem test_meets_DeficitAndReverseJudgement :
    ((bridged .aligned).align.offset = some 130 ∧ (bridged .aligned).ring ≠ []) ∧ copper.align.offset = none ∧
    (({ bridged .spliced with splice := { SpliceItems.start with playOffset := some 146, fill := some ⟨1000, 16⟩ } }).splice.fill =
        some ⟨1000, 16⟩ ∧ ((1006 : Word) - 1 - 1000).toInt < (16 : Int)) ∧
      (16 : Int) ≤ ((1017 : Word) - 1 - 1000).toInt ∧ (bridged .spliced).splice.playOffset = some 146 := by decide

/-- Circuit 4 with its sample of the frame given and a quiet run found by it. -/
def ripened (st : CircuitState) : Circuit := { bridged st with
  path := { PathItems.start with given := true }
  splice := { (bridged st).splice with ripe := true } }

theorem test_meets_QuietRunsDecide :
    (((putWith (ripened .spliceWait) fun t => { t with fallback := [⟨4, none⟩] }).giveSlotNow 4).circuit 4).splice.ripe = true ∧
    ((putWith (ripened .spliceWait) fun t => { t with fallback := [⟨4, none⟩] }).giveSlotNow 4).trunk.recordOf 4 =
      some ⟨4, none⟩ ∧
    (((put (ripened .revertWait)).giveSlotNow 4).circuit 4).state = .revertWait ∧
    (((put copper).giveSlotNow 4).circuit 4).splice.ripe = false ∧
    (((put (bridged .spliceWait)).circuit 4).path.given = false ∧ ((put (bridged .spliceWait)).circuit 4).path.source = .copper ∧
      ((put (bridged .spliceWait)).circuit 4).splice.fill = none) ∧
    ∃ u, step { put (bridged .spliceWait) with todo := { FrameTodo.none with select := true, between := [.slot 4] } } = .next u :=
  ⟨by decide, by decide, by decide, by decide, by decide, _, rfl⟩

/-- R88: a quiet fibre sample, a concealed one and an active one heard in REVERT_WAIT with 79 quiet samples before, Qmin being
80; and the slot of every other source is still to be given too. -/
theorem test_quiet_run_on_fibre :
    let r : Circuit := { playing with state := .revertWait, splice := { playing.splice with quietRun := 79 } }
    let heard (b : Byte) : Circuit := { r with playout := [(348, ⟨b, some 860, 5⟩)] }
    ((due (heard 0xFF)).todo.select = true ∧ ((due (heard 0xFF)).circuit 4).path.given = false ∧
      ((due (heard 0xFF)).giveAll.circuit 4).splice.ripe = true) ∧
    (((due { r with playout := [] }).giveSlotNow 4).circuit 4).splice.ripe = true ∧
    ((due (heard 0)).giveAll.circuit 4).splice.ripe = false := by decide

/-- Circuit 4 at an alignment offset. -/
def alignedAt (st : CircuitState) (o : Word) : Circuit := { bridged st with
  align := { AlignItems.start with obase := some 130, offset := some o } }

/-- Deficits of 0, 1, 160 and 161 around the guard of 16 and Dmax of 160. -/
theorem test_deficits :
    ([146, 145, 65522, 65521].map fun o =>
      ({ alignedAt .aligned o with ring := pushRing (alignedAt .aligned o).ring 130 } : Circuit).deficitNow .start) =
      [some 0, some 1, some 160, some 161] := by decide

theorem test_meets_ArrivalInSpliceWait :
    (∀ o, (putWith (alignedAt .spliceWait o) fun t => { t with fallback := [⟨4, none⟩] }).delivers 3 (cell 1 875) .bridging 4) ∧
      (putWith (bridged .spliceWait) fun t => { t with fallback := [⟨4, none⟩] }).trunk.recordOf 4 = some ⟨4, none⟩ ∧
      (put (bridged .spliceWait)).trunk.waitQueue = [] ∧ (put (bridged .spliceWait)).settings.params.idleQualify = 100 :=
  ⟨fun _ => heard _ .bridging _, by decide⟩

theorem test_meets_ArrivalInAligned :
    (∀ o, (put (alignedAt .aligned o)).delivers 3 (cell 1 875) .bridging 4) ∧
      (pushRing ((put (bridged .aligned)).circuit 4).ring 130).length = 16 ∧ (put (bridged .aligned)).settings.policy = .hold ∧
      (put (bridged .aligned)).trunk.recordOf 4 = none ∧ (put (bridged .aligned)).paused = false ∧
      (put (bridged .aligned)).trunk.fallback.length < 8 ∧ { put copper with paused := true }.paused = true ∧
      8 ≤ (putWith copper fun t => { t with fallback := List.replicate 8 ⟨9, none⟩ }).trunk.fallback.length :=
  ⟨fun _ => heard_plain _ .bridging, by decide⟩

/-- A full list under ROLL with no circuit waiting, whose oldest LIVE record is that of circuit 9. -/
def rolling (r : Circuit) : State := { putWith r (fun t => { t with
    circuits := t.circuits ++ [(9, { playing with binding := some ⟨0, 3, 9⟩ })]
    fallback := [⟨7, none⟩, ⟨8, none⟩, ⟨9, some ⟨900, 5, none, false⟩⟩] ++ List.replicate 5 ⟨10, none⟩ }) with
  settings := { Settings.start with policy := .roll } }

theorem heard_rolling (r : Circuit) : (rolling r).delivers 3 (cell 1 875) .bridging 4 := by
  have h := (heard r .bridging id).1
  exact ⟨⟨⟨rfl, by decide, h.1.2.2.1, h.1.2.2.2⟩, h.2.1, h.2.2.1, h.2.2.2.1, mask_holds_station⟩, by decide,
    Or.inl (by simp [State.ctx, rolling, putWith, put, cyclePos]), window, ⟨rfl, by decide⟩, rfl⟩

theorem test_meets_ArrivalRolls :
    (∀ o, (rolling (alignedAt .aligned o)).delivers 3 (cell 1 875) .bridging 4) ∧
    (rolling (bridged .aligned)).trunk.recordOf 4 = none ∧ (rolling (bridged .aligned)).paused = false ∧
    (rolling (bridged .aligned)).trunk.waitQueue = [] ∧ (rolling (bridged .aligned)).trunk.fallback.length = 8 ∧
    (rolling (bridged .aligned)).trunk.fallback =
      [⟨7, none⟩, ⟨8, none⟩] ++ ⟨9, some ⟨900, 5, none, false⟩⟩ :: List.replicate 5 ⟨10, none⟩ ∧
    ((rolling (bridged .aligned)).circuit 9).binding = some ⟨0, 3, 9⟩ ∧
    ((rolling (bridged .aligned)).circuit 9).legacyReleased = false ∧
    (pushRing ((rolling (bridged .aligned)).circuit 4).ring 130).length = 16 :=
  ⟨fun o => heard_rolling (alignedAt .aligned o), by decide⟩

/-- Circuit 4 in BRIDGING with both directions idle for the qualification time. -/
def idle : Circuit := { bridged .bridging with align := { AlignItems.start with obase := some 130, idleQualify := 100 } }

theorem test_meets_IdleTestInBridging :
    (put idle).delivers 3 (cell 1 875) .bridging 4 ∧ ((put idle).circuit 4).align.obase = some 130 ∧
      ((put idle).circuit 4).align.offset = none ∧
      pushRing ((put idle).circuit 4).ring ((put idle).frame - ssnOf (cell 1 875)) = List.replicate 16 130 ∧
      (∀ e ∈ List.replicate 16 (130 : Word), -16000 < ((130 : Word) - e).toInt ∧ ((130 : Word) - e).toInt < 16000) ∧
      (put idle).settings.params.guard ≤ 64 ∧
      (put idle).settings.params.idleQualify ≤ ((put idle).circuit 4).align.idleQualify := by
  refine ⟨heard_plain _ .bridging, by decide, by decide, by decide, fun e he => ?_, by decide, by decide⟩
  rw [List.eq_of_mem_replicate he]; simp

/-- The second part: each ground on which the idle test fails or its request is given no record. -/
theorem test_meets_IdleTestInBridging_refused :
    (∀ r f, (putWith r f).delivers 3 (cell 1 875) .bridging 4) ∧
    { idle.align with idleQualify := 99 }.idleQualify < (put idle).settings.params.idleQualify ∧
    (pushRing (List.replicate 14 130) 130).length ≠ 16 ∧
    ({ put idle with paused := true }.delivers 3 (cell 1 875) .bridging 4 ∧ { put idle with paused := true }.paused = true) ∧
    (putWith idle fun t => { t with waitQueue := [9] }).trunk.waitQueue ≠ [] ∧
    (8 ≤ (rolling idle).trunk.fallback.length ∧ (put idle).settings.policy = .hold) ∧
    ∀ f ∈ (putWith idle fun t => { t with fallback := List.replicate 8 ⟨10, none⟩ }).trunk.fallback, f.live = none :=
  ⟨fun r f => heard r .bridging f, by decide, by decide, ⟨heard_plain idle .bridging, rfl⟩, by decide, by decide, by decide⟩

/-- The third part: a full list under ROLL. -/
theorem test_meets_IdleTestInBridging_rolls :
    (rolling idle).delivers 3 (cell 1 875) .bridging 4 ∧ ((rolling idle).circuit 4).state = .bridging ∧
    ((rolling idle).circuit 4).align.obase = some 130 ∧ ((rolling idle).circuit 4).align.offset = none ∧
    (rolling idle).paused = false ∧ (rolling idle).trunk.recordOf 4 = none ∧ (rolling idle).trunk.waitQueue = [] ∧
    (rolling idle).trunk.fallback = [⟨7, none⟩, ⟨8, none⟩] ++ ⟨9, some ⟨900, 5, none, false⟩⟩ :: List.replicate 5 ⟨10, none⟩ ∧
    ((rolling idle).circuit 9).binding = some ⟨0, 3, 9⟩ ∧ ((rolling idle).circuit 9).legacyReleased = false ∧
    pushRing ((rolling idle).circuit 4).ring ((rolling idle).frame - ssnOf (cell 1 875)) = List.replicate 16 130 ∧
    (rolling idle).settings.params.idleQualify ≤ ((rolling idle).circuit 4).align.idleQualify :=
  ⟨heard_rolling idle, by decide⟩

/-- A full list whose third record is LIVE, with circuit 4 waiting at the head of the queue. -/
def fullList (t : Trunk) : Trunk :=
  { t with fallback := [⟨7, none⟩, ⟨8, none⟩, ⟨9, some ⟨900, 5, none, false⟩⟩] ++ List.replicate 5 ⟨10, none⟩, waitQueue := [4] }

theorem test_meets_RequestsAndServings :
    (put copper).trunk.waitQueue = [] ∧ (putWith (bridged .splicePending) fullList).trunk.waitQueue = [4] ∧
    (putWith (bridged .splicePending) fullList).trunk.fallback =
      [⟨7, none⟩, ⟨8, none⟩] ++ ⟨9, some ⟨900, 5, none, false⟩⟩ :: List.replicate 5 ⟨10, none⟩ ∧
    (putWith (bridged .splicePending) fullList).trunk.fallback.length = 8 ∧
    (putWith (bridged .splicePending) fun t => { fullList t with fallback := List.replicate 7 ⟨10, none⟩ }).trunk.fallback.length = 7 ∧
    ((put (bridged .splicePending)).circuit 4).deficitNow .start = some 16 ∧
    (putWith (bridged .splicePending) fullList).trunk.recordOf 4 = none ∧
    ((put (alignedAt .splicePending 65521)).circuit 4).deficitNow .start = some 161 ∧
    ((putWith (bridged .spliceWait) fun t => { t with fallback := [⟨4, none⟩], waitQueue := [9] }).trunk.recordOf 4 = some ⟨4, none⟩ ∧
      ∀ d, d ≠ 4 → ((put (bridged .spliceWait)).circuit d).binding = none) ∧
    ((putWith playing fun t => { live 0 none t with waitQueue := [9] }).trunk.liveOf 4 = some ⟨990, 0, none, false⟩ ∧
      ((putWith playing fun t => { live 0 none t with waitQueue := [9] }).circuit 4).state = .spliced) ∧
    (counted (putWith { playing with silence := 4 } (live 0 none))).ctx.counted = true ∧
    ({ put playing with peers := [(3, ⟨.present, 4, false, some 24, none, 0, 0⟩)] }.peer 3).miss = 4 := by
  refine ⟨by decide, by decide, by decide, by decide, by decide, by decide, by decide, by decide, ⟨by decide, fun d hd => ?_⟩,
    by decide, by decide, by decide⟩
  rw [put_circuit, if_neg hd]; rfl

/-- Under ROLL, circuit 4 waits before circuit 7 with a deficit of 0, and the third record of a full list is LIVE. -/
def waitingSeamless : State :=
  { rolling (alignedAt .splicePending 146) with trunk := { (rolling (alignedAt .splicePending 146)).trunk with waitQueue := [4, 7] } }

/-- The same head with room, where its record fills the list and where it does not, and in a full list. -/
theorem test_meets_RequestsAndServings_seamless :
    (waitingSeamless.ctx.paused = false ∧ waitingSeamless.trunk.waitQueue = 4 :: [7] ∧
      waitingSeamless.trunk.recordOf 4 = none ∧ (waitingSeamless.circuit 4).binding = some ⟨0, 3, 4⟩ ∧
      (waitingSeamless.circuit 4).align.offset = some 146 ∧
      (waitingSeamless.circuit 4).deficitNow waitingSeamless.ctx.settings.params = some 0) ∧
    (waitingSeamless.ctx.settings.policy = .roll ∧ waitingSeamless.trunk.fallback.length = 8 ∧
      waitingSeamless.trunk.fallback = [⟨7, none⟩, ⟨8, none⟩] ++ ⟨9, some ⟨900, 5, none, false⟩⟩ :: List.replicate 5 ⟨10, none⟩ ∧
      (waitingSeamless.circuit 9).binding = some ⟨0, 3, 9⟩) ∧
    ∀ n, ({ waitingSeamless.trunk with fallback := List.replicate n ⟨10, none⟩ } : Trunk).recordOf 4 = none ∧
      ({ waitingSeamless.trunk with fallback := List.replicate n ⟨10, none⟩ } : Trunk).fallback.length = n := by
  refine ⟨by decide, by decide, fun n => ⟨?_, List.length_replicate ..⟩⟩
  simp [Trunk.recordOf]

/-- Circuit 4 with a record, and circuit 9 waiting for one. -/
def served (r : Circuit) : State := putWith r fun t => { t with fallback := [⟨4, none⟩], waitQueue := [9] }

set_option maxRecDepth 100000 in
theorem test_meets_EveryRemovalServes :
    (∀ r, (served r).trunk.recordOf 4 = some ⟨4, none⟩ ∧ 4 ∉ (served r).trunk.waitQueue) ∧
    (∀ r, (served r).delivers 3 (cell 6 875) .release 4 ∧ (served r).delivers 3 (cell 1 875) .bridging 4) ∧
    (∀ r v, (ordered (served r) v 1 4 0).headIs ⟨5, 7, v, 1, 4, 0⟩ []) ∧
    ((served (bridged .spliceWait)).circuit 4).state.beforeSplice = true ∧
    ((counted (served { bridged .spliceWait with silence := 40 })).ctx.counted = true ∧
      (counted (served { bridged .spliceWait with silence := 40 })).settleBoundary.trunk.waitQueue = [9]) ∧
    ((served { judged .spliceWait .whole 0 2 with history := [] }).trunk.dueWindow
        (served (judged .spliceWait .whole 0 2)).ctx 4 = some ⟨760, 1005⟩ ∧
      { judged .spliceWait .whole 0 2 with history := [] }.conclusive .start 760 = true ∧
      { judged .spliceWait .whole 0 2 with history := [] }.matchesAt 760 146 = false) ∧
    (((served (ripened .revertWait)).giveSlotNow 4).circuit 4).splice.ripe = true ∧
    (((served (ripened .spliceWait)).giveSlotNow 4).circuit 4).splice.deficit = some 16 ∧
    ((served playing).circuit 4).state = .spliced := by
  refine ⟨fun r => ⟨rfl, by simp [served, putWith]⟩, fun r => ⟨heard r .release _, heard r .bridging _⟩, fun r v => takes_order r _ v 1 4 0,
    by decide, by decide, ⟨?_, ?_, ?_⟩, ?_, ?_, ?_⟩ <;> decide

/-- Circuit 4 with one release cell left, in the row of frame 1005, which is still to be built. -/
def leavingRow : State :=
  { putWith { copper with releaseCells := 1, calendarRow := some 5 } (fun t => { t with calendar := [(5, [4])] }) with
    todo := { FrameTodo.none with build := true } }

set_option maxRecDepth 100000 in
theorem test_meets_LastReleaseCellLeavesCalendar :
    (leavingRow.frame.toNat % 40 = 5 ∧ leavingRow.stationNo = some 2 ∧ leavingRow.todo.build = true ∧
      4 ∈ leavingRow.trunk.row 5 ∧ (leavingRow.circuit 4).state = .copper ∧ (leavingRow.circuit 4).releaseCells = 1) ∧
    leavingRow.rowSound 5 ∧ (put copper).todo.build = false ∧
    (leavingRow.stationState = .operating ∧ leavingRow.frameCount ≠ none ∧ leavingRow.finishFrame.sendsRestart = false ∧
      leavingRow.settleBoundary.takeRest.trunk.row 5 = [4] ∧
      (leavingRow.settleBoundary.takeRest.circuit 4).calendarRow = some 5) ∧
    ({ leavingRow with todo := { leavingRow.todo with between := [.build] } }.pending = [] ∧
      { leavingRow with todo := { leavingRow.todo with between := [.build] } }.todo.between = .build :: []) := by
  refine ⟨by decide, ⟨by decide, by decide⟩, by decide, by decide, by decide⟩

set_option maxRecDepth 100000 in
theorem test_meets_LaneFrameAndServicePlace :
    ((put copper).finishFrame.sendsRestart = false ∧ (put copper).finishFrame.stationState = .operating ∧
      (put copper).finishFrame.bearerPlaces.length ≤ 6 ∧ (put copper).finishFrame.servicePlace = .empty ∧
      (put copper).finishFrame.replyQueue = []) ∧
    (loading 1).finishFrame.stationState = .loading ∧ ((1039 : Word) + 1).toNat % 40 = 0 ∧
    { put copper with replyQueue := [⟨5, 7, 5, .done, none, []⟩] }.finishFrame.replyQueue = [⟨5, 7, 5, .done, none, []⟩] := by
  decide

/-- A frame whose service place is still to be filled, among the commands or at the close; with a reply, and at position 0. -/
def unfilled (f : Word) (rs : List Reply) : State :=
  { put copper with frameCount := some f, replyQueue := rs, todo := { FrameTodo.none with service := true, between := [.service] } }

set_option maxRecDepth 100000 in
theorem test_meets_LaneFrameAndServicePlace_filled :
    ((unfilled 1005 []).stationState.onStar = true ∧ (unfilled 1005 []).missCount < 16 ∧ (unfilled 1005 []).todo.service = true ∧
      (unfilled 1005 []).servicePlace = .empty ∧ (unfilled 1005 []).finishFrame.sendsRestart = false ∧
      (unfilled 1005 []).settleBoundary.takeRest.buildRow.replyQueue = []) ∧
    ((unfilled 1005 [⟨5, 7, 5, .done, none, []⟩]).settleBoundary.takeRest.buildRow.replyQueue = [⟨5, 7, 5, .done, none, []⟩] ∧
      (unfilled 1005 [⟨5, 7, 5, .done, none, []⟩]).finishFrame.sendsRestart = false) ∧
    ((unfilled 1000 []).finishFrame.sendsRestart = false ∧ (1000 : Word).toNat % 40 = 0 ∧ (1005 : Word).toNat % 40 ≠ 0) ∧
    ((unfilled 1005 []).pending = [] ∧ (unfilled 1005 []).todo.between = .service :: []) ∧
    { unfilled 1005 [] with stationState := .offStar }.stationState.onStar = false := by decide

/-- The third part: what the close of a frame takes. -/
theorem test_meets_BoundaryCountsAndListening_close :
    ((put copper).todo.late = false ∧ { put copper with todo := { FrameTodo.none with late := true } }.todo.late = true) ∧
    ((put (ripened .spliceWait)).circuit 4).path.given = true ∧
    ((ordered (put copper) 1 1 4 0).headIs ⟨5, 7, 1, 1, 4, 0⟩ [] ∧ Order.row ⟨5, 7, 1, 1, 4, 0⟩ = some .cut) ∧
    8 ≤ crowded.replyQueue.length ∧ (put copper).orderQueue = [] :=
  ⟨by decide, by decide, ⟨takes_order copper id 1 1 4 0, by decide⟩, by decide, rfl⟩

theorem test_meets_BearerCellsReadAsBuilt :
    (bridged .spliced).state.announces = some .spliced ∧ (bridged .spliced).capture.length = 40 := by decide

theorem test_meets_BeaconsReadAsBuilt :
    (put copper).stationNo = some 2 ∧ (put copper).trunk.fallback.length ≤ 8 ∧ (put copper).windows.length = 8 ∧ (put copper).cycleCount < 281474976710656 ∧
      ∀ w ∈ (put copper).windows, w.peer < 16 ∧ w.localBase < 256 ∧ w.peerBase < 256 ∧ 1 ≤ w.length ∧ w.length ≤ 256 := by
  decide

set_option maxRecDepth 100000 in
/-- The bytes 0..5 of a beacon by Table 12.1: station 2 in OPERATING after POWER, paused, with one record in its list. -/
theorem test_beacon_header :
    { putWith copper (fun t => { t with fallback := [⟨4, none⟩] }) with paused := true }.beaconBytes.take 6 =
      [0x42, 0x31, 0x81, 0, 0, 0xD3] := by decide

set_option maxRecDepth 16000 in
/-- A reply of station 2 to station 5 by Table 12.1 and the reply body: a REVERT of circuit 4, refused NO_FALLBACK. The check
bytes were worked out outside the model from R158. -/
theorem test_reply_bytes :
    Reply.bytes 2 ⟨5, 7, 2, .refused, some .noFallback, [4, 0x80]⟩ =
      [0x82, 0x25, 7, 2, 9, 0xD0, 2, 4, 0x80, 0xFF, 0xB0] := by decide

/-- A report by Table 12.5: circuit 4 SPLICED by station 3, FORCED with D of 16 and an activity gap, in cycle 25; and the same
without what is optional. -/
theorem test_report_bytes :
    Report.bytes ⟨.spliced, some 4, some 3, 25, some (.splice .forced), some 16, ⟨false, false, true⟩⟩ =
      [10, 0x4F, 4, 3, 3, 0, 16, 0, 0, 0, 25] ∧
    Report.bytes ⟨.started, none, none, 258, some (.start .timing), none, ⟨false, false, false⟩⟩ =
      [1, 0x04, 0, 0, 4, 0, 0, 0, 0, 1, 2] := by decide

theorem test_meets_ReplyBytes :
    (2 < 15 ∧ (⟨5, 7, 2, .refused, some .noFallback, [4, 0x80]⟩ : Reply).payload.length ≤ 56) ∧
    (List.replicate 56 (0 : Byte)).length ≤ 56 := by decide

theorem test_meets_OrdersWaitAndRestartStopsThem :
    (put copper).orderQueue = [] ∧ { put copper with stationState := .offStar }.stationState.onStar = false ∧
      8 ≤ { put copper with replyQueue := List.replicate 8 ⟨5, 7, 5, .done, none, []⟩ }.replyQueue.length ∧
      ({ ordered (put copper) 1 1 4 0 with restartTaken := true }.restartTaken = true ∧
        { ordered (put copper) 1 1 4 0 with restartTaken := true }.orderQueue ≠ []) ∧
      (ordered (put copper) 10 0 0 0).headIs ⟨5, 7, 10, 0, 0, 0⟩ [] :=
  ⟨rfl, rfl, by decide, by decide, takes_order copper id 10 0 0 0⟩

/-- Orders refused as a whole: a CUT in CONFIG_BAD, a CUT of a window 8, a REVERT of operand kind 0, a query of segment 2 and
a taking of five reports. -/
theorem test_meets_OrdersRefusedAsAWhole :
    ((ordered { put copper with stationState := .configBad } 1 1 4 0).headIs ⟨5, 7, 1, 1, 4, 0⟩ []) ∧
      (∀ v k o g, (ordered (put copper) v k o g).headIs ⟨5, 7, v, k, o, g⟩ []) ∧
      ((2 : Nat) ≠ 1 ∧ 7 < 8) ∧ (1 < 2 ∧ 4 < 5) ∧
      (ordered { put copper with stationState := .configBad } 8 5 9 0).headIs ⟨5, 7, 8, 5, 9, 0⟩ [] ∧
      { put copper with orderQueue := [⟨5, 7, 0, 1, 4, 0⟩, ⟨5, 7, 1, 1, 4, 0⟩] }.headIs ⟨5, 7, 0, 1, 4, 0⟩ [⟨5, 7, 1, 1, 4, 0⟩] ∧
      Order.row ⟨5, 7, 1, 1, 4, 0⟩ = some .cut :=
  ⟨⟨rfl, by decide, rfl, rfl⟩, fun _ _ _ _ => takes_order copper id _ _ _ _, by decide, by decide,
    ⟨rfl, by decide, rfl, rfl⟩, ⟨rfl, by decide, rfl, rfl⟩, rfl⟩

/-- One station for each reason of a CUT, in the order of the tests, and one that passes them. -/
theorem test_meets_CutTestsAndEntry :
    (∀ r f, (ordered (putWith r f) 1 1 4 0).headIs ⟨5, 7, 1, 1, 4, 0⟩ []) ∧
    (put { copper with binding := none }).stage = .operating ∧ (ordered hearing 1 1 4 0).stage = .listening ∧
    ((put (bridged .held)).circuit 4).state ≠ .copper ∧
    ((put { copper with releaseCells := 4 }).circuit 4).releaseCells ≠ 0 ∧
    (∀ w ∈ { put copper with windows := [{ window with matched := false }] }.windows[0]?, w.matched = false) ∧
    ({ put copper with peers := [] }.peer 3).state ≠ .present ∧
    (∀ k, k < 40 → 6 ≤ ((putWith copper fullRows).trunk.row k).length) ∧
    ((put copper).windows[0]? = some window ∧ ((put copper).circuit 4).calendarRow = none) :=
  ⟨fun r f => takes_order r f 1 1 4 0, by decide⟩

theorem test_meets_RevertByState :
    (∀ r f, (ordered (putWith r f) 2 1 4 0).headIs ⟨5, 7, 2, 1, 4, 0⟩ []) ∧
    ((put copper).circuit 3).state = .vacant ∧ ((put copper).circuit 4).state = .copper ∧
    ((put (bridged .held)).circuit 4).state = .held ∧ ((put (bridged .aligned)).circuit 4).state.beforeSplice = true ∧
    (putWith playing (live 9 (some 3))).trunk.liveOf 4 = some ⟨990, 9, some 3, false⟩ ∧
    (putWith playing (live 9 none)).trunk.liveOf 4 = some ⟨990, 9, none, false⟩ ∧
    ((put (bridged .revertWait)).circuit 4).state = .revertWait ∧ ((put (bridged .down)).circuit 4).state = .down :=
  ⟨fun r f => takes_order r f 2 1 4 0, by decide⟩

theorem test_meets_RevertLastSelectsNewestLive :
    (∀ r f, (ordered (putWith r f) 2 4 0 0).headIs ⟨5, 7, 2, 4, 0, 0⟩ []) ∧
    (∀ g ∈ (put copper).trunk.fallback, g.live = none) ∧
    (putWith playing fun t => { t with fallback := [⟨9, none⟩, ⟨4, some ⟨990, 9, some 3, false⟩⟩, ⟨8, none⟩] }).trunk.fallback =
      [⟨9, none⟩] ++ ⟨4, some ⟨990, 9, some 3, false⟩⟩ :: [⟨8, none⟩] ∧ ((put playing).circuit 4).state = .spliced :=
  ⟨fun r f => takes_order r f 2 4 0 0, by decide⟩

theorem test_meets_ForceAndCommitByState :
    (∀ r f, (ordered (putWith r f) 3 1 4 0).headIs ⟨5, 7, 3, 1, 4, 0⟩ []) ∧
    (∀ r f, (ordered (putWith r f) 4 1 4 0).headIs ⟨5, 7, 4, 1, 4, 0⟩ []) ∧
    (putWith (ripened .spliceWait) fun t => { t with fallback := [⟨4, none⟩] }).trunk.recordOf 4 = some ⟨4, none⟩ ∧
    ((put (ripened .spliceWait)).circuit 4).path.given = true ∧ ((put (ripened .spliceWait)).circuit 4).path.lastSample = 255 ∧
    ((put (bridged .revertWait)).circuit 4).state = .revertWait ∧ ((put playing).circuit 4).legacyReleased = false :=
  ⟨fun r f => takes_order r f 3 1 4 0, fun r f => takes_order r f 4 1 4 0, by decide⟩

set_option maxRecDepth 100000 in
theorem test_meets_GroupOrdersAnswered :
    (ordered (put copper) 1 3 0 0).headIs ⟨5, 7, 1, 3, 0, 0⟩ [] ∧
    (List.range 256).filter (fun c => ((put copper).circuit c).binding.isSome) = [4] ∧
    { put copper with windows := [{ window with length := 2 }] }.windows[0]? = some { window with length := 2 } ∧
    { put copper with windows := [.start] }.windows[0]? = some .start ∧
    ((ordered hearing 1 3 0 0).headIs ⟨5, 7, 1, 3, 0, 0⟩ [] ∧ (ordered hearing 1 3 0 0).stage = .listening) :=
  ⟨takes_order copper id 1 3 0 0, by decide, by decide, by decide, ⟨rfl, by decide, rfl, rfl⟩, by decide⟩

theorem test_meets_PauseAndResume :
    (ordered (put copper) 5 0 0 0).headIs ⟨5, 7, 5, 0, 0, 0⟩ [] ∧ (ordered (put copper) 6 0 0 0).headIs ⟨5, 7, 6, 0, 0, 0⟩ [] ∧
      (put copper).paused = false ∧ (ordered { put copper with paused := true } 6 0 0 0).headIs ⟨5, 7, 6, 0, 0, 0⟩ [] ∧
      (put copper).trunk.fallback.length < 8 ∧
      8 ≤ (putWith copper fullList).trunk.fallback.length ∧ (put copper).settings.policy = .hold ∧
      { put copper with settings := { Settings.start with policy := .roll } }.settings.policy = .roll :=
  ⟨takes_order copper id 5 0 0 0, takes_order copper id 6 0 0 0, rfl, ⟨rfl, by decide, rfl, rfl⟩, by decide, by decide, rfl, rfl⟩

theorem test_meets_TakeReportsDrains :
    (ordered (put copper) 9 6 1 0).headIs ⟨5, 7, 9, 6, 1, 0⟩ [] ∧ (ordered (put copper) 9 6 4 0).headIs ⟨5, 7, 9, 6, 4, 0⟩ [] ∧
      (ordered { put copper with stationState := .configBad } 9 6 4 0).headIs ⟨5, 7, 9, 6, 4, 0⟩ [] ∧
      (let r : Report := ⟨.spliced, some 4, some 3, 25, some (.splice .forced), some 16, ⟨false, false, true⟩⟩
       (putWith copper fun t => { t with reports := [r] }).trunk.reports[0]? = some r) :=
  ⟨takes_order copper id 9 6 1 0, takes_order copper id 9 6 4 0, ⟨rfl, by decide, rfl, rfl⟩, rfl⟩

set_option maxRecDepth 100000 in
theorem test_meets_QueriesCarryRecords :
    ((ordered (put (bridged .spliced)) 7 1 4 1).headIs ⟨5, 7, 7, 1, 4, 1⟩ [] ∧ (bridged .spliced).inRange) ∧
    ((ordered (put copper) 8 5 2 14).headIs ⟨5, 7, 8, 5, 2, 14⟩ [] ∧ ((put copper).peer 3).digest = none) := by
  refine ⟨⟨takes_order (bridged .spliced) id 7 1 4 1, ?_⟩, takes_order copper id 8 5 2 14, rfl⟩
  refine ⟨trivial, ?_, ?_, ?_, ?_, ?_, ?_, ?_, ?_, ?_, ?_, ?_, ?_, ?_, ?_, ?_, ?_, ?_, ?_, ?_, ?_, ?_, bound_in_range⟩ <;>
    decide

/-- A list with a LIVE record whose hold runs, one whose hold has expired, a PENDING record and five empty places. -/
def someRecords (t : Trunk) : Trunk :=
  { t with fallback := [⟨4, some ⟨990, 9, some 3, false⟩⟩, ⟨9, some ⟨900, 5, none, false⟩⟩, ⟨8, none⟩] }

theorem someRecords_within_capacity (g : Nat) : (ordered (putWith playing someRecords) 8 5 3 g).withinCapacity := by
  refine ⟨(by decide : 1 ≤ 4), Nat.zero_le 255, Nat.zero_le 8, Nat.zero_le 64, Nat.zero_le 255, (by decide : 3 ≤ 8),
    fun _ => Nat.zero_le 6, rfl, Nat.zero_le 16, (by decide : 25 < 281474976710656), fun p => ?_⟩
  have hp : (ordered (putWith playing someRecords) 8 5 3 g).peer p = (put playing).peer p := rfl
  rw [hp, put_peer]; split <;> decide

theorem test_meets_QueriesCarryRecords_fallback :
    (∀ g, (ordered (putWith playing someRecords) 8 5 3 g).headIs ⟨5, 7, 8, 5, 3, g⟩ [] ∧
      (ordered (putWith playing someRecords) 8 5 3 g).withinCapacity) ∧
    (∀ p, ((putWith playing someRecords).peer p).digest = none) ∧
    ((putWith playing someRecords).trunk.fallback[4 * 0 + 0]? = some ⟨4, some ⟨990, 9, some 3, false⟩⟩ ∧
      (putWith playing someRecords).trunk.fallback[4 * 0 + 1]? = some ⟨9, some ⟨900, 5, none, false⟩⟩ ∧
      (putWith playing someRecords).trunk.fallback[4 * 0 + 2]? = some ⟨8, none⟩ ∧
      (putWith playing someRecords).trunk.fallback[4 * 0 + 3]? = none ∧
      (putWith playing someRecords).trunk.fallback[4 * 1 + 3]? = none) := by
  refine ⟨fun g => ⟨takes_order playing someRecords 8 5 3 g, someRecords_within_capacity g⟩, fun p => ?_, by decide⟩
  have hp : (putWith playing someRecords).peer p = (put playing).peer p := rfl
  rw [hp, put_peer]; split <;> rfl

theorem test_meets_ReportsFilteredAndEntered :
    ((put { copper with binding := none }).trunk.circuit 4).binding = none ∧
    ((put { copper with lastReported := some .mismatch }).trunk.circuit 4).lastReported = some .mismatch ∧
    (put copper).trunk.reports.length < 64 ∧
    64 ≤ (putWith copper fun t => { t with reports := List.replicate 64 (startedReport .power) }).trunk.reports.length := by
  decide

/-! ## One step each -/

/-- The station after a command. -/
def after (i : Instr) (s : State) : State :=
  match exec i s with
  | .next t => t
  | _ => s

set_option maxRecDepth 16000 in
/-- R10, R58: a follow, whose first cell has arrival offset 130. -/
theorem test_follow :
    let r := (after (.bearerCell 3 (cell 1 875)) (put copper)).circuit 4
    (r.state, r.align.obase, r.ring, r.peerPhase) = (.bridging, some 130, [130], some .bridging) := by decide

set_option maxRecDepth 16000 in
/-- R42, R43: RELEASE to a circuit in COPPER is counted and stored, and starts nothing. -/
theorem test_release_on_copper :
    let r := (after (.bearerCell 3 (cell 6 875)) (put copper)).circuit 4
    (r.state, r.counters.received, r.peerPhase, r.ring) = (.copper, 1, some .release, []) := by decide

/-- R14, R16: the alignment timeout. -/
theorem test_alignment_timeout :
    let r := (after (.alignmentTimeout 4) (put (bridged .bridging))).circuit 4
    (r.state, r.releaseCells, r.align.obase, r.calendarRow) = (.copper, 4, none, some 0) := by decide

/-- R23: stream loss in COMMITTED, with the default peer hold of 400 cycles. -/
theorem test_stream_loss :
    let r := (after (.streamLoss 4) (counted (put { bridged .committed with silence := 4 }))).circuit 4
    (r.state, r.stateTimer, r.splice.playOffset) = (.held, 400, some 146) := by decide

/-- R26: the end of the peer hold. -/
theorem test_peer_hold_expiry :
    let r := (after (.peerHoldExpiry 4) (put (bridged .held))).circuit 4
    (r.state, r.calendarRow, r.splice.playOffset) = (.down, none, none) := by decide

/-- R77, R78: a QUIET splice plays at O + D from the frame after. -/
theorem test_quiet_splice :
    let r := (after (.quietRunSplice 4)
      (putWith (ripened .spliceWait) fun t => { t with fallback := [⟨4, none⟩] })).circuit 4
    (r.state, r.splice.playOffset, r.splice.fill) = (.spliced, some 146, some ⟨1006, 16⟩) := by decide

set_option maxRecDepth 16000 in
/-- R75, R77, R68: an arrival in SPLICE_WAIT with both directions idle splices IDLE at O + D, and O is absent. -/
theorem test_idle_splice :
    let s := served { bridged .spliceWait with align := { AlignItems.start with
      obase := some 130, offset := some 130, idleQualify := 100 } }
    let r := (after (.bearerCell 3 (cell 1 875)) s).circuit 4
    (r.state, r.splice.playOffset, r.splice.lastKind, r.align.offset) =
      (.spliced, some 146, some (.splice .idle), none) := by decide

/-- R97, R19: the settle expiry commits and removes the record. -/
theorem test_settle_expiry :
    let t := after (.settleExpiry 4) (putWith playing (live 0 none))
    ((t.circuit 4).state, t.trunk.fallback) = (.committed, []) := by decide

/-- R18, R97: with the revert deferred, the end of the hold brings REVERT_WAIT. -/
theorem test_hold_expiry :
    let t := after (.holdExpiry 4) (putWith { playing with deferredRevert := true } (live 9 (some 0)))
    ((t.circuit 4).state, (t.circuit 4).deferredRevert) = (.revertWait, false) := by decide

/-- R114: the fourth release cell takes the circuit out of the calendar, in a cell of phase RELEASE. -/
theorem test_last_release_cell :
    let t := after (.lastReleaseCell 4) leavingRow
    ((t.circuit 4).calendarRow, t.trunk.row 5, t.bearerPlaces.map phaseOf) = (none, [], [some .release]) := by decide

/-- R145: a CUT of circuit 4 is done. -/
theorem test_cut :
    let t := after .cut (ordered (put copper) 1 1 4 0)
    ((t.circuit 4).state, t.replyQueue) = (.bridging, [⟨5, 7, 1, .done, none, [4, 0x80]⟩]) := by decide

/-- R148, section 12.3: a TAKE REPORTS of another operand kind is refused and carries no report. -/
theorem test_take_reports_refused :
    (after .takeReports (ordered (put copper) 9 1 4 0)).replyQueue = [⟨5, 7, 9, .refused, some .badOperand, []⟩] := by decide

set_option maxRecDepth 16000 in
/-- R58, R60: the first cell after a CUT fixes Obase, and its window waits for frame 1268. -/
theorem test_first_cell_after_cut :
    let r := (after (.bearerCell 3 (cell 2 875)) (put { copper with state := .bridging })).circuit 4
    (r.align.obase, r.align.judging, r.ring) = (some 130, [⟨875, 1268⟩], [130]) := by decide

/-- Table 12.4: an order of value 0 is refused in front of the CUT behind it, which is done. -/
theorem test_nameless_order :
    (after .cut { put copper with orderQueue := [⟨5, 7, 0, 1, 4, 0⟩, ⟨5, 8, 1, 1, 4, 0⟩] }).replyQueue.map
      (fun r => (r.tag, r.outcome, r.reason)) = [(7, .refused, some .badOperand), (8, .done, none)] := by decide

/-- R148: PAUSE. -/
theorem test_pause : (after .pause (ordered (put copper) 5 0 0 0)).paused = true := by decide

set_option maxRecDepth 16000 in
/-- R140: a fifth order is counted and dropped. -/
theorem test_order_queue_full :
    let t := after (.orderCell 3 (orderFor 2)) crowded
    (t.orderQueue.length, t.orderOverflow) = (4, 1) := by decide

set_option maxRecDepth 16000 in
/-- R141: with room for replies the orders before an arriving one are taken, in queue order. -/
theorem test_orders_taken_before_an_arrival :
    let t := after (.orderCell 3 (orderFor 2)) { put copper with orderQueue := [⟨5, 1, 5, 0, 0, 0⟩, ⟨5, 2, 6, 0, 0, 0⟩] }
    (t.orderQueue.length, t.replyQueue.map Reply.tag) = (1, [1, 2]) := by decide

set_option maxRecDepth 16000 in
/-- R119: a cell whose header check fails is counted for its lane. -/
theorem test_damaged_cell :
    ((after (.bearerCell 3 ((cell 1 875).set 5 0)) (put copper)).peer 3).headerErrors = 1 := by decide

/-- R39, R40: a guard whose count is 0 ends. -/
theorem test_guard_end :
    ((after (.guardEnd 4) (put { playing with guard := some ⟨0, 5⟩ })).circuit 4).guard = none := by decide

/-- The front command is taken and the others wait. -/
theorem test_step_takes_front :
    (match step { put copper with pending := [.timingLoss, .cut] } with
      | .next t => t.pending
      | _ => []) = [.cut] := by decide

/-- No word of the table spells a command, so nothing is put in the queue. -/
theorem test_no_word_is_a_command : (decodeTableWord 8 1, State.reset.withFetchWord 8 1) = (none, State.reset) := rfl

/-! ## A station that meets the invariants -/

theorem test_meets_StepKeepsStoresCanonical : (put copper).storesCanonical := by
  refine ⟨by decide, by decide, by decide, fun c => ?_⟩
  rw [put_circuit]; split <;> exact ⟨by decide, by decide⟩

theorem test_meets_StepKeepsRecords : (put copper).recordsInRange ∧ (put copper).releasesInStep := by
  refine ⟨⟨by unfold Params.inRange; decide, fun c => ?_⟩, fun c => ?_⟩
  · rw [put_circuit]
    split
    · refine ⟨trivial, ?_, ?_, ?_, ?_, ?_, ?_, ?_, ?_, ?_, ?_, ?_, ?_, ?_, ?_, ?_, ?_, ?_, ?_, ?_, ?_, ?_, bound_in_range⟩ <;> decide
    · refine ⟨trivial, ?_, ?_, ?_, ?_, ?_, ?_, ?_, ?_, ?_, ?_, ?_, ?_, ?_, ?_, ?_, ?_, ?_, ?_, ?_, ?_, ?_, nofun⟩ <;> decide
  · rw [put_circuit]; split <;> exact fun h => absurd h (by decide)

theorem test_meets_StepKeepsCapacities : (put copper).withinCapacity := by
  refine ⟨by decide, by decide, by decide, by decide, by decide, by decide, fun k => Nat.zero_le 6, by decide, by decide,
    by decide, fun p => ?_⟩
  rw [put_peer]; split <;> decide

theorem test_meets_StepKeepsPlacesInStep : (put copper).placesAgree := by
  have hc : ∀ c, (put copper).trunk.circuit c = if c = 4 then copper else Circuit.start := put_circuit copper
  refine ⟨fun h => absurd rfl h, ⟨by decide, by decide, fun c => ?_, by decide, fun c => ?_, fun c => ?_⟩,
    fun k => List.nodup_nil, fun k c => ?_, fun c => ?_, fun c => ?_⟩ <;>
  rw [hc] <;> split <;>
  simp [put, copper, Circuit.start, Trunk.row, Table.read, Circuit.needsPlace, CircuitState.beforeSplice, CircuitState.onFibre]

/-- A step for the invariants to hold over: with no command waiting and no work asked for, the block idles. -/
theorem test_meets_invariant_step : step (put copper) = .next (put copper) ∧ (put copper).withinCapacity ∧
    (put copper).recordsInRange ∧ (put copper).placesAgree :=
  ⟨rfl, test_meets_StepKeepsCapacities, test_meets_StepKeepsRecords.1, test_meets_StepKeepsPlacesInStep⟩

set_option maxRecDepth 16000 in
/-- R111, R114, log 39: with no command waiting the row asked for is built, and its last release cell leaves the row. -/
theorem test_build_between_commands :
    let t := { leavingRow with todo := { leavingRow.todo with between := [.build] } }.tick
    (t.todo.build, t.bearerPlaces.map phaseOf, t.trunk.row 5) = (false, [some .release], []) := by decide

end Sys2Proof.Tests
end

section
/-! SUPPORT. A cell that is delivered (R119, R128): what the receiver makes of it, and when no expiry stands before it. -/

namespace Sys2Proof.Machine

/-! ## Changes within one circuit -/

theorem Trunk.sameOthers.trans {c : Nat} {t u v : Trunk} (h : t.sameOthers c u) (g : u.sameOthers c v) : t.sameOthers c v :=
  fun d hd => (g d hd).trans (h d hd)

theorem Trunk.sameLists.trans {t u v : Trunk} (h : t.sameLists u) (g : u.sameLists v) : t.sameLists v := by
  obtain ⟨hf, hq, hc⟩ := h
  obtain ⟨gf, gq, gc⟩ := g
  exact ⟨gf.trans hf, gq.trans hq, gc.trans hc⟩

theorem Trunk.modify_sameOthers (c : Nat) (f : Circuit → Circuit) (t : Trunk) : t.sameOthers c (t.modify c f) :=
  fun _ hd => Trunk.circuit_modify_ne t f hd

/-- R153, R154: whatever becomes of a report about circuit `c`, of the trunk but the reports only the circuit's last reported
kind may change. -/
theorem Trunk.report_frame (x : Ctx) (t : Trunk) (c : Nat) (k : ReportKind) (v : Option ReportVariant) (d : Option Nat)
    (fl : SpliceFlags) :
    t.sameOthers c (t.report x c k v d fl) ∧ t.sameLists (t.report x c k v d fl) ∧
      ∃ l, (t.report x c k v d fl).circuit c = { t.circuit c with lastReported := l } := by
  unfold Trunk.report
  split
  · exact ⟨fun _ _ => rfl, ⟨rfl, rfl, rfl⟩, _, rfl⟩
  split
  · exact ⟨fun _ _ => rfl, ⟨rfl, rfl, rfl⟩, _, rfl⟩
  split
  · refine ⟨fun e he => ?_, by simp [Trunk.sameLists], ?_⟩
    · rw [Trunk.circuit_modify_ne _ _ he, Trunk.circuit_enterReport]
    · rw [Trunk.circuit_modify, Trunk.circuit_enterReport]
      split
      · exact ⟨_, rfl⟩
      · exact ⟨_, rfl⟩
  · exact ⟨fun e _ => Trunk.circuit_enterReport _ _ e, by simp [Trunk.sameLists], _, Trunk.circuit_enterReport _ _ c⟩

/-! ## The cell that reaches its circuit -/

@[simp] theorem bearerOf_phase (place : List Byte) (ph : Phase) (c : Nat) : (bearerOf place ph c).phase = ph := rfl

@[simp] theorem bearerOf_code (place : List Byte) (ph : Phase) (c : Nat) : (bearerOf place ph c).code = codeOf place := rfl

@[simp] theorem bearerOf_ssn (place : List Byte) (ph : Phase) (c : Nat) : (bearerOf place ph c).ssn = ssnOf place := by
  simp [bearerOf, ssnOf, fieldAt, List.range_succ]

/-- R119, R120, R128: a bearer cell that the station heeds, from a circuit that a matched window maps, is delivered. -/
theorem exec_bearerCell_of_delivers {s : State} {p c : Nat} {place : List Byte} {ph : Phase} (h : s.delivers p place ph c) :
    exec (.bearerCell p place) s = .next (s.onTrunk fun x t => t.deliver x c (bearerOf place ph c)) := by
  obtain ⟨⟨⟨hstar, hlane, hown, hfull⟩, hhead, hkind, hphase, hmask⟩, -, -, w, ⟨hfind, rfl⟩, hmatched⟩ := h
  have heard : s.hears p = true := by simp [State.hears, hstar, hlane, hown]
  have taken : s.receivePlace p place = s.takeBearer p place ph := by
    simp [State.receivePlace, State.handOn, State.heeds, bodyOk, heard, hfull, hhead, hkind, hphase, hmask]
  change Host.Outcome.next (s.receivePlace p place) = _
  rw [taken, State.takeBearer, hfind]
  simp only [hmatched, if_true]

/-- R15: with the silence count of a bridge below its limit, or no boundary counted, the watchdog takes nothing. -/
theorem Trunk.bridgeIdle_of_notSilent {s : State} {c : Nat} (h : s.notSilent c) : s.trunk.bridgeIdle s.ctx c = s.trunk := by
  unfold Trunk.bridgeIdle
  refine if_neg fun ⟨hbridge, hcounted, hlimit⟩ => ?_
  rcases h with h | ⟨h, -⟩
  · exact absurd hcounted (by simp [h])
  · exact absurd (h hbridge) (Nat.not_lt.mpr hlimit)

/-- R21: with the silence count of a circuit on fibre below its limit, or no boundary counted, no stream is lost. -/
theorem Trunk.streamLoss_of_notSilent {s : State} {c : Nat} (h : s.notSilent c) : s.trunk.streamLoss s.ctx c = s.trunk := by
  unfold Trunk.streamLoss
  rcases h with h | ⟨-, h⟩
  · simp [h]
  · simp only
    split
    next hlimit =>
      have off : (s.trunk.circuit c).state.onFibre ≠ true := fun g => absurd (h g) (Nat.not_lt.mpr hlimit.2)
      cases hs : (s.trunk.circuit c).state
      case spliced | revertWait | committed => exact absurd (by rw [hs]; rfl) off
      all_goals rfl
    next => rfl

/-- R42, R43: before which no expiry stands, a delivered cell is counted, its phase is taken and the work on it is done. -/
theorem Trunk.deliver_of_notSilent {s : State} {c : Nat} (h : s.notSilent c) (hc : c < 256) (cell : BearerCell) :
    s.trunk.deliver s.ctx c cell =
      ((s.trunk.modify c (Circuit.receive cell)).takePhase s.ctx c cell.phase).workCell s.ctx c (s.circuit c).state cell := by
  simp only [Trunk.deliver, Trunk.bridgeIdle_of_notSilent h, Trunk.streamLoss_of_notSilent h, Trunk.circuit_modify_same _ _ hc,
    Circuit.receive_state, State.circuit]

end Sys2Proof.Machine
end

section
/-! What the phase of a cell can do to a circuit on fibre or HELD that it neither releases nor brings back to BRIDGING
(Table 1.3, R22, R23). -/

namespace Sys2Proof.Machine

/-- From `r` to `r'` only the stored phase, the legacy-released flag and the last reported kind may differ. -/
def Circuit.Relabelled (r r' : Circuit) : Prop :=
  ∃ ph released kind, r' = { r with peerPhase := ph, legacyReleased := released, lastReported := kind }

theorem Circuit.Relabelled.refl (r : Circuit) : r.Relabelled r := ⟨_, _, _, rfl⟩

theorem Circuit.Relabelled.trans {r r' r'' : Circuit} (h : r.Relabelled r') (g : r'.Relabelled r'') : r.Relabelled r'' := by
  obtain ⟨_, _, _, rfl⟩ := h
  obtain ⟨_, _, _, rfl⟩ := g
  exact ⟨_, _, _, rfl⟩

/-- From `t` to `u` nothing but the reports and what is relabelled in the record of circuit `c` may differ. -/
def Trunk.Relabels (c : Nat) (t u : Trunk) : Prop :=
  t.sameOthers c u ∧ t.sameLists u ∧ (t.circuit c).Relabelled (u.circuit c)

theorem Trunk.Relabels.refl (c : Nat) (t : Trunk) : t.Relabels c t := ⟨fun _ _ => rfl, ⟨rfl, rfl, rfl⟩, .refl _⟩

theorem Trunk.Relabels.trans {c : Nat} {t u v : Trunk} (h : t.Relabels c u) (g : u.Relabels c v) : t.Relabels c v := by
  obtain ⟨ho, hl, hr⟩ := h
  obtain ⟨go, gl, gr⟩ := g
  exact ⟨ho.trans go, hl.trans gl, hr.trans gr⟩

theorem Trunk.Relabels.modify {c : Nat} (hc : c < 256) (t : Trunk) {f : Circuit → Circuit}
    (hf : (t.circuit c).Relabelled (f (t.circuit c))) : t.Relabels c (t.modify c f) :=
  ⟨t.modify_sameOthers c f, ⟨rfl, rfl, rfl⟩, by rwa [Trunk.circuit_modify_same t f hc]⟩

theorem Trunk.Relabels.report (x : Ctx) (t : Trunk) (c : Nat) (k : ReportKind) (v : Option ReportVariant) (d : Option Nat)
    (fl : SpliceFlags) : t.Relabels c (t.report x c k v d fl) := by
  obtain ⟨others, lists, l, own⟩ := t.report_frame x c k v d fl
  exact ⟨others, lists, _, _, l, own⟩

/-- R22: a legacy release sets the flag and reports it, when it does anything. -/
theorem Trunk.Relabels.legacyRelease (x : Ctx) {c : Nat} (hc : c < 256) (t : Trunk) : t.Relabels c (t.legacyRelease x c) := by
  unfold Trunk.legacyRelease
  simp only
  split
  · exact (Trunk.Relabels.modify hc t ⟨_, _, _, rfl⟩).trans (.report x _ c _ _ _ _)
  · exact .refl c t

/-- R23: a return from HELD is the entry to COMMITTED with its phase stored and the legacy releases it brings. -/
theorem Trunk.Relabels.heldReturn (x : Ctx) {c : Nat} (hc : c < 256) (ph : Phase) (t : Trunk) :
    (t.modify c (Circuit.enter .committed)).Relabels c (t.heldReturn x c ph) :=
  ((Trunk.Relabels.legacyRelease x hc _).trans (.modify hc _ ⟨_, _, _, rfl⟩)).trans (.legacyRelease x hc _)

theorem Phase.startsBridge_of_ne {ph : Phase} (hb : ph ≠ .bridging) (ha : ph ≠ .aligned) : ph.startsBridge = false := by
  cases ph
  case bridging => exact absurd rfl hb
  case aligned => exact absurd rfl ha
  all_goals rfl

/-- The phase `ph` heard in state `st` neither releases the circuit nor re-bridges it (R20, R24, R25). -/
def CircuitState.staysOn (st : CircuitState) (ph : Phase) : Prop :=
  (st.onFibre = true ∨ st = .held) ∧ ph ≠ .release ∧ (st = .committed ∨ st = .held → ph ≠ .bridging ∧ ph ≠ .aligned)

/-- Table 1.3: such a phase relabels the record, or returns a HELD circuit to COMMITTED and relabels it there. -/
theorem Trunk.react_staysOn (x : Ctx) {c : Nat} (hc : c < 256) (ph : Phase) (t : Trunk)
    (h : (t.circuit c).state.staysOn ph) :
    t.sameOthers c (t.react x c ph) ∧ t.sameLists (t.react x c ph) ∧
      ((t.circuit c).Relabelled ((t.react x c ph).circuit c) ∨
        ((t.circuit c).enter .committed).Relabelled ((t.react x c ph).circuit c)) := by
  have relabels : ∀ u, t.Relabels c u → t.sameOthers c u ∧ t.sameLists u ∧ ((t.circuit c).Relabelled (u.circuit c) ∨
      ((t.circuit c).enter .committed).Relabelled (u.circuit c)) :=
    fun u ⟨ho, hl, hr⟩ => ⟨ho, hl, .inl hr⟩
  obtain ⟨on, notRelease, notBridge⟩ := h
  unfold Trunk.react
  cases hs : (t.circuit c).state <;> rw [hs] at on notBridge
  case spliced | revertWait => simpa only [notRelease, if_false] using relabels t (.refl c t)
  case committed =>
    obtain ⟨notBridging, notAligned⟩ := notBridge (.inl rfl)
    simp only [Phase.startsBridge_of_ne notBridging notAligned, notRelease, if_false, Bool.false_eq_true]
    split
    · exact relabels _ ((Trunk.Relabels.modify hc t ⟨_, _, _, rfl⟩).trans (.legacyRelease x hc _))
    · exact relabels t (.refl c t)
  case held =>
    obtain ⟨notBridging, notAligned⟩ := notBridge (.inr rfl)
    simp only [Phase.startsBridge_of_ne notBridging notAligned, notRelease, if_false, Bool.false_eq_true]
    split
    · obtain ⟨others, lists, own⟩ := Trunk.Relabels.heldReturn x hc ph t
      rw [Trunk.circuit_modify_same t _ hc] at own
      exact ⟨(t.modify_sameOthers c _).trans others, lists, .inr own⟩
    · exact relabels t (.refl c t)
  all_goals simp [CircuitState.onFibre] at on

/-- The phase `ph` heard in state `st` does nothing but be stored (Table 1.3). -/
def CircuitState.onlyStores (st : CircuitState) (ph : Phase) : Prop :=
  st = .spliced ∨ st = .revertWait ∨ (st = .committed ∧ (ph = .spliced ∨ ph = .reverting)) ∨ (st = .held ∧ ph = .reverting)

theorem Trunk.react_onlyStores (x : Ctx) (c : Nat) {ph : Phase} (t : Trunk) (hr : ph ≠ .release)
    (h : (t.circuit c).state.onlyStores ph) : t.react x c ph = t := by
  unfold Trunk.react
  rcases h with h | h | ⟨h, rfl | rfl⟩ | ⟨h, rfl⟩ <;> simp [h, hr, Phase.startsBridge]

end Sys2Proof.Machine
end

section
/-! R49: a delivered cell that is early. -/

namespace Sys2Proof.Machine

/-- What a cell of phase `ph` and arrival offset `off` that is early leaves of the record its phase brings: the phase is stored,
the offset pushed, the cell counted as early, and nothing written. -/
def Circuit.discardEarly (ph : Phase) (off : Word) (r : Circuit) : Circuit :=
  { r with
    peerPhase := some ph
    ring := pushRing r.ring off
    counters := { r.counters with early := min (r.counters.early + 1) 65535 } }

/-- R48: with a playout offset, a cell is early from a lead of 473 on. -/
theorem Circuit.isEarly_lead {r : Circuit} {o off : Word} (ho : r.splice.playOffset = some o) (h : 473 ≤ (o - off).toInt) :
    isEarly (r.lead off) = true := by
  simpa [isEarly, Circuit.lead, ho, diff] using h

theorem CircuitState.beforeSplice_of_stream {st : CircuitState} (h : st.onFibre = true ∨ st = .held) :
    st.beforeSplice = false := by
  cases st <;> simp_all [CircuitState.onFibre, CircuitState.beforeSplice]

/-- R43, R49, R51: on fibre and in HELD the work on an early cell is the push and the count. -/
theorem Trunk.workCell_early (x : Ctx) {c : Nat} (was : CircuitState) (cell : BearerCell) (t : Trunk)
    (hon : (t.circuit c).state.onFibre = true ∨ (t.circuit c).state = .held)
    (he : isEarly ((t.circuit c).lead (x.frame - cell.ssn)) = true) :
    t.workCell x c was cell =
      t.modify c (fun r => (r.push (x.frame - cell.ssn)).writeJudged (x.frame - cell.ssn) cell) := by
  have on : ((t.circuit c).state.onFibre || (t.circuit c).state == .held) = true := by simpa using hon
  simp only [Trunk.workCell, CircuitState.beforeSplice_of_stream hon, on, he, if_true, Bool.false_eq_true, if_false]

/-- R43, R49: the phase of an early cell is stored after its reaction, and the cell is discarded. -/
theorem Trunk.takePhase_workCell_early (x : Ctx) {c : Nat} (hc : c < 256) (was : CircuitState) (cell : BearerCell) (t : Trunk)
    (hon : ((t.react x c cell.phase).circuit c).state.onFibre = true ∨ ((t.react x c cell.phase).circuit c).state = .held)
    (he : isEarly (((t.react x c cell.phase).circuit c).lead (x.frame - cell.ssn)) = true) :
    (t.react x c cell.phase).onlyRecord c ((t.takePhase x c cell.phase).workCell x c was cell) ∧
      ((t.takePhase x c cell.phase).workCell x c was cell).circuit c =
        ((t.react x c cell.phase).circuit c).discardEarly cell.phase (x.frame - cell.ssn) := by
  have stored : (t.takePhase x c cell.phase).circuit c =
      { (t.react x c cell.phase).circuit c with peerPhase := some cell.phase } := Trunk.circuit_modify_same _ _ hc
  have work := Trunk.workCell_early x was cell (t.takePhase x c cell.phase) (c := c) (by rw [stored]; exact hon)
    (by rw [stored]; exact he)
  rw [work]
  refine ⟨⟨(Trunk.modify_sameOthers c _ _).trans (Trunk.modify_sameOthers c _ _), ⟨rfl, rfl, rfl⟩, rfl, rfl⟩, ?_⟩
  rw [Trunk.circuit_modify_same _ _ hc, stored, Circuit.writeJudged, if_pos]
  · rfl
  · exact he

/-- Settles O23: the phase leaves the circuit on fibre or HELD at the unchanged playout offset, where the cell is early and
only counted and pushed. -/
theorem earlyCellDiscarded : Obligations.EarlyCellDiscarded := by
  intro s p c place ph o hd ho hearly hon hrel hbridge
  have ⟨_, hc, hquiet, _⟩ := hd
  let t := s.trunk.modify c (Circuit.receive (bearerOf place ph c))
  have own : t.circuit c = (s.circuit c).receive (bearerOf place ph c) := Trunk.circuit_modify_same _ _ hc
  obtain ⟨others, lists, kept⟩ := t.react_staysOn s.ctx hc ph (by rw [own]; exact ⟨hon, hrel, hbridge⟩)
  rw [own] at kept
  -- the state and the playout offset that the phase leaves
  have left : (((t.react s.ctx c ph).circuit c).state.onFibre = true ∨ ((t.react s.ctx c ph).circuit c).state = .held) ∧
      ((t.react s.ctx c ph).circuit c).splice.playOffset = some o := by
    rcases kept with ⟨_, _, _, e⟩ | ⟨_, _, _, e⟩ <;> rw [e]
    · exact ⟨hon, ho⟩
    · exact ⟨.inl rfl, ho⟩
  obtain ⟨⟨wothers, wlists, wreports⟩, wown⟩ :=
    t.takePhase_workCell_early s.ctx hc (s.circuit c).state (bearerOf place ph c) left.1
      (Circuit.isEarly_lead left.2 (by rw [bearerOf_ssn]; exact hearly))
  rw [← Trunk.deliver_of_notSilent hquiet hc] at wothers wlists wreports wown
  rw [bearerOf_ssn] at wown
  have final : (s.onTrunk fun x t => t.deliver x c (bearerOf place ph c)).circuit c =
      ((t.react s.ctx c ph).circuit c).discardEarly ph (s.frame - ssnOf place) := wown
  -- where the phase is only stored
  have idle : (s.circuit c).state.onlyStores ph → t.react s.ctx c ph = t := fun h =>
    t.react_onlyStores s.ctx c hrel (by rw [own]; exact h)
  have reports : (s.circuit c).state.onlyStores ph → t.sameReports (s.trunk.deliver s.ctx c (bearerOf place ph c)) :=
    fun h => by rwa [bearerOf_phase, idle h] at wreports
  have record : (s.circuit c).state.onlyStores ph →
      ((t.react s.ctx c ph).circuit c).discardEarly ph (s.frame - ssnOf place) =
        ((s.circuit c).receive (bearerOf place ph c)).discardEarly ph (s.frame - ssnOf place) :=
    fun h => by rw [idle h, own]
  refine ⟨_, exec_bearerCell_of_delivers hd, rfl, ((Trunk.modify_sameOthers c _ _).trans others).trans wothers,
    lists.trans wlists, ?_⟩
  rw [final]
  generalize (t.react s.ctx c ph).circuit c = r at kept record
  rcases kept with ⟨_, _, _, rfl⟩ | ⟨_, _, _, rfl⟩ <;>
    exact ⟨rfl, rfl, rfl, rfl, rfl, rfl, rfl, rfl, rfl, rfl, ho, rfl, fun h => ⟨reports h, record h⟩⟩

end Sys2Proof.Machine
end

section
/-! R61, R64: a window judged in BRIDGING that is conclusive and matches at no position of the domain. -/

namespace Sys2Proof.Machine

/-- R61: the record after the window `e` has left its judging list. -/
def Circuit.dropWindow (e : JudgeEntry) (r : Circuit) : Circuit :=
  { r with align := { r.align with judging := r.align.judging.filter (fun d => decide (d ≠ e)) } }

/-- R61: the window that is due leaves the list, and is judged on the record that is left. -/
theorem Trunk.windowJudgement_of_due {x : Ctx} {c : Nat} {t : Trunk} {e : JudgeEntry} (h : t.dueWindow x c = some e) :
    t.windowJudgement x c = (t.modify c (Circuit.dropWindow e)).judgeWindow x c e.ssn := by
  have sameTest : (fun d : JudgeEntry => !(d == e)) = fun d => decide (d ≠ e) := by
    funext d
    by_cases hd : d = e <;> simp [hd]
  simp only [Trunk.windowJudgement, h, sameTest]
  rfl

/-- R64, R65: in BRIDGING a window after which no offset is found does no more than search. -/
theorem Trunk.judgeWindow_of_notFound {x : Ctx} {c : Nat} {s : Word} {t : Trunk} (hc : c < 256)
    (hb : (t.circuit c).state = .bridging) (hf : ((t.circuit c).search x.settings s).foundOffset = none) :
    t.judgeWindow x c s = t.modify c (Circuit.search x.settings s) := by
  simp only [Trunk.judgeWindow, hb, Trunk.circuit_modify_same t _ hc, hf]

theorem Circuit.matchSet_eq_nil_iff (r : Circuit) (s ob : Word) :
    r.matchSet s ob = [] ↔ ∀ k, k < Config.domainSize → r.matchesAt s (domainOffset ob k) = false := by
  simp [Circuit.matchSet, List.filter_eq_nil_iff]

/-- R64: a conclusive window that matches nowhere makes the whole domain the candidate set again, and counts as a mismatch. -/
theorem Circuit.search_of_matchSet_nil {st : Settings} {s ob : Word} {r : Circuit} (ho : r.align.obase = some ob)
    (hcon : r.conclusive st s = true) (hm : r.matchSet s ob = []) : r.search st s = r.narrow [] := by
  simp only [Circuit.search, ho, hcon, hm, if_true]

/-- R65: the whole domain is more than one position, so nothing is found in it. -/
theorem Circuit.foundOffset_of_whole {r : Circuit} (h : r.align.candidates = .whole) : r.foundOffset = none := by
  unfold Circuit.foundOffset
  rw [h]
  cases r.align.obase <;> rfl

/-- Settles O28: what the window is tested against (the playout samples and the copper history) is not touched when it leaves
the list, so the search on the record that is left starts again over the whole domain, where no offset is found. -/
theorem emptyMatchSetIsMismatch : Obligations.EmptyMatchSetIsMismatch := by
  intro s c e ob hc hbridging hdue hobase hcon hnowhere
  let t := s.trunk.modify c (Circuit.dropWindow e)
  have own : t.circuit c = (s.circuit c).dropWindow e := Trunk.circuit_modify_same _ _ hc
  have noMatch : ((s.circuit c).dropWindow e).matchSet e.ssn ob = [] := (Circuit.matchSet_eq_nil_iff _ _ _).mpr hnowhere
  have searched : (t.circuit c).search s.ctx.settings e.ssn = ((s.circuit c).dropWindow e).narrow [] := by
    rw [own]
    exact Circuit.search_of_matchSet_nil hobase hcon noMatch
  have judged : s.trunk.windowJudgement s.ctx c = t.modify c (Circuit.search s.ctx.settings e.ssn) := by
    rw [Trunk.windowJudgement_of_due hdue]
    refine Trunk.judgeWindow_of_notFound hc (by rw [own]; exact hbridging) ?_
    rw [searched]
    exact Circuit.foundOffset_of_whole rfl
  refine ⟨_, rfl, rfl, ?_, ?_⟩
  · rw [State.onTrunk_trunk, judged]
    exact ⟨(Trunk.modify_sameOthers c _ _).trans (Trunk.modify_sameOthers c _ _), ⟨rfl, rfl, rfl⟩, rfl, rfl⟩
  · calc (s.trunk.windowJudgement s.ctx c).circuit c
      _ = (t.circuit c).search s.ctx.settings e.ssn := by rw [judged, Trunk.circuit_modify_same _ _ hc]
      _ = ((s.circuit c).dropWindow e).narrow [] := searched

end Sys2Proof.Machine
end

section
/-! R59: the offsets that the positions of the search domain stand for. -/

namespace Sys2Proof.Machine

/-- R59: a position's offset is Obase + k − 224 modulo 65536, whose −224 is 65312 there. -/
theorem domainOffset_toNat (ob : Word) (k : Nat) : (domainOffset ob k).toNat = (ob.toNat + k + 65312) % 65536 := by
  have middle : (224 : Word).toNat = 224 := rfl
  rw [domainOffset, BitVec.toNat_sub, BitVec.toNat_add, BitVec.toNat_ofNat, middle]
  omega

/-- R59: how far a position's offset lies from Obase does not depend on Obase. -/
theorem domainOffset_sub (ob : Word) (k : Nat) : domainOffset ob k - ob = BitVec.ofNat 16 k - 224 := by
  unfold domainOffset
  ring

theorem domainOffset_sub_toInt (ob : Word) {k : Nat} (hk : k < 449) : (domainOffset ob k - ob).toInt = (k : Int) - 224 := by
  have position : (BitVec.ofNat 16 k).toInt = k := by rw [BitVec.toInt_ofNat', Int.bmod_eq_of_le] <;> omega
  have middle : (224 : Word).toInt = 224 := rfl
  rw [domainOffset_sub, BitVec.toInt_sub, position, middle, Int.bmod_eq_of_le] <;> omega

/-- R72: the lowest offset of the candidate set is absent with Obase. -/
theorem Circuit.lowestOffset_of_noObase {r : Circuit} (h : r.align.obase = none) : r.lowestOffset = none := by
  simp only [Circuit.lowestOffset, h]

/-- Settles O26: the difference from Obase is that of the position from 224, and the three ranges of Obase + k are those in
which 65536 is taken from Obase + k + 65312 never, once and twice. -/
theorem searchDomainOffsets : Obligations.SearchDomainOffsets := by
  refine ⟨fun ob _ hk => domainOffset_sub_toInt ob hk, fun ob => ?_, fun ob k _ hlow => ?_, fun ob k hk hmid hend => ?_,
    fun ob k hk hhigh => ?_, fun _ => Circuit.lowestOffset_of_noObase⟩
  · apply BitVec.eq_of_toNat_eq
    have := domainOffset_toNat ob 224
    omega
  all_goals
    have := ob.isLt
    rw [domainOffset_toNat]
    omega

end Sys2Proof.Machine
end

section
/-! SUPPORT. The ranges of Table 1.1 unit by unit, and that every change of a circuit record keeps them. -/

namespace Sys2Proof.Machine

/-- The ranges of what the alignment unit holds (R57). -/
structure AlignItems.Ranges (a : AlignItems) : Prop where
  candidates : a.candidates.inRange
  contributing : a.contributing ≤ 3
  verifyMiss : a.verifyMiss ≤ 3
  idleQualify : a.idleQualify ≤ 1000
  judging : a.judging.length ≤ 16

/-- The ranges of what the splice unit holds (R77, R82). -/
structure SpliceItems.Ranges (p : SpliceItems) : Prop where
  deficit : ∀ d, p.deficit = some d → d ≤ 224
  fill : ∀ run, p.fill = some run → run.count ≤ 224
  quietRun : p.quietRun ≤ 400

/-- The ranges of the six counters (R56). -/
structure Counters.Ranges (n : Counters) : Prop where
  received : n.received ≤ 65535
  late : n.late ≤ 65535
  early : n.early ≤ 65535
  concealed : n.concealed ≤ 65535
  mismatches : n.mismatches ≤ 65535
  fills : n.fills ≤ 65535

/-- `Circuit.inRange`, unit by unit. -/
structure Circuit.Ranges (r : Circuit) : Prop where
  align : r.align.Ranges
  ring : r.ring.length ≤ 16
  splice : r.splice.Ranges
  guard : ∀ g, r.guard = some g → g.left ≤ 40
  stateTimer : r.stateTimer ≤ 12000
  silence : r.silence ≤ 65535
  releaseCells : r.releaseCells ≤ 4
  calendarRow : ∀ k, r.calendarRow = some k → k < 40
  counters : r.counters.Ranges
  runCount : r.path.runCount ≤ 40
  capture : r.capture.length = 40
  binding : ∀ b, r.binding = some b → b.inRange

theorem Circuit.inRange_iff (r : Circuit) : r.inRange ↔ r.Ranges := by
  constructor
  · rintro ⟨h1, h2, h3, h4, h5, h6, h7, h8, h9, h10, h11, h12, h13, h14, h15, h16, h17, h18, h19, h20, h21, h22, h23⟩
    exact ⟨⟨h1, h2, h3, h4, h5⟩, h6, ⟨h7, h8, h9⟩, h10, h11, h12, h13, h14, ⟨h15, h16, h17, h18, h19, h20⟩, h21, h22, h23⟩
  · rintro ⟨⟨h1, h2, h3, h4, h5⟩, h6, ⟨h7, h8, h9⟩, h10, h11, h12, h13, h14, ⟨h15, h16, h17, h18, h19, h20⟩, h21, h22, h23⟩
    exact ⟨h1, h2, h3, h4, h5, h6, h7, h8, h9, h10, h11, h12, h13, h14, h15, h16, h17, h18, h19, h20, h21, h22, h23⟩

theorem countUp_le (limit n : Nat) : countUp limit n ≤ limit := Nat.min_le_right _ _

/-! ## The alignment unit -/

theorem Candidates.ofList_inRange {ks : List Nat} (hne : ks ≠ []) (hp : ks.Pairwise (· < ·)) (hlt : ∀ k ∈ ks, k < 449) :
    (Candidates.ofList ks).inRange := by
  unfold Candidates.ofList
  split
  · trivial
  · exact ⟨hne, hp, hlt⟩

/-- R63, R65: the match set, and what the carried set shares with it, are positions of the domain in rising order. -/
theorem Circuit.matchSet_rising (r : Circuit) (s ob : Word) :
    (r.matchSet s ob).Pairwise (· < ·) ∧ ∀ k ∈ r.matchSet s ob, k < 449 := by
  refine ⟨List.pairwise_lt_range.filter _, fun k hk => ?_⟩
  exact List.mem_range.mp (List.mem_of_mem_filter hk)

theorem Candidates.meet_rising {s : Candidates} {ms : List Nat} (hs : s.inRange)
    (hm : ms.Pairwise (· < ·) ∧ ∀ k ∈ ms, k < 449) : (s.meet ms).Pairwise (· < ·) ∧ ∀ k ∈ s.meet ms, k < 449 := by
  cases s with
  | whole => exact hm
  | positions ks => exact ⟨hs.2.1.filter _, fun k hk => hs.2.2 k (List.mem_of_mem_filter hk)⟩

theorem AlignItems.Ranges.onEntry {a : AlignItems} (h : a.Ranges) (st : CircuitState) : (a.onEntry st).Ranges := by
  unfold AlignItems.onEntry
  split
  · exact ⟨trivial, Nat.zero_le _, Nat.zero_le _, Nat.zero_le _, Nat.zero_le _⟩
  · exact { h with idleQualify := Nat.zero_le _, judging := Nat.zero_le _ }
  · exact { h with idleQualify := Nat.zero_le _, judging := Nat.zero_le _ }
  · exact { h with idleQualify := Nat.zero_le _ }
  · exact { h with idleQualify := Nat.zero_le _ }
  · exact { h with idleQualify := Nat.zero_le _ }
  · exact h

theorem Circuit.Ranges.search {r : Circuit} (h : r.Ranges) (st : Settings) (s : Word) : (r.search st s).Ranges := by
  unfold Circuit.search
  split
  · exact h
  next ob _ =>
    split
    · have hm := r.matchSet_rising s ob
      revert hm
      generalize r.matchSet s ob = ms
      intro hm
      unfold Circuit.narrow
      split
      · exact { h with
          align := { h.align with candidates := trivial, contributing := Nat.zero_le _ }
          counters := { h.counters with mismatches := countUp_le _ _ } }
      next hne =>
        have hmeet := Candidates.meet_rising h.align.candidates hm
        split
        · exact { h with
            align := { h.align with
              candidates := Candidates.ofList_inRange hne hm.1 hm.2, contributing := by simp } }
        next ks hks =>
          exact { h with
            align := { h.align with
              candidates := Candidates.ofList_inRange hks hmeet.1 hmeet.2, contributing := countUp_le _ _ } }
    · exact h

theorem Circuit.Ranges.verify {r : Circuit} (h : r.Ranges) (st : Settings) (s o : Word) : (r.verify st s o).Ranges := by
  unfold Circuit.verify
  split
  · split
    · exact { h with align := { h.align with verifyMiss := Nat.zero_le _ } }
    · exact { h with
        align := { h.align with verifyMiss := countUp_le _ _ }
        counters := { h.counters with mismatches := countUp_le _ _ } }
  · exact h

theorem Circuit.Ranges.countIdle {r : Circuit} (h : r.Ranges) (st : Settings) (b : Bool) (sw : Code) :
    (r.countIdle st b sw).Ranges := by
  unfold Circuit.countIdle
  split
  · dsimp only
    split
    · exact { h with align := { h.align with idleQualify := Nat.zero_le _ } }
    · split
      · exact { h with align := { h.align with idleQualify := countUp_le _ _ } }
      · exact h
  · exact h

theorem Circuit.Ranges.takeObase {r : Circuit} (h : r.Ranges) (off : Word) : (r.takeObase off).Ranges := by
  unfold Circuit.takeObase
  split
  · exact h
  · split
    · exact { h with align := { h.align with } }
    · exact h

theorem Circuit.Ranges.takeWindow {r : Circuit} (h : r.Ranges) (a s : Word) : (r.takeWindow a s).Ranges := by
  unfold Circuit.takeWindow
  split
  · exact h
  · dsimp only
    split
    next hc =>
      have hlen : r.align.judging.length < 16 := by simp only [Bool.and_eq_true, decide_eq_true_eq] at hc; exact hc.2
      exact { h with align := { h.align with judging := by simp; omega } }
    · exact h

/-! ## Changes of state -/

theorem SpliceItems.Ranges.clearRipe {p : SpliceItems} (h : p.Ranges) : SpliceItems.Ranges { p with ripe := false } := { h with }

theorem Circuit.Ranges.enter {r : Circuit} (h : r.Ranges) (st : CircuitState) : (r.enter st).Ranges :=
  { h with align := h.align.onEntry st, splice := h.splice.clearRipe, stateTimer := Nat.zero_le _ }

theorem Circuit.Ranges.spliceAt {r : Circuit} (h : r.Ranges) (p : Word) (kind : SpliceKind) (o : Word) {d : Nat} (gap : Bool)
    (hd : d ≤ 224) : (r.spliceAt p kind o d gap).Ranges := by
  have e := h.enter .spliced
  refine { e with align := ?_, splice := { e.splice with deficit := ?_, fill := ?_ } }
  · simp only [Circuit.spliceAt]
    split
    · exact { e.align with }
    · exact e.align
  · rintro d' ⟨⟩
    exact hd
  · simp only [Circuit.spliceAt]
    split
    · nofun
    · rintro run ⟨⟩
      exact hd

theorem Circuit.Ranges.spliceBlind {r : Circuit} (h : r.Ranges) (g : Nat) (kind : SpliceKind) : (r.spliceBlind g kind).Ranges :=
  { h.enter .spliced with splice := { (h.enter .spliced).splice with deficit := nofun, fill := nofun } }

theorem Circuit.Ranges.withDeficit {r : Circuit} (h : r.Ranges) {d : Option Nat} (hd : ∀ n, d = some n → n ≤ 224) :
    Circuit.Ranges { r with splice := { r.splice with deficit := d } } :=
  { h with splice := { h.splice with deficit := hd } }

theorem Circuit.Ranges.toBridging {r : Circuit} (h : r.Ranges) {p : Params} (hp : p.alignTimeout ≤ 12000) :
    (r.toBridging p).Ranges :=
  { h.enter .bridging with
    align := ⟨trivial, Nat.zero_le _, Nat.zero_le _, Nat.zero_le _, Nat.zero_le _⟩
    ring := Nat.zero_le _
    splice := { (h.enter .bridging).splice with deficit := nofun }
    stateTimer := hp
    silence := Nat.zero_le _ }

theorem Circuit.Ranges.toCopper {r : Circuit} (h : r.Ranges) : r.toCopper.Ranges :=
  { h.enter .copper with
    align := { (h.enter .copper).align with }
    ring := Nat.zero_le _
    splice := { (h.enter .copper).splice with deficit := nofun }
    releaseCells := Nat.le_refl _ }

theorem Circuit.Ranges.markReverse {r : Circuit} (h : r.Ranges) (k : ReverseKind) (fl : SpliceFlags) :
    (r.markReverse k fl).Ranges :=
  { h with splice := { h.splice with fill := nofun } }

theorem Circuit.Ranges.toDown {r : Circuit} (h : r.Ranges) : r.toDown.Ranges :=
  { h.enter .down with
    align := { (h.enter .down).align with }
    ring := Nat.zero_le _
    splice := { (h.enter .down).splice with deficit := nofun, fill := nofun }
    guard := nofun }

theorem Circuit.Ranges.toHeld {r : Circuit} (h : r.Ranges) {p : Params} (hp : p.peerHold ≤ 2000) : (r.toHeld p).Ranges :=
  { h.enter .held with
    splice := { (h.enter .held).splice with fill := nofun }
    stateTimer := Nat.le_trans hp (by decide) }

theorem Circuit.Ranges.backToBridging {r : Circuit} (h : r.Ranges) {p : Params} (hp : p.alignTimeout ≤ 12000) :
    (r.backToBridging p).Ranges :=
  { h.enter .bridging with
    align := { (h.enter .bridging).align with
      candidates := trivial, contributing := Nat.zero_le _, verifyMiss := Nat.zero_le _ }
    splice := { (h.enter .bridging).splice with deficit := nofun }
    stateTimer := hp }

/-! ## Counts, slots and cells -/

theorem Circuit.Ranges.guardEnd {r : Circuit} (h : r.Ranges) : r.guardEnd.Ranges := by
  unfold Circuit.guardEnd
  split
  · split
    · exact { h with guard := nofun }
    · exact h
  · exact h

theorem Circuit.Ranges.fillEnd {r : Circuit} (h : r.Ranges) (f : Word) : (r.fillEnd f).Ranges := by
  unfold Circuit.fillEnd
  split
  · split
    · exact { h with splice := { h.splice with fill := nofun } }
    · exact h
  · exact h

theorem Circuit.Ranges.countBoundary {r : Circuit} (h : r.Ranges) : r.countBoundary.Ranges := by
  refine { h with stateTimer := ?_, silence := ?_ }
  · simp only [Circuit.countBoundary]
    have := h.stateTimer
    split <;> omega
  · simp only [Circuit.countBoundary]
    split
    · exact countUp_le _ _
    · exact h.silence

theorem Guard.count_left (f : Word) (g : Guard) : (g.count f).left ≤ g.left := by
  unfold Guard.count
  split
  · exact Nat.sub_le _ _
  · exact Nat.le_refl _

theorem Circuit.Ranges.startGuard {r : Circuit} (h : r.Ranges) {x : Ctx} (hx : x.settings.params.sigGuard ≤ 40) :
    (r.startGuard x).Ranges := by
  unfold Circuit.startGuard
  split
  · refine { h with splice := { h.splice with quietRun := Nat.zero_le _ }, guard := fun g hg => ?_ }
    revert hg
    dsimp only
    split
    · nofun
    · rintro ⟨⟩
      exact hx
  · refine { h with splice := { h.splice with }, guard := fun g hg => ?_ }
    obtain ⟨g', hg', rfl⟩ := Option.map_eq_some_iff.mp hg
    exact Nat.le_trans (Guard.count_left _ _) (h.guard g' hg')

theorem Circuit.Ranges.openSlot {r : Circuit} (h : r.Ranges) {x : Ctx} (hx : x.settings.params.sigGuard ≤ 40) (c : Nat) :
    (r.openSlot x c).Ranges := by
  have e := h.startGuard hx
  refine { e with capture := ?_ }
  simp [Circuit.openSlot, Circuit.captureSlot, Circuit.writeHistory, e.capture]

theorem Circuit.Ranges.giveSlot {r : Circuit} (h : r.Ranges) (x : Ctx) (c : Nat) : (r.giveSlot x c).Ranges := by
  have e := h.guardEnd.fillEnd x.frame
  refine { e with
    splice := { e.splice with quietRun := ?_ }
    counters := { e.counters with concealed := ?_, fills := ?_ }
    runCount := ?_ } <;> simp only [Circuit.giveSlot]
  · unfold quietAfter
    split
    · exact Nat.zero_le _
    · exact countUp_le _ _
  · split
    · exact countUp_le _ _
    · exact e.counters.concealed
  · split
    · exact countUp_le _ _
    · exact e.counters.fills
  · split
    · exact countUp_le _ _
    · exact Nat.zero_le _

theorem Circuit.Ranges.giveOnce {r : Circuit} (h : r.Ranges) (x : Ctx) (c : Nat) : (r.giveOnce x c).Ranges := by
  unfold Circuit.giveOnce
  split
  · exact h
  · exact h.giveSlot x c

theorem Circuit.Ranges.push {r : Circuit} (h : r.Ranges) (off : Word) : (r.push off).Ranges := by
  have := h.ring
  refine { h with ring := ?_ }
  simp only [Circuit.push, pushRing]
  split <;> simp <;> omega

theorem Circuit.Ranges.writeJudged {r : Circuit} (h : r.Ranges) (off : Word) (cell : BearerCell) :
    (r.writeJudged off cell).Ranges := by
  unfold Circuit.writeJudged
  split
  · exact { h with counters := { h.counters with early := countUp_le _ _ } }
  · split
    · exact { h with counters := { h.counters with late := countUp_le _ _ } }
    · exact { h with }

/-! ## Every change -/

/-- With the parameters in their ranges every change of a circuit record keeps Table 1.1. -/
theorem Circuit.Ranges.rule (x : Ctx) (hx : x.settings.params.inRange) : Circuit.Rule x (fun _ r => r.Ranges) := by
  obtain ⟨_, _, hdmax, _, _, _, _, halign, _, _, _, _, _, _, _, _, hguard, _, _, _, hhold, _⟩ := hx
  exact {
    reported := fun _ _ _ h => { h with }
    joined := fun _ _ k hk _ h => { h with calendarRow := by rintro _ ⟨⟩; exact hk }
    left := fun _ _ h => { h with calendarRow := nofun }
    spliced := fun _ r kind o d gap _ hd h => h.spliceAt _ kind o gap (by
      rcases hd with hd | hd | hd
      · omega
      · exact h.splice.deficit d hd
      · omega)
    splicedBlind := fun _ _ kind _ h => h.spliceBlind _ kind
    released := fun _ _ _ _ h => { h with }
    committed := fun _ _ h => { h.enter .committed with }
    waiting := fun _ _ d hd h => (h.enter .spliceWait).withDeficit (by rintro _ ⟨⟩; omega)
    excess := fun _ _ h => (h.enter .aligned).withDeficit nofun
    aligned := fun _ _ h => h.enter .aligned
    deficit := fun _ _ d hd h => h.withDeficit (by rintro _ ⟨⟩; omega)
    queued := fun _ _ h => h.enter .splicePending
    bridged := fun _ _ h => h.toBridging halign
    coppered := fun _ _ h => h.toCopper
    reversed := fun _ _ k fl h => (h.markReverse k fl).toCopper
    rebridged := fun _ _ fl h => (h.markReverse .urgent fl).toBridging halign
    held := fun _ _ h => h.toHeld hhold
    downed := fun _ _ h => h.toDown
    returned := fun _ _ h => h.enter .committed
    phase := fun _ _ _ h => { h with }
    found := fun _ _ _ h => { h.enter .aligned with align := { (h.enter .aligned).align with } }
    verifyCleared := fun _ _ h => { h with align := { h.align with verifyMiss := Nat.zero_le _ } }
    realigning := fun _ _ h => h.backToBridging halign
    offsetLost := fun _ _ h => { h with align := { h.align with } }
    judged := fun _ _ _ h => { h with
      align := { h.align with judging := Nat.le_trans (List.length_filter_le _ _) h.align.judging } }
    searched := fun _ _ s h => h.search _ s
    verified := fun _ _ s o h => h.verify _ s o
    reverting := fun _ _ h => { h.enter .revertWait with }
    deferred := fun _ _ h => { h with }
    returnedToCopper := fun _ _ h => h.enter .copper
    guardEnded := fun _ _ h => h.guardEnd
    fillEnded := fun _ _ h => h.fillEnd _
    counted := fun _ _ h => h.countBoundary
    idleCounted := fun _ _ b sw h => h.countIdle _ b sw
    opened := fun c _ h => h.openSlot hguard c
    given := fun c _ h => h.giveOnce x c
    passed := fun _ _ _ _ h => { h with }
    received := fun _ _ _ h => { h with
      silence := Nat.zero_le _, counters := { h.counters with received := countUp_le _ _ } }
    pushed := fun _ _ off h => h.push off
    written := fun _ _ _ h => { h with }
    writtenJudged := fun _ _ off cell h => h.writeJudged off cell
    obase := fun _ _ off h => h.takeObase off
    window := fun _ _ s h => h.takeWindow _ s
    releaseSent := fun _ _ _ _ h => { h with releaseCells := Nat.le_trans (Nat.sub_le _ _) h.releaseCells } }

theorem Circuit.Ranges.bind {r : Circuit} (h : r.Ranges) {b : Option Binding}
    (hb : ∀ v, b = some v → v.window ≤ 7 ∧ v.peer ≤ 14 ∧ v.circuit ≤ 255) : (r.bind b).Ranges := by
  cases b with
  | none => exact h
  | some v => exact { h.enter .copper with binding := by rintro _ ⟨⟩; exact hb v rfl }

theorem Circuit.Ranges.start : Circuit.start.Ranges :=
  ⟨⟨trivial, by decide, by decide, by decide, by decide⟩, by decide, ⟨nofun, nofun, by decide⟩, nofun, by decide, by decide,
    by decide, nofun, ⟨by decide, by decide, by decide, by decide, by decide, by decide⟩, by decide, by decide, nofun⟩

/-! ## The parameters of a boot record (R135) -/

theorem clampedParams_eq (m : List Byte) :
    clampedParams m =
      { guard := max 8 (min (fieldAt m 10 2) 64), dmax := max 0 (min (fieldAt m 12 2) 224),
        qmin := max 40 (min (fieldAt m 14 2) 400), threshold := max 0 (min (fieldAt m 16 2) 127),
        alignTimeout := max 1 (min (fieldAt m 18 2) 60) * 200, bridgeIdle := (max 20 (min (fieldAt m 20 2) 1000) + 4) / 5,
        streamLoss := (max 10 (min (fieldAt m 22 2) 100) + 4) / 5, spliceHold := max 0 (min (fieldAt m 24 2) 10) * 200,
        settle := max 1 (min (fieldAt m 26 2) 600) * 200, sigGuard := (max 10 (min (fieldAt m 28 2) 200) + 4) / 5,
        idleQualify := (max 100 (min (fieldAt m 30 2) 5000) + 4) / 5,
        peerHold := (max 500 (min (fieldAt m 32 2) 10000) + 4) / 5 } := rfl

theorem bootSettings_inRange (m : List Byte) : (bootSettings m).params.inRange := by
  simp only [bootSettings, Params.raiseSettle, clampedParams_eq, Params.inRange]
  omega

/-- The invariant behind the first half of `StepKeepsRecords`. -/
theorem Circuit.Ranges.invariant : CircuitInvariant (fun st => st.params.inRange) (fun _ r => r.Ranges) where
  rule := Circuit.Ranges.rule
  start _ := Circuit.Ranges.start
  settings := by simp only [Settings.start, Params.start, Params.inRange]; decide
  boot := bootSettings_inRange
  bound _ _ _ hb h := h.bind hb

theorem State.recordsInRange_iff (s : State) :
    s.recordsInRange ↔ s.Good (fun st => st.params.inRange) (fun _ r => r.Ranges) :=
  and_congr_right fun _ => forall_congr' fun _ => Circuit.inRange_iff _

end Sys2Proof.Machine
end

section
/-! SUPPORT. The changes of a circuit record that leave its standing: state, binding, legacy-released flag, release cells and
calendar row. -/

namespace Sys2Proof.Machine

/-- What of a circuit record its windows, its queue places and its calendar place depend on is the same. -/
structure Circuit.SameStanding (r r' : Circuit) : Prop where
  state : r'.state = r.state
  binding : r'.binding = r.binding
  legacyReleased : r'.legacyReleased = r.legacyReleased
  releaseCells : r'.releaseCells = r.releaseCells
  calendarRow : r'.calendarRow = r.calendarRow

@[refl] theorem Circuit.SameStanding.refl (r : Circuit) : r.SameStanding r := ⟨rfl, rfl, rfl, rfl, rfl⟩

theorem Circuit.SameStanding.trans {r r' r'' : Circuit} (h : r.SameStanding r') (g : r'.SameStanding r'') : r.SameStanding r'' :=
  ⟨g.state.trans h.state, g.binding.trans h.binding, g.legacyReleased.trans h.legacyReleased,
    g.releaseCells.trans h.releaseCells, g.calendarRow.trans h.calendarRow⟩

theorem Circuit.SameStanding.ite {r u v : Circuit} {q : Prop} [Decidable q] (hu : r.SameStanding u) (hv : r.SameStanding v) :
    r.SameStanding (if q then u else v) := by
  split
  · exact hu
  · exact hv

theorem Circuit.sameStanding_search (st : Settings) (s : Word) (r : Circuit) : r.SameStanding (r.search st s) := by
  unfold Circuit.search
  split
  · rfl
  · refine .ite ?_ (.refl r)
    unfold Circuit.narrow
    split
    · exact ⟨rfl, rfl, rfl, rfl, rfl⟩
    · split <;> exact ⟨rfl, rfl, rfl, rfl, rfl⟩

theorem Circuit.sameStanding_verify (st : Settings) (s o : Word) (r : Circuit) : r.SameStanding (r.verify st s o) :=
  .ite (.ite ⟨rfl, rfl, rfl, rfl, rfl⟩ ⟨rfl, rfl, rfl, rfl, rfl⟩) (.refl r)

theorem Circuit.sameStanding_countIdle (st : Settings) (b : Bool) (sw : Code) (r : Circuit) :
    r.SameStanding (r.countIdle st b sw) :=
  .ite (.ite ⟨rfl, rfl, rfl, rfl, rfl⟩ (.ite ⟨rfl, rfl, rfl, rfl, rfl⟩ (.refl r))) (.refl r)

theorem Circuit.sameStanding_takeObase (off : Word) (r : Circuit) : r.SameStanding (r.takeObase off) := by
  unfold Circuit.takeObase
  split
  · rfl
  · exact .ite ⟨rfl, rfl, rfl, rfl, rfl⟩ (.refl r)

theorem Circuit.sameStanding_takeWindow (a s : Word) (r : Circuit) : r.SameStanding (r.takeWindow a s) := by
  unfold Circuit.takeWindow
  split
  · rfl
  · exact .ite ⟨rfl, rfl, rfl, rfl, rfl⟩ (.refl r)

theorem Circuit.sameStanding_guardEnd (r : Circuit) : r.SameStanding r.guardEnd := by
  unfold Circuit.guardEnd
  split
  · exact .ite ⟨rfl, rfl, rfl, rfl, rfl⟩ (.refl r)
  · rfl

theorem Circuit.sameStanding_fillEnd (f : Word) (r : Circuit) : r.SameStanding (r.fillEnd f) := by
  unfold Circuit.fillEnd
  split
  · exact .ite ⟨rfl, rfl, rfl, rfl, rfl⟩ (.refl r)
  · rfl

theorem Circuit.sameStanding_startGuard (x : Ctx) (r : Circuit) : r.SameStanding (r.startGuard x) :=
  .ite ⟨rfl, rfl, rfl, rfl, rfl⟩ ⟨rfl, rfl, rfl, rfl, rfl⟩

theorem Circuit.sameStanding_openSlot (x : Ctx) (c : Nat) (r : Circuit) : r.SameStanding (r.openSlot x c) :=
  (r.sameStanding_startGuard x).trans ⟨rfl, rfl, rfl, rfl, rfl⟩

theorem Circuit.sameStanding_giveSlot (x : Ctx) (c : Nat) (r : Circuit) : r.SameStanding (r.giveSlot x c) :=
  (r.sameStanding_guardEnd.trans (r.guardEnd.sameStanding_fillEnd x.frame)).trans ⟨rfl, rfl, rfl, rfl, rfl⟩

theorem Circuit.sameStanding_giveOnce (x : Ctx) (c : Nat) (r : Circuit) : r.SameStanding (r.giveOnce x c) :=
  .ite (.refl r) (r.sameStanding_giveSlot x c)

theorem Circuit.sameStanding_writeJudged (off : Word) (cell : BearerCell) (r : Circuit) :
    r.SameStanding (r.writeJudged off cell) :=
  .ite ⟨rfl, rfl, rfl, rfl, rfl⟩ (.ite ⟨rfl, rfl, rfl, rfl, rfl⟩ ⟨rfl, rfl, rfl, rfl, rfl⟩)

/-! ## The legacy-released flag (R22) -/

theorem Circuit.SameStanding.releaseInStep {r r' : Circuit} (e : r.SameStanding r') (h : r.releaseInStep) : r'.releaseInStep := by
  unfold Circuit.releaseInStep
  rw [e.state, e.legacyReleased]
  exact h

/-- R22: a change of state leaves the flag set only where it may stay. -/
theorem Circuit.enter_releaseInStep (st : CircuitState) (r : Circuit) : (r.enter st).releaseInStep := by
  intro h
  have hk : st.keepsRelease = true := (Bool.and_eq_true_iff.mp h).2
  revert hk
  cases st <;> simp [Circuit.enter, CircuitState.keepsRelease]

/-- Every change of a circuit record is within the circuit's standing, or a change of state, or the release of a COMMITTED
circuit's copper leg, or no change of the state and the flag. -/
theorem Circuit.releaseInStep_rule (x : Ctx) : Circuit.Rule x (fun _ r => r.releaseInStep) where
  reported _ _ _ h := h
  joined _ _ _ _ _ h := h
  left _ _ h := h
  spliced _ r _ _ _ _ _ _ _ := r.enter_releaseInStep .spliced
  splicedBlind _ r _ _ _ := r.enter_releaseInStep .spliced
  released _ _ hs _ _ := fun _ => .inl hs
  committed _ r _ := r.enter_releaseInStep .committed
  waiting _ r _ _ _ := r.enter_releaseInStep .spliceWait
  excess _ r _ := r.enter_releaseInStep .aligned
  aligned _ r _ := r.enter_releaseInStep .aligned
  deficit _ _ _ _ h := h
  queued _ r _ := r.enter_releaseInStep .splicePending
  bridged _ r _ := r.enter_releaseInStep .bridging
  coppered _ r _ := r.enter_releaseInStep .copper
  reversed _ r _ _ _ := r.enter_releaseInStep .copper
  rebridged _ r _ _ := r.enter_releaseInStep .bridging
  held _ r _ := r.enter_releaseInStep .held
  downed _ r _ := r.enter_releaseInStep .down
  returned _ r _ := r.enter_releaseInStep .committed
  phase _ _ _ h := h
  found _ r _ _ := r.enter_releaseInStep .aligned
  verifyCleared _ _ h := h
  realigning _ r _ := r.enter_releaseInStep .bridging
  offsetLost _ _ h := h
  judged _ _ _ h := h
  searched _ r s h := (r.sameStanding_search x.settings s).releaseInStep h
  verified _ r s o h := (r.sameStanding_verify x.settings s o).releaseInStep h
  reverting _ r _ := r.enter_releaseInStep .revertWait
  deferred _ _ h := h
  returnedToCopper _ r _ := r.enter_releaseInStep .copper
  guardEnded _ r h := r.sameStanding_guardEnd.releaseInStep h
  fillEnded _ r h := (r.sameStanding_fillEnd x.frame).releaseInStep h
  counted _ _ h := h
  idleCounted _ r b sw h := (r.sameStanding_countIdle x.settings b sw).releaseInStep h
  opened c r h := (r.sameStanding_openSlot x c).releaseInStep h
  given c r h := (r.sameStanding_giveOnce x c).releaseInStep h
  passed _ _ _ _ h := h
  received _ _ _ h := h
  pushed _ _ _ h := h
  written _ _ _ h := h
  writtenJudged _ r off cell h := (r.sameStanding_writeJudged off cell).releaseInStep h
  obase _ r off h := (r.sameStanding_takeObase off).releaseInStep h
  window _ r s h := (r.sameStanding_takeWindow x.frame s).releaseInStep h
  releaseSent _ _ _ _ h := h

theorem Circuit.releaseInStep_invariant : CircuitInvariant (fun _ => True) (fun _ r => r.releaseInStep) where
  rule x _ := Circuit.releaseInStep_rule x
  start _ := nofun
  settings := trivial
  boot _ := trivial
  bound _ r b _ h := by
    cases b with
    | none => exact h
    | some v => exact r.enter_releaseInStep .copper

/-- Settles O58: Table 1.1 and R22 are properties of circuit records that every change of one keeps. -/
theorem stepKeepsRecords : Obligations.StepKeepsRecords := by
  refine ⟨fun s t h hstep => ?_, fun s t h hstep => ?_⟩
  · rw [State.recordsInRange_iff] at h ⊢
    exact step_keeps_circuits Circuit.Ranges.invariant s t h hstep
  · exact (step_keeps_circuits Circuit.releaseInStep_invariant s t ⟨trivial, h⟩ hstep).2

end Sys2Proof.Machine
end

section
/-! SUPPORT. Everything the trunk's operations can do to the trunk's stores and lists, said once: `Trunk.Moves` lists the single
writes, and each operation is a chain of them. -/

namespace Sys2Proof.Machine

/-- Chains of single writes to the trunk. A list only grows to its capacity. -/
inductive Trunk.Moves : Trunk → Trunk → Prop
  | refl (t : Trunk) : Trunk.Moves t t
  | setCircuit {t u : Trunk} (c : Nat) (r : Circuit) : Trunk.Moves t u → Trunk.Moves t (u.setCircuit c r)
  | mapCircuits {t u : Trunk} (f : Nat → Circuit → Circuit) : Trunk.Moves t u → Trunk.Moves t (u.mapCircuits f)
  | enterReport {t u : Trunk} (rep : Report) : Trunk.Moves t u → Trunk.Moves t (u.enterReport rep)
  | dropReports {t u : Trunk} (n : Nat) : Trunk.Moves t u → Trunk.Moves t { u with reports := u.reports.drop n }
  | fallback {t u : Trunk} (fs : List FallbackRecord) (h : fs.length ≤ 8 ∨ fs.length ≤ u.fallback.length) :
      Trunk.Moves t u → Trunk.Moves t { u with fallback := fs }
  | waitQueue {t u : Trunk} (cs : List Nat) : Trunk.Moves t u → Trunk.Moves t { u with waitQueue := cs }
  | setRow {t u : Trunk} (k : Nat) (cs : List Nat) (h : cs.length ≤ 6 ∨ cs.length ≤ (u.row k).length) :
      Trunk.Moves t u → Trunk.Moves t (u.setRow k cs)

variable {x : Ctx} {t u : Trunk} {c : Nat}

theorem Trunk.Moves.trans {t u v : Trunk} (h : t.Moves u) (g : u.Moves v) : t.Moves v := by
  induction g with
  | refl => exact h
  | setCircuit c r _ ih => exact ih.setCircuit c r
  | mapCircuits f _ ih => exact ih.mapCircuits f
  | enterReport rep _ ih => exact ih.enterReport rep
  | dropReports n _ ih => exact ih.dropReports n
  | fallback fs hl _ ih => exact ih.fallback fs hl
  | waitQueue cs _ ih => exact ih.waitQueue cs
  | setRow k cs hl _ ih => exact ih.setRow k cs hl

theorem Trunk.Moves.modify (h : t.Moves u) (c : Nat) (f : Circuit → Circuit) : t.Moves (u.modify c f) := h.setCircuit c _

theorem Trunk.Moves.ite {q : Prop} [Decidable q] {v w : Trunk} (hv : t.Moves v) (hw : t.Moves w) :
    t.Moves (if q then v else w) := by
  split
  · exact hv
  · exact hw

theorem Trunk.Moves.foldl {α : Type} {f : Trunk → α → Trunk} (hf : ∀ a u, t.Moves u → t.Moves (f u a)) (as : List α) :
    ∀ {u : Trunk}, t.Moves u → t.Moves (as.foldl f u) := by
  induction as with
  | nil => exact id
  | cons a as ih => exact fun h => ih (hf a _ h)

theorem Trunk.Moves.forEach (h : t.Moves u) {f : Nat → Trunk → Trunk} (hf : ∀ c v, t.Moves v → t.Moves (f c v)) :
    t.Moves (u.forEach f) := Trunk.Moves.foldl (f := fun t c => f c t) hf _ h

/-! ## Reports, calendar, list -/

theorem Trunk.Moves.report (h : t.Moves u) (x : Ctx) (c : Nat) (k : ReportKind) (v : Option ReportVariant) (d : Option Nat)
    (fl : SpliceFlags) : t.Moves (u.report x c k v d fl) := by
  unfold Trunk.report
  split
  · exact h
  · exact .ite h (.ite ((h.enterReport _).modify _ _) (h.enterReport _))

theorem Trunk.Moves.reportPlain (h : t.Moves u) (x : Ctx) (c : Nat) (k : ReportKind) : t.Moves (u.reportPlain x c k) :=
  h.report x c k none none .clear

theorem Trunk.Moves.reportStation (h : t.Moves u) (x : Ctx) (p : Nat) (k : ReportKind) : t.Moves (u.reportStation x p k) :=
  h.enterReport _

theorem Trunk.Moves.join (h : t.Moves u) {v : Trunk} (hv : u.join c = some v) : t.Moves v := by
  unfold Trunk.join at hv
  split at hv
  · obtain rfl := Option.some.inj hv
    exact h
  · dsimp only at hv
    split at hv
    next hroom =>
      obtain rfl := Option.some.inj hv
      exact (h.setRow _ _ (.inl (by rw [List.length_append]; exact hroom))).modify _ _
    · cases hv

theorem Trunk.Moves.leaveCalendar (h : t.Moves u) (c : Nat) : t.Moves (u.leaveCalendar c) := by
  unfold Trunk.leaveCalendar
  split
  · exact h
  · exact (h.setRow _ _ (.inr (List.length_filter_le _ _))).modify _ _

theorem Trunk.Moves.removeRecord (h : t.Moves u) (c : Nat) : t.Moves (u.removeRecord c) :=
  h.fallback _ (.inr (List.length_filter_le _ _))

theorem Trunk.Moves.mapRecords (h : t.Moves u) (f : FallbackRecord → FallbackRecord) :
    t.Moves { u with fallback := u.fallback.map f } :=
  h.fallback _ (.inr (Nat.le_of_eq (List.length_map _)))

theorem Trunk.Moves.appendRecord (h : t.Moves u) (f : FallbackRecord) : t.Moves (u.appendRecord f) := by
  unfold Trunk.appendRecord
  split
  next hroom => exact h.fallback _ (.inl (by rw [List.length_append]; exact of_decide_eq_true hroom))
  · exact h

theorem Trunk.Moves.recordLive (h : t.Moves u) (x : Ctx) (c : Nat) : t.Moves (u.recordLive x c) := by
  unfold Trunk.recordLive
  split
  · exact h.mapRecords _
  · exact h.appendRecord _

theorem Trunk.Moves.leaveQueue (h : t.Moves u) (c : Nat) : t.Moves (u.leaveQueue c) := h.waitQueue _

/-! ## Splices, commits, servings -/

theorem Trunk.Moves.splice (h : t.Moves u) (x : Ctx) (c : Nat) (kind : SpliceKind) (d : Nat) (gap : Bool) :
    t.Moves (u.splice x c kind d gap) := ((h.modify _ _).recordLive x c).report x c _ _ _ _

theorem Trunk.Moves.legacyRelease (h : t.Moves u) (x : Ctx) (c : Nat) : t.Moves (u.legacyRelease x c) :=
  .ite ((h.modify _ _).reportPlain x c _) h

theorem Trunk.Moves.commit (h : t.Moves u) (x : Ctx) (c : Nat) (k : ReportKind) (d : Option Nat) : t.Moves (u.commit x c k d) :=
  (((h.removeRecord c).modify _ _).report x c k none d .clear).legacyRelease x c

theorem Trunk.Moves.request (h : t.Moves u) {v : Trunk} (hv : u.request x c = some v) : t.Moves v := by
  unfold Trunk.request at hv
  split at hv
  · cases hv
  · split at hv
    · obtain rfl := Option.some.inj hv
      exact h
    · split at hv
      · obtain rfl := Option.some.inj hv
        exact h.commit x _ _ _
      · cases hv

theorem Trunk.Moves.grant (h : t.Moves u) (x : Ctx) (c d : Nat) : t.Moves (u.grant x c d) :=
  .ite (h.splice x c _ _ _) ((h.appendRecord _).modify _ _)

theorem Trunk.Moves.delayExcess (h : t.Moves u) (x : Ctx) (c d : Nat) : t.Moves (u.delayExcess x c d) :=
  (h.modify _ _).report x c _ _ _ _

theorem Trunk.Moves.serveRoll (x : Ctx) (n : Nat) : ∀ {u : Trunk}, t.Moves u → t.Moves (u.serveRoll x n) := by
  induction n with
  | zero => exact id
  | succ n ih =>
    intro u h
    unfold Trunk.serveRoll
    split
    next hd rest v _ _ =>
      have h1 := h.waitQueue rest
      dsimp only
      split
      · exact ih (h1.modify _ _)
      · have h2 := (h1.commit x v .forcedCommit (some hd)).grant x hd
        exact .ite (ih (h1.delayExcess x hd _)) (.ite (ih (h2 _)) (h2 _))
    · exact h

theorem Trunk.Moves.serveRoom (x : Ctx) (n : Nat) : ∀ {u : Trunk}, t.Moves u → t.Moves (u.serveRoom x n) := by
  induction n with
  | zero => exact id
  | succ n ih =>
    intro u h
    unfold Trunk.serveRoom
    split
    · exact h
    next hd rest _ =>
      have h1 := h.waitQueue rest
      refine .ite ?_ h
      dsimp only
      split
      · exact ih (h1.modify _ _)
      · have h2 := h1.grant x hd
        exact .ite (ih (h1.delayExcess x hd _)) (.ite (.serveRoll x n (h2 _)) (ih (h2 _)))

theorem Trunk.Moves.serve (h : t.Moves u) (x : Ctx) : t.Moves (u.serve x) := .serveRoom x _ h

theorem Trunk.Moves.serveLive (h : t.Moves u) (x : Ctx) : t.Moves (u.serveLive x) := .ite (.serveRoll x _ h) h

theorem Trunk.Moves.spliceAndServe (h : t.Moves u) (x : Ctx) (c : Nat) (kind : SpliceKind) (d : Nat) (gap : Bool) :
    t.Moves (u.spliceAndServe x c kind d gap) := (h.splice x c kind d gap).serveLive x

theorem Trunk.Moves.arrive (h : t.Moves u) (x : Ctx) (c : Nat) : t.Moves (u.arrive x c) := by
  unfold Trunk.arrive
  split
  · unfold Trunk.arriveBridging
    refine .ite ?_ h
    split
    next v hv => exact (h.request hv).spliceAndServe x c _ _ _
    · exact h
  · refine .ite ?_ h
    split
    · exact h
    next d _ =>
      refine .ite (h.report x c _ _ _ _) ?_
      split
      next v hv => exact ((h.request hv).grant x c d).serveLive x
      · exact (h.waitQueue _).modify _ _
  · unfold Trunk.arriveWaiting
    dsimp only
    split
    · exact h
    next d _ =>
      exact .ite (((h.removeRecord c).delayExcess x c d).serve x) (.ite (h.spliceAndServe x c _ _ _)
        (.ite ((h.modify _ _).spliceAndServe x c _ _ _) (h.modify _ _)))
  · exact h

/-! ## The controller -/

theorem Trunk.Moves.abandonWith (h : t.Moves u) (x : Ctx) (c : Nat) (k : Option ReportKind) : t.Moves (u.abandonWith x c k) := by
  have h1 : t.Moves (u.abandonCore c) := ((h.removeRecord c).leaveQueue c).modify _ _
  cases k with
  | none => exact .ite (h1.serve x) h1
  | some k => exact .ite ((h1.reportPlain x c k).serve x) (h1.reportPlain x c k)

theorem Trunk.Moves.reverseSplice (h : t.Moves u) (x : Ctx) (c : Nat) (k : ReverseKind) : t.Moves (u.reverseSplice x c k) := by
  have h1 := fun v d fl => ((h.removeRecord c).modify c (fun r =>
    (r.markReverse k ((u.circuit c).judgeReverse x.settings (x.frame + 1)).1).toCopper)).report x c .reverted v d fl
  exact .ite ((h1 _ _ _).serve x) (h1 _ _ _)

theorem Trunk.Moves.reBridge (h : t.Moves u) (x : Ctx) (c : Nat) : t.Moves (u.reBridge x c) := (h.modify _ _).report x c _ _ _ _

theorem Trunk.Moves.joinOrReport (h : t.Moves u) (x : Ctx) (c : Nat) : t.Moves (u.joinOrReport x c) := by
  unfold Trunk.joinOrReport
  split
  next v hv => exact (h.join hv).modify _ _
  · exact h.reportPlain x c _

theorem Trunk.Moves.follow (h : t.Moves u) (x : Ctx) (c : Nat) : t.Moves (u.follow x c) := by
  unfold Trunk.follow
  dsimp only
  split
  · exact h
  · exact .ite (h.joinOrReport x c) h

theorem Trunk.Moves.hold (h : t.Moves u) (x : Ctx) (c : Nat) : t.Moves (u.hold x c) := (h.modify _ _).reportPlain x c _

theorem Trunk.Moves.heldReturn (h : t.Moves u) (x : Ctx) (c : Nat) (ph : Phase) : t.Moves (u.heldReturn x c ph) :=
  (((h.modify _ _).legacyRelease x c).modify _ _).legacyRelease x c

theorem Trunk.Moves.goDown (h : t.Moves u) (x : Ctx) (c : Nat) : t.Moves (u.goDown x c) :=
  ((h.leaveCalendar c).modify _ _).reportPlain x c _

theorem Trunk.Moves.releaseCommitted (h : t.Moves u) (x : Ctx) (c : Nat) : t.Moves (u.releaseCommitted x c) :=
  .ite (h.goDown x c) (h.reverseSplice x c _)

theorem Trunk.Moves.react (h : t.Moves u) (x : Ctx) (c : Nat) (ph : Phase) : t.Moves (u.react x c ph) := by
  unfold Trunk.react
  split
  case h_1 => exact h
  case h_2 => exact .ite (h.follow x c) h
  case h_9 =>
    exact .ite (h.reBridge x c) (.ite ((h.modify _ _).legacyRelease x c) (.ite (h.releaseCommitted x c) h))
  case h_10 => exact .ite (h.reBridge x c) (.ite (h.heldReturn x c ph) (.ite (h.releaseCommitted x c) h))
  case h_11 => exact .ite (h.joinOrReport x c) h
  case h_7 | h_8 => exact .ite (h.reverseSplice x c _) h
  all_goals exact .ite (h.abandonWith x c _) h

theorem Trunk.Moves.takePhase (h : t.Moves u) (x : Ctx) (c : Nat) (ph : Phase) : t.Moves (u.takePhase x c ph) :=
  (h.react x c ph).modify _ _

theorem Trunk.Moves.peerEvent (h : t.Moves u) (x : Ctx) (c : Nat) : t.Moves (u.peerEvent x c) := by
  have h1 := h.modify c (fun r => { r with peerPhase := none })
  unfold Trunk.peerEvent
  dsimp only
  split
  case h_5 | h_6 => exact h1.reverseSplice x c _
  case h_7 => exact h1.hold x c
  case h_8 => exact h1
  all_goals exact h1.abandonWith x c _

/-! ## Alignment and expiries -/

theorem Trunk.Moves.alignmentLost (h : t.Moves u) (x : Ctx) (c : Nat) : t.Moves (u.alignmentLost x c) := by
  have h0 := h.modify c (fun r => { r with align := { r.align with verifyMiss := 0 } })
  have h1 := (((h0.removeRecord c).leaveQueue c).modify c (Circuit.backToBridging x.settings.params)).reportPlain x c .alignLost
  unfold Trunk.alignmentLost
  dsimp only
  split
  case h_1 | h_2 | h_3 => exact .ite (h1.serve x) h1
  case h_7 => exact h0
  all_goals exact (h0.modify _ _).reportPlain x c _

theorem Trunk.Moves.judgeWindow (h : t.Moves u) (x : Ctx) (c : Nat) (s : Word) : t.Moves (u.judgeWindow x c s) := by
  have h1 := h.modify c (Circuit.search x.settings s)
  have h2 := fun o => h.modify c (Circuit.verify x.settings s o)
  unfold Trunk.judgeWindow
  dsimp only
  split
  case h_1 =>
    split
    · exact .ite ((h1.modify _ _).report x c _ _ _ _) h1
    · exact h1
  case h_8 => exact h
  all_goals
    split
    · exact .ite (.ite ((h2 _).alignmentLost x c) (h2 _)) h
    · exact h

theorem Trunk.Moves.windowJudgement (h : t.Moves u) (x : Ctx) (c : Nat) : t.Moves (u.windowJudgement x c) := by
  unfold Trunk.windowJudgement
  split
  · exact h
  · exact (h.modify _ _).judgeWindow x c _

theorem Trunk.Moves.alignmentTimeout (h : t.Moves u) (x : Ctx) (c : Nat) : t.Moves (u.alignmentTimeout x c) :=
  .ite (h.abandonWith x c _) h

theorem Trunk.Moves.bridgeIdle (h : t.Moves u) (x : Ctx) (c : Nat) : t.Moves (u.bridgeIdle x c) := .ite (h.abandonWith x c _) h

theorem Trunk.Moves.streamLoss (h : t.Moves u) (x : Ctx) (c : Nat) : t.Moves (u.streamLoss x c) := by
  refine .ite ?_ h
  split
  case h_4 => exact h
  case h_3 => exact h.hold x c
  all_goals exact h.reverseSplice x c _

theorem Trunk.Moves.peerHoldExpiry (h : t.Moves u) (x : Ctx) (c : Nat) : t.Moves (u.peerHoldExpiry x c) :=
  .ite (h.goDown x c) h

theorem Trunk.Moves.endHold (h : t.Moves u) (c : Nat) : t.Moves (u.endHold c) := h.mapRecords _

theorem Trunk.Moves.holdExpiry (h : t.Moves u) (x : Ctx) (c : Nat) : t.Moves (u.holdExpiry x c) := by
  unfold Trunk.holdExpiry
  split
  · exact .ite (.ite ((h.endHold c).modify _ _) (h.endHold c)) h
  · exact h

theorem Trunk.Moves.settleExpiry (h : t.Moves u) (x : Ctx) (c : Nat) : t.Moves (u.settleExpiry x c) := by
  unfold Trunk.settleExpiry
  split
  · exact .ite (.ite ((h.endHold c).modify _ _) ((h.commit x c _ _).serve x)) h
  · exact h

theorem Trunk.Moves.quietSplice (h : t.Moves u) (x : Ctx) (c : Nat) : t.Moves (u.quietSplice x c) :=
  .ite (h.spliceAndServe x c _ _ _) h

theorem Trunk.Moves.quietReverse (h : t.Moves u) (x : Ctx) (c : Nat) : t.Moves (u.quietReverse x c) :=
  .ite (h.reverseSplice x c _) h

theorem Trunk.Moves.countBoundary (h : t.Moves u) : t.Moves u.countBoundary :=
  (h.mapCircuits (fun _ r => r.countBoundary)).mapRecords FallbackRecord.countBoundary

theorem Trunk.Moves.openSlots (h : t.Moves u) (x : Ctx) : t.Moves (u.openSlots x) :=
  (h.mapCircuits (fun c r => r.openSlot x c)).mapRecords FallbackRecord.age

theorem Trunk.Moves.countRelease (h : t.Moves u) (c : Nat) : t.Moves (u.countRelease c) :=
  .ite (.ite ((h.modify _ _).leaveCalendar c) (h.modify _ _)) h

/-! ## Cells and orders -/

theorem Trunk.Moves.deliver (h : t.Moves u) (x : Ctx) (c : Nat) (cell : BearerCell) : t.Moves (u.deliver x c cell) := by
  have h1 := (((h.bridgeIdle x c).streamLoss x c).modify c (Circuit.receive cell)).takePhase x c cell.phase
  exact .ite ((h1.modify _ _).arrive x c) (.ite (.ite (h1.modify _ _) (h1.modify _ _)) h1)

theorem Trunk.Moves.mismatch (h : t.Moves u) (x : Ctx) (c : Nat) (ph : Phase) : t.Moves (u.mismatch x c ph) :=
  .ite (h.reportPlain x c _) h

theorem Trunk.Moves.cutOne (h : t.Moves u) (x : Ctx) (c : Nat) : t.Moves (u.cutOne x c).1 := by
  unfold Trunk.cutOne
  dsimp only
  split
  · exact h
  · repeat' split
    case h_2 v hv => exact (h.join hv).modify _ _
    all_goals exact h

theorem Trunk.Moves.revertOne (h : t.Moves u) (x : Ctx) (c : Nat) : t.Moves (u.revertOne x c).1 := by
  unfold Trunk.revertOne
  split
  case h_3 | h_4 | h_5 | h_6 => exact h.abandonWith x c none
  case h_7 =>
    split
    · exact h.modify c (fun r => { r with deferredRevert := true })
    · exact h.modify c (fun r => { r.enter .revertWait with deferredRevert := false })
  case h_11 => exact h.modify c _
  all_goals exact h

theorem Trunk.Moves.commitOne (h : t.Moves u) (x : Ctx) (c : Nat) : t.Moves (u.commitOne x c).1 := by
  unfold Trunk.commitOne
  split
  · exact (h.commit x c _ _).serve x
  · exact h
  · exact h

theorem Trunk.Moves.forceOne (h : t.Moves u) (x : Ctx) (c : Nat) : t.Moves (u.forceOne x c).1 := by
  unfold Trunk.forceOne
  dsimp only
  split
  · exact h.spliceAndServe x c _ _ _
  · exact h.reverseSplice x c _
  · exact h
  · exact h

theorem Trunk.Moves.resume (h : t.Moves u) (x : Ctx) : t.Moves (u.resume x) := .ite (h.serve x) (h.serveLive x)

/-! ## What a chain of writes keeps -/

/-- The trunk's two tables are in canonical form. -/
def Trunk.tablesWf (t : Trunk) : Prop :=
  Table.wf Circuit.start t.circuits = true ∧ Table.wf ([] : List Nat) t.calendar = true

theorem Trunk.Moves.tablesWf (h : t.Moves u) (ht : t.tablesWf) : u.tablesWf := by
  induction h with
  | refl => exact ht
  | setCircuit c r _ ih => exact ⟨Table.wf_write _ _ _ _ ih.1, ih.2⟩
  | mapCircuits f _ ih => exact ⟨Table.wf_build _ _ _, ih.2⟩
  | enterReport rep _ ih => exact ⟨by rw [Trunk.enterReport_circuits]; exact ih.1, by rw [Trunk.enterReport_calendar]; exact ih.2⟩
  | dropReports n _ ih => exact ih
  | fallback fs _ _ ih => exact ih
  | waitQueue cs _ ih => exact ih
  | setRow k cs _ _ ih => exact ⟨ih.1, Table.wf_write _ _ _ _ ih.2⟩

/-- The capacities of the trunk (R92, R106, R153). -/
structure Trunk.Capacities (t : Trunk) : Prop where
  reports : t.reports.length ≤ 64
  overflow : t.reportOverflow ≤ 255
  fallback : t.fallback.length ≤ 8
  rows : ∀ k, (t.row k).length ≤ 6

theorem Trunk.Capacities.enterReport (h : t.Capacities) (rep : Report) : (t.enterReport rep).Capacities := by
  unfold Trunk.enterReport
  split
  next hroom => exact { h with reports := by rw [List.length_append]; exact hroom }
  · exact { h with overflow := countUp_le _ _ }

theorem Trunk.Moves.capacities (h : t.Moves u) (ht : t.Capacities) : u.Capacities := by
  induction h with
  | refl => exact ht
  | setCircuit c r _ ih => exact { ih with }
  | mapCircuits f _ ih => exact { ih with }
  | enterReport rep _ ih => exact ih.enterReport rep
  | dropReports n _ ih =>
    exact { ih with reports := Nat.le_trans (by rw [List.length_drop]; exact Nat.sub_le _ _) ih.reports }
  | fallback fs hl _ ih => exact { ih with fallback := hl.elim id fun hl => Nat.le_trans hl ih.fallback }
  | waitQueue cs _ ih => exact { ih with }
  | setRow k cs hl _ ih =>
    refine { ih with rows := fun j => ?_ }
    rw [Trunk.row_setRow]
    split
    · exact hl.elim id fun hl => Nat.le_trans hl (ih.rows k)
    · exact ih.rows j

end Sys2Proof.Machine
end

section
/-! SUPPORT. What the station can do, said once: `Trunk.Acts` lists what it does to its trunk, `State.InFrame` what happens to it
between two frame markers, and `State.Goes` what a command does. -/

namespace Sys2Proof.Machine

/-! ## Acts on the trunk -/

/-- Chains of acts on the trunk, in the context `x`. Each leaves the lists and the calendar in agreement with the circuits. -/
inductive Trunk.Acts (x : Ctx) : Trunk → Trunk → Prop
  | refl (t : Trunk) : Trunk.Acts x t t
  | modify {t u : Trunk} (c : Nat) (f : Circuit → Circuit) (hf : (u.circuit c).SameStanding (f (u.circuit c))) :
      Trunk.Acts x t u → Trunk.Acts x t (u.modify c f)
  | mapCircuits {t u : Trunk} (f : Nat → Circuit → Circuit) (hf : ∀ c (r : Circuit), r.SameStanding (f c r)) :
      Trunk.Acts x t u → Trunk.Acts x t (u.mapCircuits f)
  | openSlots {t u : Trunk} : Trunk.Acts x t u → Trunk.Acts x t (u.openSlots x)
  | reportStation {t u : Trunk} (p : Nat) (k : ReportKind) : Trunk.Acts x t u → Trunk.Acts x t (u.reportStation x p k)
  | dropReports {t u : Trunk} (n : Nat) : Trunk.Acts x t u → Trunk.Acts x t { u with reports := u.reports.drop n }
  | alignmentTimeout {t u : Trunk} (c : Nat) : Trunk.Acts x t u → Trunk.Acts x t (u.alignmentTimeout x c)
  | bridgeIdle {t u : Trunk} (c : Nat) : Trunk.Acts x t u → Trunk.Acts x t (u.bridgeIdle x c)
  | streamLoss {t u : Trunk} (c : Nat) : Trunk.Acts x t u → Trunk.Acts x t (u.streamLoss x c)
  | peerHoldExpiry {t u : Trunk} (c : Nat) : Trunk.Acts x t u → Trunk.Acts x t (u.peerHoldExpiry x c)
  | holdExpiry {t u : Trunk} (c : Nat) : Trunk.Acts x t u → Trunk.Acts x t (u.holdExpiry x c)
  | settleExpiry {t u : Trunk} (c : Nat) : Trunk.Acts x t u → Trunk.Acts x t (u.settleExpiry x c)
  | windowJudgement {t u : Trunk} (c : Nat) : Trunk.Acts x t u → Trunk.Acts x t (u.windowJudgement x c)
  | peerEvent {t u : Trunk} (c : Nat) : Trunk.Acts x t u → Trunk.Acts x t (u.peerEvent x c)
  | quietSplice {t u : Trunk} (c : Nat) : Trunk.Acts x t u → Trunk.Acts x t (u.quietSplice x c)
  | quietReverse {t u : Trunk} (c : Nat) : Trunk.Acts x t u → Trunk.Acts x t (u.quietReverse x c)
  | countRelease {t u : Trunk} (c : Nat) : Trunk.Acts x t u → Trunk.Acts x t (u.countRelease c)
  | deliver {t u : Trunk} (c : Nat) (cell : BearerCell) : Trunk.Acts x t u → Trunk.Acts x t (u.deliver x c cell)
  | mismatch {t u : Trunk} (c : Nat) (ph : Phase) : Trunk.Acts x t u → Trunk.Acts x t (u.mismatch x c ph)
  | cutOne {t u : Trunk} (c : Nat) (hx : x.station = .operating) : Trunk.Acts x t u → Trunk.Acts x t (u.cutOne x c).1
  | revertOne {t u : Trunk} (c : Nat) : Trunk.Acts x t u → Trunk.Acts x t (u.revertOne x c).1
  | commitOne {t u : Trunk} (c : Nat) : Trunk.Acts x t u → Trunk.Acts x t (u.commitOne x c).1
  | forceOne {t u : Trunk} (c : Nat) : Trunk.Acts x t u → Trunk.Acts x t (u.forceOne x c).1
  | resume {t u : Trunk} : Trunk.Acts x t u → Trunk.Acts x t (u.resume x)

variable {x : Ctx} {t u : Trunk}

theorem Trunk.Acts.foldl {α : Type} {f : Trunk → α → Trunk} (hf : ∀ a u, t.Acts x u → t.Acts x (f u a)) (as : List α) :
    ∀ {u : Trunk}, t.Acts x u → t.Acts x (as.foldl f u) := by
  induction as with
  | nil => exact id
  | cons a as ih => exact fun h => ih (hf a _ h)

theorem Trunk.Acts.forEach (h : t.Acts x u) {f : Nat → Trunk → Trunk} (hf : ∀ c v, t.Acts x v → t.Acts x (f c v)) :
    t.Acts x (u.forEach f) := Trunk.Acts.foldl (f := fun t c => f c t) hf _ h

theorem Trunk.Acts.ite {q : Prop} [Decidable q] {v w : Trunk} (hv : t.Acts x v) (hw : t.Acts x w) :
    t.Acts x (if q then v else w) := by
  split
  · exact hv
  · exact hw

theorem Trunk.Acts.takeDue (h : t.Acts x u) (c : Nat) : t.Acts x (u.takeDue x c) :=
  (((((h.alignmentTimeout c).bridgeIdle c).streamLoss c).peerHoldExpiry c).holdExpiry c).settleExpiry c

theorem Trunk.Acts.peerEvents (h : t.Acts x u) (p : Nat) : t.Acts x (u.peerEvents x p) :=
  h.forEach fun c _ hv => .ite (hv.peerEvent c) hv

theorem Trunk.Acts.countRow (h : t.Acts x u) : t.Acts x (u.countRow x) :=
  .foldl (fun c _ hv => hv.countRelease c) _ h

theorem Trunk.Acts.runGroup {f : Nat → Trunk → Trunk × Option Reason} (hf : ∀ c v, t.Acts x v → t.Acts x (f c v).1)
    (cs : List Nat) : ∀ {u : Trunk}, t.Acts x u → t.Acts x (runGroup f cs u).1 := by
  induction cs with
  | nil => exact id
  | cons c cs ih => exact fun h => ih (hf c _ h)

theorem Circuit.sameStanding_giveEarly (x : Ctx) (c : Nat) (r : Circuit) : r.SameStanding (r.giveEarly x c) :=
  .ite (.refl r) (r.sameStanding_giveOnce x c)

/-- Every act is a chain of single writes. -/
theorem Trunk.Acts.moves (h : t.Acts x u) : t.Moves u := by
  induction h with
  | refl => exact .refl t
  | modify c f _ _ ih => exact ih.modify c f
  | mapCircuits f _ _ ih => exact ih.mapCircuits f
  | openSlots _ ih => exact ih.openSlots x
  | reportStation p k _ ih => exact ih.reportStation x p k
  | dropReports n _ ih => exact ih.dropReports n
  | alignmentTimeout c _ ih => exact ih.alignmentTimeout x c
  | bridgeIdle c _ ih => exact ih.bridgeIdle x c
  | streamLoss c _ ih => exact ih.streamLoss x c
  | peerHoldExpiry c _ ih => exact ih.peerHoldExpiry x c
  | holdExpiry c _ ih => exact ih.holdExpiry x c
  | settleExpiry c _ ih => exact ih.settleExpiry x c
  | windowJudgement c _ ih => exact ih.windowJudgement x c
  | peerEvent c _ ih => exact ih.peerEvent x c
  | quietSplice c _ ih => exact ih.quietSplice x c
  | quietReverse c _ ih => exact ih.quietReverse x c
  | countRelease c _ ih => exact ih.countRelease c
  | deliver c cell _ ih => exact ih.deliver x c cell
  | mismatch c ph _ ih => exact ih.mismatch x c ph
  | cutOne c _ _ ih => exact ih.cutOne x c
  | revertOne c _ ih => exact ih.revertOne x c
  | commitOne c _ ih => exact ih.commitOne x c
  | forceOne c _ ih => exact ih.forceOne x c
  | resume _ ih => exact ih.resume x

/-! ## What happens between two frame markers -/

/-- The bounds of an entry's counts (R119, R125, R128). -/
structure PeerEntry.Bounded (e : PeerEntry) : Prop where
  miss : e.miss ≤ 4
  unbound : e.unbound ≤ 255
  headerErrors : e.headerErrors ≤ 255

/-- The station is the same but for what its works hold ready for the lane, the pause flag, the RESTART taken and the count of
free values; whether the boundary is still to be counted is the same. -/
def State.sameStation (s t : State) : Prop :=
  { t with
    todo := s.todo, bearerPlaces := s.bearerPlaces, servicePlace := s.servicePlace, laneOut := s.laneOut, paused := s.paused,
    restartTaken := s.restartTaken, freeUsed := s.freeUsed } = s ∧ t.todo.boundary = s.todo.boundary

/-- Chains of what can happen to a station between two frame markers, with no start. LISTENING may end in them where `e`
holds. -/
inductive State.InFrame (e : Prop) : State → State → Prop
  | refl (s : State) : State.InFrame e s s
  | trunk {s t : State} {u : Trunk} (hu : t.trunk.Acts t.ctx u) : State.InFrame e s t → State.InFrame e s { t with trunk := u }
  | boundary {s t : State} (hb : t.todo.boundary = true) : State.InFrame e s t → State.InFrame e s t.countBoundary
  | aside {s t v : State} (h : State.InFrame e s t) (hv : t.sameStation v) : State.InFrame e s v
  | replies {s t : State} (rs : List Reply) (hr : rs.length ≤ 8 ∨ rs.length ≤ t.replyQueue.length) :
      State.InFrame e s t → State.InFrame e s { t with replyQueue := rs }
  | orders {s t : State} (os : List Order) (ho : os.length ≤ 4 ∨ os.length ≤ t.orderQueue.length) :
      State.InFrame e s t → State.InFrame e s { t with orderQueue := os }
  | overflow {s t : State} : State.InFrame e s t → State.InFrame e s { t with orderOverflow := countUp 255 t.orderOverflow }
  | listened {s t : State} (he : e) : State.InFrame e s t → State.InFrame e s t.endListening
  | peer {s t : State} (p : Nat) (entry : PeerEntry) (he : (t.peer p).Bounded → entry.Bounded) :
      State.InFrame e s t → State.InFrame e s (t.setPeer p entry)
  | matched {s t : State} (p : Nat) : State.InFrame e s t → State.InFrame e s (t.reformMatched p)

variable {e : Prop}

theorem State.InFrame.trans {s t v : State} (h : s.InFrame e t) (g : t.InFrame e v) : s.InFrame e v := by
  induction g with
  | refl => exact h
  | trunk hu _ ih => exact ih.trunk hu
  | boundary hb _ ih => exact ih.boundary hb
  | aside _ hv ih => exact ih.aside hv
  | replies rs hr _ ih => exact ih.replies rs hr
  | orders os ho _ ih => exact ih.orders os ho
  | overflow _ ih => exact ih.overflow
  | listened he _ ih => exact ih.listened he
  | peer p entry he _ ih => exact ih.peer p entry he
  | matched p _ ih => exact ih.matched p

theorem State.InFrame.ite {q : Prop} [Decidable q] {s v w : State} (hv : s.InFrame e v) (hw : s.InFrame e w) :
    s.InFrame e (if q then v else w) := by
  split
  · exact hv
  · exact hw

variable {s v : State}

theorem State.InFrame.onTrunk (h : s.InFrame e v) {f : Ctx → Trunk → Trunk} (hf : v.trunk.Acts v.ctx (f v.ctx v.trunk)) :
    s.InFrame e (v.onTrunk f) := h.trunk hf

theorem State.InFrame.settleBoundary (h : s.InFrame e v) : s.InFrame e v.settleBoundary := by
  unfold State.settleBoundary
  split
  next hb => exact h.boundary hb
  · exact h

theorem State.InFrame.countIdles (h : s.InFrame e v) : s.InFrame e v.countIdles := by
  unfold State.countIdles
  split
  · have h1 := h.onTrunk (f := fun x t => t.mapCircuits fun c r => if v.todo.tested.contains c then r else r.testIdle x c)
      ((Trunk.Acts.refl _).mapCircuits _ fun c r => .ite (.refl r) (r.sameStanding_countIdle _ _ _))
    exact h1.aside ⟨rfl, rfl⟩
  · exact h

theorem State.InFrame.testIdle (h : s.InFrame e v) (c : Nat) : s.InFrame e (v.testIdle c) := by
  unfold State.testIdle
  split
  · have h1 := h.onTrunk (f := fun x t => t.modify c fun r => r.testIdle x c)
      ((Trunk.Acts.refl _).modify c _ (Circuit.sameStanding_countIdle _ _ _ _))
    exact h1.aside ⟨rfl, rfl⟩
  · exact h

theorem State.InFrame.giveAll (h : s.InFrame e v) : s.InFrame e v.giveAll := by
  unfold State.giveAll
  split
  · have h1 := h.onTrunk (f := fun x t => t.mapCircuits fun c r => r.giveOnce x c)
      ((Trunk.Acts.refl _).mapCircuits _ fun c r => r.sameStanding_giveOnce _ c)
    exact h1.aside ⟨rfl, rfl⟩
  · exact h

theorem State.InFrame.giveSome (h : s.InFrame e v) : s.InFrame e v.giveSome :=
  h.onTrunk ((Trunk.Acts.refl _).mapCircuits _ fun c r => r.sameStanding_giveEarly _ c)

theorem State.InFrame.giveSlotEarly (h : s.InFrame e v) (c : Nat) : s.InFrame e (v.giveSlotEarly c) :=
  .ite (h.onTrunk ((Trunk.Acts.refl _).modify c _ (Circuit.sameStanding_giveEarly _ c _))) h

theorem State.InFrame.buildRow (h : s.InFrame e v) : s.InFrame e v.buildRow := by
  unfold State.buildRow
  split
  · have h1 := h.trunk (u := v.trunk.countRow v.ctx) (Trunk.Acts.refl _).countRow
    exact h1.aside ⟨rfl, rfl⟩
  · exact h

theorem State.InFrame.fillService (h : s.InFrame e v) : s.InFrame e v.fillService := by
  unfold State.fillService
  split
  · refine .ite (h.aside ⟨rfl, rfl⟩) ?_
    split
    · exact h.aside ⟨rfl, rfl⟩
    next r rest hq => exact (h.replies rest (.inr (by rw [hq]; exact Nat.le_succ _))).aside ⟨rfl, rfl⟩
  · exact h

theorem State.InFrame.doWork (h : s.InFrame e v) (w : Work) : s.InFrame e (v.doWork w) := by
  cases w with
  | boundary => exact h.settleBoundary
  | idle c => exact h.testIdle c
  | slot c => exact h.giveSlotEarly c
  | build => exact h.buildRow
  | service => exact h.fillService

theorem State.InFrame.tick (h : s.InFrame e v) : s.InFrame e v.tick := by
  unfold State.tick
  split
  · exact h
  next w ws _ =>
    have h1 : s.InFrame e { v with todo := { v.todo with between := ws } } := h.aside ⟨rfl, rfl⟩
    exact h1.doWork w

theorem State.InFrame.losePeer (h : s.InFrame e v) (p : Nat) : s.InFrame e (v.losePeer p) := by
  unfold State.losePeer
  split
  · have h1 : s.InFrame e (v.setPeer p { v.peer p with state := .lost }) := h.peer p _ fun e => { e with }
    exact h1.onTrunk (((Trunk.Acts.refl _).reportStation p _).peerEvents p)
  · exact h

theorem State.InFrame.losePeers (h : s.InFrame e v) : s.InFrame e v.losePeers := by
  unfold State.losePeers
  generalize List.range 15 = ps
  induction ps generalizing v with
  | nil => exact h
  | cons p ps ih => exact ih (h.losePeer p)

theorem State.InFrame.takeEvents (h : s.InFrame True v) : s.InFrame True v.takeEvents := by
  have h1 : s.InFrame True (v.losePeers.onTrunk fun x t => t.forEach fun c t => t.takeDue x c) :=
    h.losePeers.onTrunk ((Trunk.Acts.refl _).forEach fun c _ hu => hu.takeDue c)
  unfold State.takeEvents
  exact (h1.listened trivial).onTrunk ((Trunk.Acts.refl _).forEach fun c _ hu => hu.windowJudgement c)

theorem State.InFrame.takeQuiet (h : s.InFrame e v) : s.InFrame e v.takeQuiet :=
  h.onTrunk ((Trunk.Acts.refl _).forEach fun c _ hu => (hu.quietSplice c).quietReverse c)

/-! ## Orders -/

theorem State.InFrame.onNamed (h : s.InFrame e v) {f : Ctx → Nat → Trunk → Trunk × Option Reason}
    (hf : ∀ c u, v.trunk.Acts v.ctx u → v.trunk.Acts v.ctx (f v.ctx c u).1) (o : Order) : s.InFrame e (v.onNamed f o).1 := by
  unfold State.onNamed
  split
  · exact h.trunk (hf _ _ (.refl _))
  · exact (h.trunk (.runGroup hf _ (.refl _))).aside ⟨rfl, rfl⟩
  · exact h

theorem State.InFrame.refuse (h : s.InFrame e v) (k : Reason) (o : Order) : s.InFrame e (v.refuse k o).1 := h.aside ⟨rfl, rfl⟩

theorem State.InFrame.act (h : s.InFrame e v) (row : OrderRow) (o : Order) : s.InFrame e (v.act row o).1 := by
  cases row with
  | cut =>
    simp only [State.act, State.doCut]
    split
    next hop => exact h.onNamed (fun c _ hu => hu.cutOne c hop) o
    · unfold State.cutNotReady
      split
      · exact h
      · exact h.aside ⟨rfl, rfl⟩
      · exact h
  | revert => exact h.onNamed (fun c _ hu => hu.revertOne c) o
  | revertLast =>
    simp only [State.act, State.doRevertLast]
    split
    · exact h
    next c _ => exact h.trunk ((Trunk.Acts.refl _).revertOne c)
  | force => exact h.onNamed (fun c _ hu => hu.forceOne c) o
  | commit => exact h.onNamed (fun c _ hu => hu.commitOne c) o
  | pause => exact h.aside ⟨rfl, rfl⟩
  | resume =>
    simp only [State.act, State.doResume]
    split
    · exact State.InFrame.onTrunk (v := { v with paused := false }) (h.aside ⟨rfl, rfl⟩) (Trunk.Acts.refl _).resume
    · exact h
  | queryCircuit =>
    simp only [State.act, State.doQueryCircuit]
    split <;> exact h
  | queryStation => exact h
  | takeReports => exact h.trunk ((Trunk.Acts.refl _).dropReports _)
  | restart => exact h.aside ⟨rfl, rfl⟩

theorem State.InFrame.carryOut (h : s.InFrame e v) (o : Order) : s.InFrame e (v.carryOut o).1 := by
  unfold State.carryOut
  split
  · unfold State.carryOutUnconfigured
    split
    · split
      · exact h
      · exact h.refuse _ o
    · exact h.aside ⟨rfl, rfl⟩
    · exact h.refuse _ o
  · split
    · exact h.refuse _ o
    · split
      · exact h.act _ o
      · exact h.refuse _ o

/-- What the carrying out of an order leaves as it was: everything but the trunk, the pause flag, the RESTART taken and the
count of free values. -/
def State.sameButAct (s t : State) : Prop :=
  { t with trunk := s.trunk, paused := s.paused, restartTaken := s.restartTaken, freeUsed := s.freeUsed } = s

theorem State.onNamed_sameButAct (f : Ctx → Nat → Trunk → Trunk × Option Reason) (o : Order) (s : State) :
    s.sameButAct (s.onNamed f o).1 := by
  unfold State.onNamed
  split <;> exact rfl

theorem State.act_sameButAct (row : OrderRow) (o : Order) (s : State) : s.sameButAct (s.act row o).1 := by
  cases row with
  | cut =>
    simp only [State.act, State.doCut]
    split
    · exact s.onNamed_sameButAct _ o
    · unfold State.cutNotReady
      split <;> exact rfl
  | revert => exact s.onNamed_sameButAct _ o
  | revertLast =>
    simp only [State.act, State.doRevertLast]
    split <;> exact rfl
  | force => exact s.onNamed_sameButAct _ o
  | commit => exact s.onNamed_sameButAct _ o
  | pause => exact rfl
  | resume =>
    simp only [State.act, State.doResume]
    split <;> exact rfl
  | queryCircuit =>
    simp only [State.act, State.doQueryCircuit]
    split <;> exact rfl
  | queryStation => exact rfl
  | takeReports => exact rfl
  | restart => exact rfl

theorem State.carryOut_sameButAct (o : Order) (s : State) : s.sameButAct (s.carryOut o).1 := by
  unfold State.carryOut
  split
  · unfold State.carryOutUnconfigured
    split
    · split <;> exact rfl
    · exact rfl
    · exact rfl
  · split
    · exact rfl
    · split
      · exact s.act_sameButAct _ o
      · exact rfl

theorem State.sameButAct.replyQueue {s t : State} (h : s.sameButAct t) : t.replyQueue = s.replyQueue :=
  (congrArg State.replyQueue h :)

theorem State.carryOut_replyQueue (o : Order) (s : State) : (s.carryOut o).1.replyQueue = s.replyQueue :=
  (s.carryOut_sameButAct o).replyQueue

theorem State.takes_room {s : State} (h : s.takes = true) : s.replyQueue.length < 8 := by
  simp only [State.takes, Bool.and_eq_true, decide_eq_true_eq] at h
  exact h.1.2

theorem State.InFrame.takeHead (h : s.InFrame e v) (ht : v.takes = true) : s.InFrame e v.takeHead := by
  unfold State.takeHead
  split
  · exact h
  next o rest hq =>
    have h1 := (h.orders rest (.inr (by rw [hq]; exact Nat.le_succ _))).carryOut o
    refine h1.replies _ (.inl ?_)
    rw [State.carryOut_replyQueue, List.length_append]
    exact State.takes_room ht

theorem State.InFrame.takeOrders (n : Nat) : ∀ {v : State}, s.InFrame e v → s.InFrame e (v.takeOrders n) := by
  induction n with
  | zero => exact id
  | succ n ih =>
    intro v h
    unfold State.takeOrders
    split
    next ht => exact ih (h.takeHead (Bool.and_eq_true_iff.mp ht).1)
    · exact h

theorem State.InFrame.takeAll (h : s.InFrame e v) : s.InFrame e v.takeAll := .takeOrders _ h

theorem State.InFrame.takeNameless (n : Nat) : ∀ {v : State}, s.InFrame e v → s.InFrame e (v.takeNameless n) := by
  induction n with
  | zero => exact id
  | succ n ih =>
    intro v h
    unfold State.takeNameless
    split
    · split
      next ht => exact ih (h.takeHead (Bool.and_eq_true_iff.mp ht).2)
      · exact h
    · exact h

theorem State.InFrame.takeAs (h : s.InFrame e v) (row : OrderRow) : s.InFrame e (v.takeAs row) := by
  unfold State.takeAs
  dsimp only
  split
  · split
    next ht => exact (h.takeNameless _).takeHead ht.2
    · exact h
  · exact h

/-! ## Cells, and the rest of a frame -/

theorem State.InFrame.headerError (h : s.InFrame e v) (p : Nat) : s.InFrame e (v.headerError p) :=
  h.peer p _ fun e => { e with headerErrors := countUp_le _ _ }

theorem State.InFrame.unboundCell (h : s.InFrame e v) (p : Nat) : s.InFrame e (v.unboundCell p) :=
  h.peer p _ fun e => { e with unbound := countUp_le _ _ }

theorem State.InFrame.takeBearer (h : s.InFrame e v) (p : Nat) (bs : List Byte) (ph : Phase) : s.InFrame e (v.takeBearer p bs ph) := by
  unfold State.takeBearer
  split
  · exact h.unboundCell p
  · exact .ite (h.onTrunk ((Trunk.Acts.refl _).deliver _ _))
      (.ite ((h.unboundCell p).onTrunk ((Trunk.Acts.refl _).mismatch _ ph)) (h.unboundCell p))

theorem State.InFrame.peerRestart (h : s.InFrame e v) (p : Nat) : s.InFrame e (v.peerRestart p) :=
  h.onTrunk (((Trunk.Acts.refl _).peerEvents p).reportStation p _)

theorem State.InFrame.judgeBeacon (h : s.InFrame e v) (p n : Nat) : s.InFrame e (v.judgeBeacon p n) := by
  have back : s.InFrame e (v.onTrunk fun x t => t.reportStation x p .peerBack) :=
    h.onTrunk ((Trunk.Acts.refl _).reportStation p _)
  unfold State.judgeBeacon
  split
  · exact h
  · exact .ite (h.peerRestart p) h
  · exact h
  · exact .ite (h.peerRestart p) back
  · exact back

theorem State.InFrame.takeBeacon (h : s.InFrame e v) (p : Nat) (b : BeaconCell) : s.InFrame e (v.takeBeacon p b) := by
  have h1 := (h.losePeer p).judgeBeacon p b.cycles
  unfold State.takeBeacon
  exact (h1.peer p (PeerEntry.hear b _) fun e => ⟨Nat.zero_le 4, e.unbound, e.headerErrors⟩).matched p

theorem State.InFrame.joinOrder (h : s.InFrame e v) (o : Order) : s.InFrame e (v.joinOrder o) := by
  unfold State.joinOrder
  split
  next hroom => exact h.orders _ (.inl (by rw [List.length_append]; exact hroom))
  · exact h.overflow

theorem State.InFrame.receivePlace (h : s.InFrame e v) (lane : Nat) (bs : List Byte) : s.InFrame e (v.receivePlace lane bs) := by
  refine .ite h (.ite h (.ite ?_ (h.headerError lane)))
  unfold State.handOn
  split
  · split
    · exact .ite (h.takeBearer lane bs _) h
    · exact h
  · exact .ite (h.takeBeacon lane _) h
  · exact .ite (h.takeAll.joinOrder _) h
  · exact h

theorem State.InFrame.quietRunSplice (h : s.InFrame e v) (c : Nat) : s.InFrame e (v.quietRunSplice c) := by
  have given : s.InFrame e (v.giveSlotNow c) :=
    .ite h (h.onTrunk ((Trunk.Acts.refl _).modify c _ (Circuit.sameStanding_giveOnce _ c _)))
  exact .ite (given.onTrunk ((Trunk.Acts.refl _).quietSplice c)) h

theorem State.InFrame.quietRunReverseSplice (h : s.InFrame e v) (c : Nat) : s.InFrame e (v.quietRunReverseSplice c) := by
  have given : s.InFrame e (v.giveSlotNow c) :=
    .ite h (h.onTrunk ((Trunk.Acts.refl _).modify c _ (Circuit.sameStanding_giveOnce _ c _)))
  exact .ite (given.onTrunk ((Trunk.Acts.refl _).quietReverse c)) h

theorem State.InFrame.takeRest (h : s.InFrame True v) : s.InFrame True v.takeRest :=
  .ite h.countIdles.giveAll.takeQuiet.takeEvents.takeAll h.takeEvents.takeAll.countIdles.giveAll.takeQuiet

theorem State.InFrame.finishFrame (h : s.InFrame True v) : s.InFrame True v.finishFrame :=
  h.settleBoundary.takeRest.buildRow.fillService.takeAll.aside ⟨rfl, rfl⟩

theorem State.InFrame.earlyWorks (h : s.InFrame e v) (o : FrameOrder) : s.InFrame e (v.earlyWorks o) := by
  have h1 : s.InFrame e (if o.boundaryLast then v else v.settleBoundary) := .ite h h.settleBoundary
  unfold State.earlyWorks
  dsimp only
  revert h1
  generalize (if o.boundaryLast then v else v.settleBoundary) = v1
  intro h1
  have h2 : s.InFrame e (if o.idleFirst then v1.countIdles else v1) := .ite h1.countIdles h1
  revert h2
  generalize (if o.idleFirst then v1.countIdles else v1) = v2
  intro h2
  have h3 : s.InFrame e (if o.selectFirst then v2.giveSome else v2) := .ite h2.giveSome h2
  revert h3
  generalize (if o.selectFirst then v2.giveSome else v2) = v3
  intro h3
  have h4 : s.InFrame e (if o.buildFirst then v3.buildRow else v3) := .ite h3.buildRow h3
  exact .ite h4.fillService h4

theorem State.InFrame.boundary_settled (h : s.InFrame e v) (hb : s.todo.boundary = false) : v.todo.boundary = false := by
  induction h with
  | refl => exact hb
  | boundary _ _ _ => rfl
  | aside _ hv ih => exact hv.2.trans ih
  | listened _ _ ih => rw [State.endListening_todo]; exact ih
  | _ => assumption

theorem State.settleBoundary_boundary (s : State) : s.settleBoundary.todo.boundary = false := by
  unfold State.settleBoundary
  split
  · rfl
  next hb => exact Bool.eq_false_of_not_eq_true hb

theorem State.finishFrame_boundary (s : State) : s.finishFrame.todo.boundary = false :=
  ((State.InFrame.refl s.settleBoundary).takeRest.buildRow.fillService.takeAll.aside ⟨rfl, rfl⟩).boundary_settled
    s.settleBoundary_boundary

/-! ## What a command does -/

/-- Chains of what a command can do: what happens in a frame, starts, the beginning of a frame, the end of the boot read, and
the changes of the waiting commands, the power and the pin. -/
inductive State.Goes : State → State → Prop
  | refl (s : State) : State.Goes s s
  | inFrame {s t v : State} {e : Prop} (h : State.Goes s t) (hv : t.InFrame e v) : State.Goes s v
  | outside {s t v : State} (h : State.Goes s t)
      (hv : { v with pending := t.pending, powerGood := t.powerGood, pinAsserted := t.pinAsserted } = t) : State.Goes s v
  | start {s t : State} (k : StartCause) : State.Goes s t → State.Goes s (t.start k)
  | missed {s t : State} (n : Nat) (hn : n ≤ 16) : State.Goes s t → State.Goes s { t with missCount := n }
  | begun {s t : State} (sw lg : Highway) (late : Bool) (between : List Work)
      (hb : t.stationState = .listening → t.todo.boundary = false) :
      State.Goes s t → State.Goes s (t.beginFrame sw lg late between)
  | loading {s t : State} (straps : BitVec 4) (hr : t.stationState = .reset) :
      State.Goes s t → State.Goes s (t.beginLoading straps)
  | bad {s t : State} (f : ConfigFault) (hl : t.stationState = .loading) : State.Goes s t → State.Goes s (t.configBad f)
  | good {s t : State} (m : List Byte) (hl : t.stationState = .loading) : State.Goes s t → State.Goes s (t.configGood m)

theorem State.Goes.trans {s t v : State} (h : s.Goes t) (g : t.Goes v) : s.Goes v := by
  induction g with
  | refl => exact h
  | inFrame _ hv ih => exact ih.inFrame hv
  | outside _ hv ih => exact ih.outside hv
  | start k _ ih => exact ih.start k
  | missed n hn _ ih => exact ih.missed n hn
  | begun sw lg late between hb _ ih => exact ih.begun sw lg late between hb
  | loading straps hr _ ih => exact ih.loading straps hr
  | bad f hl _ ih => exact ih.bad f hl
  | good m hl _ ih => exact ih.good m hl

theorem State.Goes.ite {q : Prop} [Decidable q] {w : State} (hv : s.Goes v) (hw : s.Goes w) : s.Goes (if q then v else w) := by
  split
  · exact hv
  · exact hw

theorem State.InFrame.goes (h : s.InFrame e v) : s.Goes v := (State.Goes.refl s).inFrame h

theorem State.Goes.passThrough (h : s.Goes v) (sw lg : Highway) : s.Goes (v.passThrough sw lg) :=
  h.inFrame ((State.InFrame.refl (e := False) v).trunk ((Trunk.Acts.refl _).mapCircuits _ fun _ _ => ⟨rfl, rfl, rfl, rfl, rfl⟩))

theorem State.Goes.openFrame (h : s.Goes v) (hb : v.stationState = .listening → v.todo.boundary = false) (sw lg : Highway)
    (o : FrameOrder) : s.Goes (v.openFrame sw lg o) :=
  (h.begun sw lg o.eventsLast o.between hb).inFrame
    (((State.InFrame.refl (e := False) _).onTrunk (Trunk.Acts.refl _).openSlots).earlyWorks o)

theorem State.Goes.markerInReset (h : s.Goes v) (hr : v.stationState = .reset) (sw lg : Highway) (straps : BitVec 4)
    (o : FrameOrder) : s.Goes (v.markerInReset sw lg straps o) := by
  refine .ite (h.passThrough sw lg) ((h.loading straps hr).openFrame (fun hl => absurd hl ?_) sw lg o)
  simp only [State.beginLoading]
  split <;> decide

/-- The closing of a frame leaves no boundary to count, or a station in RESET. -/
theorem State.Goes.closeFrame (h : s.Goes v) :
    s.Goes v.closeFrame ∧ (v.closeFrame.stationState = .listening → v.closeFrame.todo.boundary = false) := by
  unfold State.closeFrame
  dsimp only
  have h1 := h.inFrame (State.InFrame.refl v).finishFrame
  split
  · exact ⟨h.start .timing, nofun⟩
  · split
    · have h2 : (v.finishFrame.start .order).InFrame False { v.finishFrame.start .order with laneOut := v.finishFrame.laneOut } :=
        (State.InFrame.refl _).aside ⟨rfl, rfl⟩
      exact ⟨(h1.start .order).inFrame h2, nofun⟩
    · exact ⟨h1, fun _ => v.finishFrame_boundary⟩

theorem State.Goes.marker (h : s.Goes v) (sw lg : Highway) (straps : BitVec 4) (o : FrameOrder) :
    s.Goes (v.marker sw lg straps o) := by
  obtain ⟨h1, hb⟩ := h.closeFrame
  unfold State.marker
  dsimp only
  split
  next hr => exact h.markerInReset hr sw lg straps o
  · split
    next hr => exact h1.markerInReset hr sw lg straps o
    · exact State.Goes.openFrame (h1.missed 0 (by decide)) hb sw lg o

theorem State.Goes.missedMarker (h : s.Goes v) (sw lg : Highway) (o : FrameOrder) : s.Goes (v.missedMarker sw lg o) := by
  obtain ⟨h1, hb⟩ := h.closeFrame
  unfold State.missedMarker
  dsimp only
  split
  · exact h.passThrough sw lg
  · split
    · exact h1.passThrough sw lg
    · exact State.Goes.openFrame (h1.missed _ (countUp_le _ _)) hb sw lg o

theorem State.Goes.bootReadComplete (h : s.Goes v) (bs : List Byte) : s.Goes (v.bootReadComplete bs) := by
  unfold State.bootReadComplete
  split
  next hm =>
    have hl : v.stationState = .loading := by
      simp only [State.readMayEnd, Bool.and_eq_true, beq_iff_eq] at hm
      exact hm.1.1.1
    unfold State.endRead
    split
    · exact h.bad _ hl
    · exact h.good _ hl
  · exact h

theorem State.Goes.releasePin (h : s.Goes v) : s.Goes v.releasePin := by
  have h1 : s.Goes { v with pinAsserted := false } := h.outside rfl
  exact .ite (.ite (h1.start .pin) h1) h

/-- The commands that neither start the station nor begin a frame nor end the boot read. -/
def withinFrame : Instr → Bool
  | .powerOn | .resetPin | .frameMarker .. | .missedFrameMarker .. | .timingLoss | .bootReadComplete _ | .orderStart
  | .resetPinRelease => false
  | _ => true

/-- What a command within a frame does is a chain of what happens in one; LISTENING_END alone ends LISTENING. -/
theorem exec_inFrame (i : Instr) (s : State) (hi : withinFrame i = true) :
    ∃ t, exec i s = .next t ∧ s.InFrame (i = .listeningEnd) t := by
  have h {e : Prop} := State.InFrame.refl (e := e) s
  cases i with
  | powerOn => cases hi
  | resetPin => cases hi
  | frameMarker => cases hi
  | missedFrameMarker => cases hi
  | timingLoss => cases hi
  | bootReadComplete => cases hi
  | orderStart => cases hi
  | resetPinRelease => cases hi
  | listeningEnd => exact ⟨_, rfl, h.settleBoundary.listened rfl⟩
  | bearerCell l p => exact ⟨_, rfl, h.receivePlace l p⟩
  | beacon l p => exact ⟨_, rfl, h.receivePlace l p⟩
  | orderCell l p => exact ⟨_, rfl, h.receivePlace l p⟩
  | replyCell l p => exact ⟨_, rfl, h.receivePlace l p⟩
  | windowJudgement c => exact ⟨_, rfl, h.onTrunk ((Trunk.Acts.refl _).windowJudgement c)⟩
  | alignmentTimeout c => exact ⟨_, rfl, h.settleBoundary.onTrunk ((Trunk.Acts.refl _).alignmentTimeout c)⟩
  | bridgeIdleWatchdog c => exact ⟨_, rfl, h.settleBoundary.onTrunk ((Trunk.Acts.refl _).bridgeIdle c)⟩
  | streamLoss c => exact ⟨_, rfl, h.settleBoundary.onTrunk ((Trunk.Acts.refl _).streamLoss c)⟩
  | peerHoldExpiry c => exact ⟨_, rfl, h.settleBoundary.onTrunk ((Trunk.Acts.refl _).peerHoldExpiry c)⟩
  | holdExpiry c => exact ⟨_, rfl, h.settleBoundary.onTrunk ((Trunk.Acts.refl _).holdExpiry c)⟩
  | settleExpiry c => exact ⟨_, rfl, h.settleBoundary.onTrunk ((Trunk.Acts.refl _).settleExpiry c)⟩
  | guardEnd c => exact ⟨_, rfl, h.onTrunk ((Trunk.Acts.refl _).modify c _ (Circuit.sameStanding_guardEnd _))⟩
  | fillEnd c => exact ⟨_, rfl, h.onTrunk ((Trunk.Acts.refl _).modify c _ (Circuit.sameStanding_fillEnd _ _))⟩
  | peerLoss p => exact ⟨_, rfl, h.settleBoundary.losePeer p⟩
  | quietRunSplice c => exact ⟨_, rfl, h.quietRunSplice c⟩
  | quietRunReverseSplice c => exact ⟨_, rfl, h.quietRunReverseSplice c⟩
  | lastReleaseCell c => exact ⟨_, rfl, State.InFrame.ite h.buildRow h⟩
  | cut => exact ⟨_, rfl, h.takeAs .cut⟩
  | revert => exact ⟨_, rfl, h.takeAs .revert⟩
  | revertLast => exact ⟨_, rfl, h.takeAs .revertLast⟩
  | force => exact ⟨_, rfl, h.takeAs .force⟩
  | commit => exact ⟨_, rfl, h.takeAs .commit⟩
  | pause => exact ⟨_, rfl, h.takeAs .pause⟩
  | resume => exact ⟨_, rfl, h.takeAs .resume⟩
  | queryCircuit => exact ⟨_, rfl, h.takeAs .queryCircuit⟩
  | queryStation => exact ⟨_, rfl, h.takeAs .queryStation⟩
  | takeReports => exact ⟨_, rfl, h.takeAs .takeReports⟩
  | restart => exact ⟨_, rfl, h.takeAs .restart⟩

/-- What each command does is a chain of the station's doings. -/
theorem exec_goes (i : Instr) (s : State) : ∃ t, exec i s = .next t ∧ s.Goes t := by
  cases hi : withinFrame i with
  | true =>
    obtain ⟨t, ht, h⟩ := exec_inFrame i s hi
    exact ⟨t, ht, h.goes⟩
  | false =>
    cases i with
    | powerOn => exact ⟨_, rfl, ((State.Goes.refl s).outside (v := { s with powerGood := true }) rfl).start .power⟩
    | resetPin => exact ⟨_, rfl, ((State.Goes.refl s).outside (v := { s with pinAsserted := true }) rfl).start .pin⟩
    | frameMarker sw lg straps o => exact ⟨_, rfl, (State.Goes.refl s).marker sw lg straps o⟩
    | missedFrameMarker sw lg o => exact ⟨_, rfl, (State.Goes.refl s).missedMarker sw lg o⟩
    | timingLoss => exact ⟨_, rfl, .ite ((State.Goes.refl s).start .timing) (.refl s)⟩
    | bootReadComplete r => exact ⟨_, rfl, (State.Goes.refl s).bootReadComplete r⟩
    | orderStart => exact ⟨_, rfl, .ite (State.Goes.refl s).closeFrame.1 (.refl s)⟩
    | resetPinRelease => exact ⟨_, rfl, (State.Goes.refl s).releasePin⟩
    | _ => cases hi

theorem step_goes {s t : State} (h : step s = .next t) : s.Goes t := by
  unfold step at h
  split at h
  · obtain rfl := Host.Outcome.next.inj h
    exact (State.InFrame.refl (e := False) s).tick.goes
  next i rest _ =>
    obtain ⟨u, hu, hgoes⟩ := exec_goes i { s with pending := rest }
    obtain rfl := Host.Outcome.next.inj (hu.symm.trans h)
    exact ((State.Goes.refl s).outside (v := { s with pending := rest }) rfl).trans hgoes

end Sys2Proof.Machine
end

section
/-! SUPPORT. Every step keeps the stores in canonical form (R46, R55, R106, R123) and the queues, lists and counts within their
capacities. -/

namespace Sys2Proof.Machine

/-! ## The sample stores of a circuit -/

theorem wf_writeCell (code : Code) (bs : List Byte) : ∀ (p : Table PlayoutEntry) (s : Word),
    Table.wf PlayoutEntry.start p = true → Table.wf PlayoutEntry.start (writeCell code p s bs) = true := by
  induction bs with
  | nil => exact fun _ _ h => h
  | cons b bs ih => exact fun p s h => ih _ _ (Table.wf_write _ _ _ _ h)

/-- An update of a record that leaves its copper history and its playout buffer. -/
theorem Circuit.storesCanonical.of_same {r r' : Circuit} (h : r.storesCanonical) (hh : r'.history = r.history)
    (hp : r'.playout = r.playout) : r'.storesCanonical := by
  unfold Circuit.storesCanonical
  rw [hh, hp]
  exact h

theorem Circuit.storesCanonical.ite {q : Prop} [Decidable q] {u v : Circuit} (hu : u.storesCanonical) (hv : v.storesCanonical) :
    (if q then u else v).storesCanonical := by
  split
  · exact hu
  · exact hv

theorem Circuit.storesCanonical.write {r : Circuit} (h : r.storesCanonical) (cell : BearerCell) :
    (r.write cell).storesCanonical := ⟨h.1, wf_writeCell _ _ _ _ h.2⟩

theorem Circuit.storesCanonical.toBridging {r : Circuit} (h : r.storesCanonical) (p : Params) :
    (r.toBridging p).storesCanonical := ⟨h.1, Table.wf_mapEntries _ (fun e : PlayoutEntry => { e with tag := none }) _ h.2⟩

theorem Circuit.storesCanonical.writeJudged {r : Circuit} (h : r.storesCanonical) (off : Word) (cell : BearerCell) :
    (r.writeJudged off cell).storesCanonical := .ite h (.ite (h.write cell) (h.write cell))

theorem Circuit.storesCanonical.search {r : Circuit} (h : r.storesCanonical) (st : Settings) (s : Word) :
    (r.search st s).storesCanonical := by
  unfold Circuit.search
  split
  · exact h
  · refine .ite ?_ h
    unfold Circuit.narrow
    split
    · exact h
    · split <;> exact h

theorem Circuit.storesCanonical.takeObase {r : Circuit} (h : r.storesCanonical) (off : Word) :
    (r.takeObase off).storesCanonical := by
  unfold Circuit.takeObase
  split
  · exact h
  · exact .ite h h

theorem Circuit.storesCanonical.takeWindow {r : Circuit} (h : r.storesCanonical) (a s : Word) :
    (r.takeWindow a s).storesCanonical := by
  unfold Circuit.takeWindow
  split
  · exact h
  · exact .ite h h

theorem Circuit.storesCanonical.guardEnd {r : Circuit} (h : r.storesCanonical) : r.guardEnd.storesCanonical := by
  unfold Circuit.guardEnd
  split
  · exact .ite h h
  · exact h

theorem Circuit.storesCanonical.fillEnd {r : Circuit} (h : r.storesCanonical) (f : Word) : (r.fillEnd f).storesCanonical := by
  unfold Circuit.fillEnd
  split
  · exact .ite h h
  · exact h

theorem Circuit.storesCanonical.openSlot {r : Circuit} (h : r.storesCanonical) (x : Ctx) (c : Nat) :
    (r.openSlot x c).storesCanonical := by
  have e : (r.startGuard x).storesCanonical := .ite h h
  exact ⟨Table.wf_write _ _ _ _ e.1, e.2⟩

theorem Circuit.storesCanonical.giveOnce {r : Circuit} (h : r.storesCanonical) (x : Ctx) (c : Nat) :
    (r.giveOnce x c).storesCanonical := .ite h ((h.guardEnd.fillEnd x.frame).of_same rfl rfl)

theorem Circuit.storesCanonical_rule (x : Ctx) : Circuit.Rule x (fun _ r => r.storesCanonical) where
  reported _ _ _ h := h
  joined _ _ _ _ _ h := h
  left _ _ h := h
  spliced _ _ _ _ _ _ _ _ h := h
  splicedBlind _ _ _ _ h := h
  released _ _ _ _ h := h
  committed _ _ h := h
  waiting _ _ _ _ h := h
  excess _ _ h := h
  aligned _ _ h := h
  deficit _ _ _ _ h := h
  queued _ _ h := h
  bridged _ _ h := h.toBridging _
  coppered _ _ h := h
  reversed _ _ _ _ h := h
  rebridged _ r fl h := Circuit.storesCanonical.toBridging (r := r.markReverse .urgent fl) h _
  held _ _ h := h
  downed _ _ h := h
  returned _ _ h := h
  phase _ _ _ h := h
  found _ _ _ h := h
  verifyCleared _ _ h := h
  realigning _ _ h := h
  offsetLost _ _ h := h
  judged _ _ _ h := h
  searched _ _ s h := h.search _ s
  verified _ _ _ _ h := .ite (.ite h h) h
  reverting _ _ h := h
  deferred _ _ h := h
  returnedToCopper _ _ h := h
  guardEnded _ _ h := h.guardEnd
  fillEnded _ _ h := h.fillEnd _
  counted _ _ h := h
  idleCounted _ _ _ _ h := .ite (.ite h (.ite h h)) h
  opened c _ h := h.openSlot x c
  given c _ h := h.giveOnce x c
  passed _ _ _ _ h := h
  received _ _ _ h := h
  pushed _ _ _ h := h
  written _ _ cell h := h.write cell
  writtenJudged _ _ off cell h := h.writeJudged off cell
  obase _ _ off h := h.takeObase off
  window _ _ s h := h.takeWindow _ s
  releaseSent _ _ _ _ h := h

theorem Circuit.storesCanonical_invariant : CircuitInvariant (fun _ => True) (fun _ r => r.storesCanonical) where
  rule x _ := Circuit.storesCanonical_rule x
  start _ := ⟨rfl, rfl⟩
  settings := trivial
  boot _ := trivial
  bound _ _ b _ h := by cases b <;> exact h

/-! ## The station's tables -/

/-- The tables of the station are in canonical form. -/
structure State.TablesWf (s : State) : Prop where
  trunk : s.trunk.tablesWf
  peers : Table.wf PeerEntry.start s.peers = true

variable {s t : State} {e : Prop}

theorem State.InFrame.tablesWf (h : s.InFrame e t) (hs : s.TablesWf) : t.TablesWf := by
  induction h with
  | refl => exact hs
  | trunk hu _ ih => exact ⟨hu.moves.tablesWf ih.trunk, ih.peers⟩
  | boundary _ _ ih => exact ⟨(Trunk.Moves.refl _).countBoundary.tablesWf ih.trunk, Table.wf_build _ _ _⟩
  | @aside t v _ hv ih =>
    have e : v.trunk = t.trunk := (congrArg State.trunk hv.1 :)
    have p : v.peers = t.peers := (congrArg State.peers hv.1 :)
    exact ⟨e ▸ ih.trunk, p ▸ ih.peers⟩
  | replies _ _ _ ih => exact ⟨ih.trunk, ih.peers⟩
  | orders _ _ _ ih => exact ⟨ih.trunk, ih.peers⟩
  | overflow _ ih => exact ⟨ih.trunk, ih.peers⟩
  | listened _ _ ih => exact ⟨by rw [State.endListening_trunk]; exact ih.trunk, by rw [State.endListening_peers]; exact ih.peers⟩
  | peer p e _ _ ih => exact ⟨ih.trunk, Table.wf_write _ _ _ _ ih.peers⟩
  | matched p _ ih => exact ⟨ih.trunk, ih.peers⟩

theorem State.Goes.tablesWf (h : s.Goes t) (hs : s.TablesWf) : t.TablesWf := by
  induction h with
  | refl => exact hs
  | inFrame _ hv ih => exact hv.tablesWf ih
  | @outside t v _ hv ih =>
    have e : v.trunk = t.trunk := (congrArg State.trunk hv :)
    have p : v.peers = t.peers := (congrArg State.peers hv :)
    exact ⟨e ▸ ih.trunk, p ▸ ih.peers⟩
  | start k _ _ => exact ⟨⟨rfl, rfl⟩, rfl⟩
  | missed _ _ _ ih => exact ⟨ih.trunk, ih.peers⟩
  | begun _ _ _ _ _ _ ih => exact ⟨ih.trunk, ih.peers⟩
  | loading _ _ _ ih => exact ⟨ih.trunk, ih.peers⟩
  | bad _ _ _ ih => exact ⟨ih.trunk, ih.peers⟩
  | good m _ _ ih => exact ⟨((Trunk.Moves.refl _).mapCircuits _).tablesWf ih.trunk, ih.peers⟩

/-- Settles O57: the two tables of the trunk and the peer table by the chain of writes a step is, the sample stores as a
property that every change of a circuit record keeps. -/
theorem stepKeepsStoresCanonical : Obligations.StepKeepsStoresCanonical := by
  rintro s t ⟨hcircuits, hcalendar, hpeers, hstores⟩ hstep
  have tables := (step_goes hstep).tablesWf ⟨⟨hcircuits, hcalendar⟩, hpeers⟩
  exact ⟨tables.trunk.1, tables.trunk.2, tables.peers,
    (step_keeps_circuits Circuit.storesCanonical_invariant s t ⟨trivial, hstores⟩ hstep).2⟩

/-! ## The capacities of the station -/

/-- `State.withinCapacity`, with the trunk's part and the peer entries' part by name. -/
structure State.Capacities (s : State) : Prop where
  orders : s.orderQueue.length ≤ 4
  overflow : s.orderOverflow ≤ 255
  replies : s.replyQueue.length ≤ 8
  trunk : s.trunk.Capacities
  windows : s.windows.length = 8
  misses : s.missCount ≤ 16
  cycles : s.cycleCount < 281474976710656
  peers : ∀ p, (s.peer p).Bounded

theorem State.withinCapacity_iff (s : State) : s.withinCapacity ↔ s.Capacities := by
  constructor
  · rintro ⟨ho, hov, hr, hrep, hrov, hf, hrow, hw, hm, hcy, hp⟩
    exact ⟨ho, hov, hr, ⟨hrep, hrov, hf, hrow⟩, hw, hm, hcy, fun p => ⟨(hp p).1, (hp p).2.1, (hp p).2.2⟩⟩
  · rintro ⟨ho, hov, hr, ⟨hrep, hrov, hf, hrow⟩, hw, hm, hcy, hp⟩
    exact ⟨ho, hov, hr, hrep, hrov, hf, hrow, hw, hm, hcy, fun p => ⟨(hp p).miss, (hp p).unbound, (hp p).headerErrors⟩⟩

theorem PeerEntry.Bounded.start : PeerEntry.start.Bounded := ⟨by decide, by decide, by decide⟩

theorem PeerEntry.Bounded.countBoundary {e : PeerEntry} (h : e.Bounded) : e.countBoundary.Bounded := by
  unfold PeerEntry.countBoundary
  split
  · split
    · exact { h with }
    · exact { h with miss := countUp_le _ _ }
  · exact h

theorem State.countBoundary_peer (s : State) (p : Nat) :
    s.countBoundary.peer p = if p < 15 then (s.peer p).countBoundary else PeerEntry.start :=
  Table.read_build _ _ _ _

theorem State.InFrame.capacities (h : s.InFrame e t) (hs : s.Capacities) : t.Capacities := by
  induction h with
  | refl => exact hs
  | trunk hu _ ih => exact { ih with trunk := hu.moves.capacities ih.trunk }
  | boundary _ _ ih =>
    refine { ih with trunk := (Trunk.Moves.refl _).countBoundary.capacities ih.trunk, peers := fun p => ?_ }
    rw [State.countBoundary_peer]
    split
    · exact (ih.peers p).countBoundary
    · exact .start
  | @aside t v _ hv ih =>
    obtain ⟨ho, hov, hr, ht, hw, hm, hcy, hp⟩ := ih
    rw [← hv.1] at ho hov hr ht hw hm hcy hp
    exact ⟨ho, hov, hr, ht, hw, hm, hcy, hp⟩
  | replies rs hr _ ih => exact { ih with replies := hr.elim id fun hr => Nat.le_trans hr ih.replies }
  | orders os ho _ ih => exact { ih with orders := ho.elim id fun ho => Nat.le_trans ho ih.orders }
  | overflow _ ih => exact { ih with overflow := countUp_le _ _ }
  | @listened t _ _ ih =>
    unfold State.endListening
    split
    · exact { ih with }
    · exact ih
  | peer p e he _ ih =>
    refine { ih with peers := fun q => ?_ }
    rw [State.peer_setPeer]
    split
    · exact he (ih.peers p)
    · exact ih.peers q
  | matched p _ ih => exact { ih with windows := (List.length_map _).trans ih.windows }

theorem State.Goes.capacities (h : s.Goes t) (hs : s.Capacities) : t.Capacities := by
  induction h with
  | refl => exact hs
  | inFrame _ hv ih => exact hv.capacities ih
  | @outside t v _ hv ih =>
    obtain ⟨ho, hov, hr, ht, hw, hm, hcy, hp⟩ := ih
    rw [← hv] at ho hov hr ht hw hm hcy hp
    exact ⟨ho, hov, hr, ht, hw, hm, hcy, hp⟩
  | start k _ _ =>
    exact ⟨Nat.zero_le _, Nat.zero_le _, Nat.zero_le _, ⟨show 1 ≤ 64 by decide, Nat.zero_le _, Nat.zero_le _, fun _ => Nat.zero_le _⟩, rfl,
      Nat.zero_le _, show 0 < 281474976710656 by decide, fun _ => .start⟩
  | missed n hn _ ih => exact { ih with misses := hn }
  | begun sw lg late between _ _ ih =>
    refine { ih with cycles := ?_ }
    have := ih.cycles
    simp only [State.beginFrame, nextCycles]
    split
    · split
      · exact Nat.lt_of_le_of_lt (countUp_le _ _) (by decide)
      · exact this
    · exact this
  | loading _ _ _ ih => exact { ih with }
  | bad _ _ _ ih => exact { ih with }
  | good m _ _ ih =>
    exact { ih with trunk := ((Trunk.Moves.refl _).mapCircuits _).capacities ih.trunk, windows := bootWindows_length _ _ }

theorem step_keeps_withinCapacity (h : s.withinCapacity) (hstep : step s = .next t) : t.withinCapacity := by
  rw [State.withinCapacity_iff] at h ⊢
  exact (step_goes hstep).capacities h

end Sys2Proof.Machine
end

section
/-! SUPPORT. The queue, the fallback list and the calendar against the circuit states (R5, R6, R93, R99, R106): what each operation
on the trunk does to the places of the circuit it is about, and that it leaves those of the others. -/

namespace Sys2Proof.Machine

/-! ## The places of a circuit -/

/-- The records of the list: whose each is, and whether it is LIVE. -/
def Trunk.shape (t : Trunk) : List (Nat × Bool) := t.fallback.map fun f => (f.circuit, f.live.isSome)

/-- The state of a record, its release cells and its row are the same: all that its places depend on. -/
structure Circuit.SamePlace (r r' : Circuit) : Prop where
  state : r'.state = r.state
  releaseCells : r'.releaseCells = r.releaseCells
  calendarRow : r'.calendarRow = r.calendarRow

theorem Circuit.SameStanding.place {r r' : Circuit} (h : r.SameStanding r') : r.SamePlace r' :=
  ⟨h.state, h.releaseCells, h.calendarRow⟩

@[refl] theorem Circuit.SamePlace.refl (r : Circuit) : r.SamePlace r := ⟨rfl, rfl, rfl⟩

theorem Circuit.SamePlace.trans {r r' r'' : Circuit} (h : r.SamePlace r') (g : r'.SamePlace r'') : r.SamePlace r'' :=
  ⟨g.state.trans h.state, g.releaseCells.trans h.releaseCells, g.calendarRow.trans h.calendarRow⟩

theorem Circuit.SamePlace.needsPlace {r r' : Circuit} (h : r.SamePlace r') : r'.needsPlace ↔ r.needsPlace := by
  unfold Circuit.needsPlace
  rw [h.state, h.releaseCells]

/-- Circuit `d` has the same places and the same place in its record. -/
structure Trunk.SameFor (d : Nat) (t u : Trunk) : Prop where
  circuit : (t.circuit d).SamePlace (u.circuit d)
  queue : d ∈ u.waitQueue ↔ d ∈ t.waitQueue
  record : ∀ b, (d, b) ∈ u.shape ↔ (d, b) ∈ t.shape
  row : ∀ k, d ∈ u.row k ↔ d ∈ t.row k

theorem Trunk.SameFor.trans {d : Nat} {t u v : Trunk} (h : t.SameFor d u) (g : u.SameFor d v) : t.SameFor d v :=
  ⟨h.circuit.trans g.circuit, g.queue.trans h.queue, fun b => (g.record b).trans (h.record b), fun k => (g.row k).trans (h.row k)⟩

/-- The queue, the list and the rows hold a circuit at most once, and the list at most 8 records. -/
structure Trunk.Lists (t : Trunk) : Prop where
  room : t.shape.length ≤ 8
  queue : t.waitQueue.Nodup
  records : (t.shape.map Prod.fst).Nodup
  rows : ∀ k, (t.row k).Nodup

/-- The places of circuit `c` are those its state asks for. -/
structure Trunk.AgreesAt (t : Trunk) (c : Nat) : Prop where
  queue : c ∈ t.waitQueue ↔ (t.circuit c).state = .splicePending
  pending : (c, false) ∈ t.shape ↔ (t.circuit c).state = .spliceWait
  live : (c, true) ∈ t.shape ↔ (t.circuit c).state = .spliced ∨ (t.circuit c).state = .revertWait
  row : ∀ k, c ∈ t.row k ↔ (t.circuit c).calendarRow = some k
  place : (t.circuit c).calendarRow ≠ none ↔ (t.circuit c).needsPlace
  release : 0 < (t.circuit c).releaseCells → (t.circuit c).state = .copper

/-- The lists and the calendar agree with the states. -/
structure Trunk.Agrees (t : Trunk) : Prop where
  lists : t.Lists
  at_ : ∀ c, t.AgreesAt c

theorem Trunk.mem_shape_pending (t : Trunk) (c : Nat) :
    (c, false) ∈ t.shape ↔ ∃ f ∈ t.fallback, f.circuit = c ∧ f.live = none := by
  simp [Trunk.shape]

theorem Trunk.mem_shape_live (t : Trunk) (c : Nat) :
    (c, true) ∈ t.shape ↔ ∃ f ∈ t.fallback, f.circuit = c ∧ f.live ≠ none := by
  simp [Trunk.shape, Option.isSome_iff_ne_none]

theorem Trunk.shape_circuits (t : Trunk) : t.shape.map Prod.fst = t.fallback.map FallbackRecord.circuit := by
  simp [Trunk.shape, Function.comp_def]

theorem Trunk.agrees_iff (t : Trunk) : t.holdingsAgree ∧ t.calendarAgrees ↔ t.Agrees := by
  constructor
  · rintro ⟨⟨hroom, hq, hmem, hrec, hpend, hlive⟩, hrows, hrow, hplace, hrel⟩
    refine ⟨⟨(List.length_map _).trans_le hroom, hq, by rw [Trunk.shape_circuits]; exact hrec, hrows⟩, fun c => ?_⟩
    exact ⟨hmem c, by rw [Trunk.mem_shape_pending]; exact hpend c, by rw [Trunk.mem_shape_live]; exact hlive c,
      fun k => hrow k c, hplace c, hrel c⟩
  · rintro ⟨⟨hroom, hq, hrec, hrows⟩, hat⟩
    refine ⟨⟨(List.length_map _).symm.trans_le hroom, hq, fun c => (hat c).queue, by rw [← Trunk.shape_circuits]; exact hrec,
      fun c => ?_, fun c => ?_⟩, hrows, fun k c => (hat c).row k, fun c => (hat c).place, fun c => (hat c).release⟩
    · rw [← Trunk.mem_shape_pending]; exact (hat c).pending
    · rw [← Trunk.mem_shape_live]; exact (hat c).live

theorem Trunk.AgreesAt.of_sameFor {t u : Trunk} {c : Nat} (h : t.AgreesAt c) (e : t.SameFor c u) : u.AgreesAt c where
  queue := by rw [e.queue, e.circuit.state]; exact h.queue
  pending := by rw [e.record, e.circuit.state]; exact h.pending
  live := by rw [e.record, e.circuit.state]; exact h.live
  row k := by rw [e.row, e.circuit.calendarRow]; exact h.row k
  place := by rw [e.circuit.calendarRow, e.circuit.needsPlace]; exact h.place
  release := by rw [e.circuit.releaseCells, e.circuit.state]; exact h.release

/-! ## Changes that touch no place, and changes that touch one circuit's places -/

/-- No place has changed. -/
structure Trunk.SamePlaces (t u : Trunk) : Prop where
  circuit : ∀ d, (t.circuit d).SamePlace (u.circuit d)
  queue : u.waitQueue = t.waitQueue
  shape : u.shape = t.shape
  row : ∀ k, u.row k = t.row k

@[refl] theorem Trunk.SamePlaces.refl (t : Trunk) : t.SamePlaces t := ⟨fun _ => .refl _, rfl, rfl, fun _ => rfl⟩

theorem Trunk.SamePlaces.trans {t u v : Trunk} (h : t.SamePlaces u) (g : u.SamePlaces v) : t.SamePlaces v :=
  ⟨fun d => (h.circuit d).trans (g.circuit d), g.queue.trans h.queue, g.shape.trans h.shape,
    fun k => (g.row k).trans (h.row k)⟩

theorem Trunk.SamePlaces.ite {q : Prop} [Decidable q] {t u v : Trunk} (hu : t.SamePlaces u) (hv : t.SamePlaces v) :
    t.SamePlaces (if q then u else v) := by
  split
  · exact hu
  · exact hv

theorem Trunk.SamePlaces.sameFor {t u : Trunk} (h : t.SamePlaces u) (d : Nat) : t.SameFor d u :=
  ⟨h.circuit d, by rw [h.queue], fun b => by rw [h.shape], fun k => by rw [h.row]⟩

theorem Trunk.SamePlaces.lists {t u : Trunk} (h : t.SamePlaces u) (ht : t.Lists) : u.Lists :=
  ⟨h.shape ▸ ht.room, h.queue ▸ ht.queue, h.shape ▸ ht.records, fun k => h.row k ▸ ht.rows k⟩

/-- Only the places of circuit `c` have changed, and each list still holds a circuit once. -/
structure Trunk.Touches (c : Nat) (t u : Trunk) : Prop where
  others : ∀ d, d ≠ c → t.SameFor d u
  lists : t.Lists → u.Lists

theorem Trunk.Touches.trans {c : Nat} {t u v : Trunk} (h : t.Touches c u) (g : u.Touches c v) : t.Touches c v :=
  ⟨fun d hd => (h.others d hd).trans (g.others d hd), fun ht => g.lists (h.lists ht)⟩

theorem Trunk.SamePlaces.touches {t u : Trunk} (h : t.SamePlaces u) (c : Nat) : t.Touches c u :=
  ⟨fun d _ => h.sameFor d, h.lists⟩

theorem Trunk.Agrees.of_samePlaces {t u : Trunk} (h : t.Agrees) (e : t.SamePlaces u) : u.Agrees :=
  ⟨e.lists h.lists, fun c => (h.at_ c).of_sameFor (e.sameFor c)⟩

theorem Trunk.Agrees.of_touches {t u : Trunk} {c : Nat} (h : t.Agrees) (e : t.Touches c u) (hc : u.AgreesAt c) : u.Agrees := by
  refine ⟨e.lists h.lists, fun d => ?_⟩
  by_cases hd : d = c
  · exact hd ▸ hc
  · exact (h.at_ d).of_sameFor (e.others d hd)

theorem Trunk.samePlaces_modify {t : Trunk} {c : Nat} {f : Circuit → Circuit} (hf : (t.circuit c).SamePlace (f (t.circuit c))) :
    t.SamePlaces (t.modify c f) := by
  refine ⟨fun d => ?_, rfl, rfl, fun _ => rfl⟩
  rw [Trunk.circuit_modify]
  split
  next hd => rw [hd.1]; exact hf
  · rfl

theorem Trunk.samePlaces_mapCircuits {t : Trunk} {f : Nat → Circuit → Circuit}
    (hf : ∀ c, (t.circuit c).SamePlace (f c (t.circuit c))) : t.SamePlaces (t.mapCircuits f) := by
  refine ⟨fun d => ?_, rfl, rfl, fun _ => rfl⟩
  rw [Trunk.circuit_mapCircuits]
  split
  · exact hf d
  next hd => rw [Trunk.circuit_past t hd]

theorem Trunk.samePlaces_enterReport (t : Trunk) (rep : Report) : t.SamePlaces (t.enterReport rep) := by
  unfold Trunk.enterReport
  exact .ite ⟨fun _ => .refl _, rfl, rfl, fun _ => rfl⟩ ⟨fun _ => .refl _, rfl, rfl, fun _ => rfl⟩

theorem Trunk.samePlaces_report (t : Trunk) (x : Ctx) (c : Nat) (k : ReportKind) (v : Option ReportVariant) (d : Option Nat)
    (fl : SpliceFlags) : t.SamePlaces (t.report x c k v d fl) := by
  unfold Trunk.report
  split
  · rfl
  · exact .ite (.refl t) (.ite ((t.samePlaces_enterReport _).trans (Trunk.samePlaces_modify ⟨rfl, rfl, rfl⟩))
      (t.samePlaces_enterReport _))

theorem Trunk.samePlaces_reportPlain (t : Trunk) (x : Ctx) (c : Nat) (k : ReportKind) : t.SamePlaces (t.reportPlain x c k) :=
  t.samePlaces_report x c k none none .clear

/-- Every record of the list changed, with its circuit and its being LIVE kept. -/
theorem Trunk.samePlaces_mapRecords (t : Trunk) {f : FallbackRecord → FallbackRecord}
    (hf : ∀ r, (f r).circuit = r.circuit ∧ (f r).live.isSome = r.live.isSome) :
    t.SamePlaces { t with fallback := t.fallback.map f } := by
  refine ⟨fun _ => .refl _, rfl, ?_, fun _ => rfl⟩
  simp only [Trunk.shape, List.map_map]
  refine List.map_congr_left fun r _ => ?_
  simp only [Function.comp_apply]
  rw [(hf r).1, (hf r).2]

theorem Trunk.touches_modify (t : Trunk) (c : Nat) (f : Circuit → Circuit) : t.Touches c (t.modify c f) := by
  refine ⟨fun d hd => ⟨?_, .rfl, fun _ => .rfl, fun _ => .rfl⟩, fun ht => ⟨ht.room, ht.queue, ht.records, ht.rows⟩⟩
  rw [Trunk.circuit_modify_ne t f hd]

theorem Trunk.shape_removeRecord (t : Trunk) (c : Nat) :
    (t.removeRecord c).shape = t.shape.filter (fun e => !decide (e.1 = c)) := by
  simp only [Trunk.shape, Trunk.removeRecord, List.filter_map]
  rfl

theorem Trunk.mem_shape_removeRecord (t : Trunk) (c d : Nat) (b : Bool) :
    (d, b) ∈ (t.removeRecord c).shape ↔ (d, b) ∈ t.shape ∧ d ≠ c := by
  simp [Trunk.shape_removeRecord]

theorem Trunk.touches_removeRecord (t : Trunk) (c : Nat) : t.Touches c (t.removeRecord c) := by
  refine ⟨fun d hd => ⟨.refl _, .rfl, fun b => ?_, fun _ => .rfl⟩, fun ht => ⟨?_, ht.queue, ?_, ht.rows⟩⟩
  · simp [Trunk.mem_shape_removeRecord, hd]
  · rw [Trunk.shape_removeRecord]
    exact Nat.le_trans (List.length_filter_le _ _) ht.room
  · rw [Trunk.shape_removeRecord]
    exact ht.records.sublist (List.filter_sublist.map _)

theorem Trunk.mem_leaveQueue (t : Trunk) (c d : Nat) : d ∈ (t.leaveQueue c).waitQueue ↔ d ∈ t.waitQueue ∧ d ≠ c := by
  simp [Trunk.leaveQueue]

theorem Trunk.touches_leaveQueue (t : Trunk) (c : Nat) : t.Touches c (t.leaveQueue c) := by
  refine ⟨fun d hd => ⟨.refl _, ?_, fun _ => .rfl, fun _ => .rfl⟩, fun ht => ⟨ht.room, ht.queue.filter _, ht.records, ht.rows⟩⟩
  simp [Trunk.mem_leaveQueue, hd]

theorem Trunk.hasRoom_iff (t : Trunk) : t.hasRoom = true ↔ t.shape.length < 8 := by
  simp [Trunk.hasRoom, Trunk.shape]

theorem Trunk.shape_appendRecord {t : Trunk} (f : FallbackRecord) (hroom : t.hasRoom = true) :
    (t.appendRecord f).shape = t.shape ++ [(f.circuit, f.live.isSome)] := by
  unfold Trunk.appendRecord
  rw [if_pos hroom]
  simp [Trunk.shape]

theorem Trunk.appendRecord_row (t : Trunk) (f : FallbackRecord) (k : Nat) : (t.appendRecord f).row k = t.row k := by
  unfold Trunk.appendRecord
  split <;> rfl

/-- A circuit without a record has one appended. -/
theorem Trunk.touches_appendRecord {t : Trunk} (f : FallbackRecord) (hroom : t.hasRoom = true)
    (hnew : ∀ b, (f.circuit, b) ∉ t.shape) : t.Touches f.circuit (t.appendRecord f) := by
  refine ⟨fun d hd => ⟨by rw [Trunk.circuit_appendRecord], by rw [Trunk.appendRecord_waitQueue], fun b => ?_, fun k => ?_⟩,
    fun ht => ⟨?_, by rw [Trunk.appendRecord_waitQueue]; exact ht.queue, ?_, fun k => ?_⟩⟩
  · rw [Trunk.shape_appendRecord f hroom]
    simp [hd]
  · rw [Trunk.appendRecord_row]
  · rw [Trunk.shape_appendRecord f hroom, List.length_append]
    exact t.hasRoom_iff.mp hroom
  · rw [Trunk.shape_appendRecord f hroom, List.map_append, List.nodup_append]
    refine ⟨ht.records, List.nodup_singleton _, ?_⟩
    intro a ha b hb
    obtain ⟨⟨a', b'⟩, hmem, rfl⟩ := List.mem_map.mp ha
    obtain rfl := List.mem_singleton.mp hb
    rintro rfl
    exact hnew b' hmem
  · rw [Trunk.appendRecord_row]
    exact ht.rows k

theorem Trunk.touches_queueUp {t : Trunk} {c : Nat} (hnew : c ∉ t.waitQueue) : t.Touches c (t.queueUp c) := by
  refine ⟨fun d hd => ⟨.refl _, ?_, fun _ => .rfl, fun _ => .rfl⟩, fun ht => ⟨ht.room, ?_, ht.records, ht.rows⟩⟩
  · simp [Trunk.queueUp, hd]
  · exact List.nodup_append.mpr ⟨ht.queue, List.nodup_singleton _, fun a ha b hb => by
      obtain rfl := List.mem_singleton.mp hb
      rintro rfl
      exact hnew ha⟩

/-- The head of the queue leaves it. -/
theorem Trunk.touches_popQueue {t : Trunk} {c : Nat} {rest : List Nat} (hq : t.waitQueue = c :: rest) :
    t.Touches c { t with waitQueue := rest } := by
  refine ⟨fun d hd => ⟨.refl _, ?_, fun _ => .rfl, fun _ => .rfl⟩, fun ht => ⟨ht.room, ?_, ht.records, ht.rows⟩⟩
  · rw [hq]
    simp [hd]
  · have := ht.queue
    rw [hq] at this
    exact (List.nodup_cons.mp this).2

/-- The record of the circuit becomes LIVE in its place. -/
theorem Trunk.shape_recordLive_of_record (x : Ctx) {t : Trunk} {c : Nat} (h : ∃ b, (c, b) ∈ t.shape) :
    (t.recordLive x c).shape = t.shape.map fun e => if e.1 = c then (c, true) else e := by
  have hsome : ∃ f, t.recordOf c = some f := by
    obtain ⟨b, hb⟩ := h
    obtain ⟨f, hf, he⟩ := List.mem_map.mp hb
    have hfc : f.circuit = c := (Prod.mk.inj he).1
    refine Option.isSome_iff_exists.mp ?_
    rw [Trunk.recordOf, List.find?_isSome]
    exact ⟨f, hf, by simp [hfc]⟩
  obtain ⟨f, hf⟩ := hsome
  unfold Trunk.recordLive
  rw [hf]
  simp only [Trunk.shape, List.map_map]
  refine List.map_congr_left fun r _ => ?_
  simp only [Function.comp_apply]
  split
  next hr => rw [hr]; rfl
  · rfl

theorem Trunk.recordOf_none {t : Trunk} {c : Nat} (h : ∀ b, (c, b) ∉ t.shape) : t.recordOf c = none := by
  rw [Trunk.recordOf, List.find?_eq_none]
  intro f hf
  have := h f.live.isSome
  rw [Trunk.shape, List.mem_map] at this
  simp only [decide_eq_true_eq]
  rintro rfl
  exact this ⟨f, hf, rfl⟩

theorem Trunk.recordLive_of_none (x : Ctx) {t : Trunk} {c : Nat} (h : ∀ b, (c, b) ∉ t.shape) :
    t.recordLive x c = t.appendRecord ⟨c, some (LiveFields.now x)⟩ := by
  unfold Trunk.recordLive
  rw [Trunk.recordOf_none h]

theorem Trunk.touches_recordLive_of_record (x : Ctx) {t : Trunk} {c : Nat} (h : ∃ b, (c, b) ∈ t.shape) :
    t.Touches c (t.recordLive x c) := by
  have hrow : ∀ k, (t.recordLive x c).row k = t.row k := fun k => by rw [Trunk.row, Trunk.recordLive_calendar]; rfl
  refine ⟨fun d hd => ⟨by rw [Trunk.circuit_recordLive], by rw [Trunk.recordLive_waitQueue], fun b => ?_, fun k => by rw [hrow]⟩,
    fun ht => ⟨?_, by rw [Trunk.recordLive_waitQueue]; exact ht.queue, ?_, fun k => by rw [hrow]; exact ht.rows k⟩⟩
  · rw [Trunk.shape_recordLive_of_record x h, List.mem_map]
    constructor
    · rintro ⟨e, he, heq⟩
      split at heq
      · exact absurd (Prod.mk.inj heq).1.symm hd
      · exact heq ▸ he
    · exact fun hb => ⟨(d, b), hb, if_neg hd⟩
  · rw [Trunk.shape_recordLive_of_record x h, List.length_map]
    exact ht.room
  · rw [Trunk.shape_recordLive_of_record x h, List.map_map]
    have : (Prod.fst ∘ fun e : Nat × Bool => if e.1 = c then (c, true) else e) = Prod.fst := by
      funext e
      simp only [Function.comp_apply]
      split
      next he => exact he.symm
      · rfl
    rw [this]
    exact ht.records

/-! ## A circuit that stands loose -/

/-- The places of every circuit but `c` agree with its state; `c` holds a calendar place and neither a queue place nor a
record, and has no release cells to send. -/
structure Trunk.Loose (c : Nat) (t : Trunk) : Prop where
  lists : t.Lists
  others : ∀ d, d ≠ c → t.AgreesAt d
  queue : c ∉ t.waitQueue
  record : ∀ b, (c, b) ∉ t.shape
  row : ∀ k, c ∈ t.row k ↔ (t.circuit c).calendarRow = some k
  place : (t.circuit c).calendarRow ≠ none
  release : (t.circuit c).releaseCells = 0

variable {t u : Trunk} {c : Nat}

theorem Trunk.Loose.of_samePlaces (h : t.Loose c) (e : t.SamePlaces u) : u.Loose c where
  lists := e.lists h.lists
  others d hd := (h.others d hd).of_sameFor (e.sameFor d)
  queue := by rw [e.queue]; exact h.queue
  record := by rw [e.shape]; exact h.record
  row k := by rw [e.row, (e.circuit c).calendarRow]; exact h.row k
  place := by rw [(e.circuit c).calendarRow]; exact h.place
  release := by rw [(e.circuit c).releaseCells]; exact h.release

theorem Trunk.Loose.of_touches (h : t.Loose c) (e : t.Touches c u) (hc : u.AgreesAt c) : u.Agrees := by
  refine ⟨e.lists h.lists, fun d => ?_⟩
  by_cases hd : d = c
  · exact hd ▸ hc
  · exact (h.others d hd).of_sameFor (e.others d hd)

/-- Another circuit's change leaves `c` loose. -/
theorem Trunk.Loose.of_touches_other {v : Nat} (h : t.Loose c) (e : t.Touches v u) (hv : u.AgreesAt v) (hne : c ≠ v) : u.Loose c where
  lists := e.lists h.lists
  others d hd := by
    by_cases hdv : d = v
    · exact hdv ▸ hv
    · exact (h.others d hd).of_sameFor (e.others d hdv)
  queue := by rw [(e.others c hne).queue]; exact h.queue
  record b := by rw [(e.others c hne).record]; exact h.record b
  row k := by rw [(e.others c hne).row, (e.others c hne).circuit.calendarRow]; exact h.row k
  place := by rw [(e.others c hne).circuit.calendarRow]; exact h.place
  release := by rw [(e.others c hne).circuit.releaseCells]; exact h.release

/-- A circuit number past the 256 reads VACANT. -/
theorem Trunk.lt_of_state (h : (t.circuit c).state ≠ .vacant) : c < 256 := by
  by_contra hc
  rw [Trunk.circuit_past t hc] at h
  exact h rfl

theorem Trunk.Loose.lt (h : t.Loose c) : c < 256 := by
  by_contra hc
  have := h.place
  rw [Trunk.circuit_past t hc] at this
  exact this rfl

/-- A state that holds a calendar place and release cells that are none. -/
theorem Trunk.AgreesAt.held {st : CircuitState} (h : t.AgreesAt c) (hs : (t.circuit c).state = st)
    (hst : st.beforeSplice = true ∨ st.onFibre = true ∨ st = .held) :
    (t.circuit c).calendarRow ≠ none ∧ (t.circuit c).releaseCells = 0 := by
  subst hs
  have hne : (t.circuit c).state ≠ .copper := by
    intro he
    rw [he] at hst
    revert hst
    decide
  refine ⟨h.place.mpr ?_, ?_⟩
  · rcases hst with hst | hst | hst
    · exact .inl hst
    · exact .inr (.inl hst)
    · exact .inr (.inr (.inl hst))
  · by_contra hr
    exact hne (h.release (Nat.pos_of_ne_zero hr))

/-- A circuit before its splice, on fibre or HELD gives up its queue place and its record. -/
theorem Trunk.Agrees.loosen (h : t.Agrees) {st : CircuitState} (hs : (t.circuit c).state = st)
    (hst : st.beforeSplice = true ∨ st.onFibre = true ∨ st = .held) (e : t.Touches c u)
    (hcirc : (t.circuit c).SamePlace (u.circuit c)) (hq : c ∉ u.waitQueue) (hrec : ∀ b, (c, b) ∉ u.shape)
    (hrow : ∀ k, u.row k = t.row k) : u.Loose c := by
  obtain ⟨hplace, hrel⟩ := (h.at_ c).held hs hst
  exact ⟨e.lists h.lists, fun d hd => (h.at_ d).of_sameFor (e.others d hd), hq, hrec,
    fun k => by rw [hrow, hcirc.calendarRow]; exact (h.at_ c).row k, by rw [hcirc.calendarRow]; exact hplace,
    by rw [hcirc.releaseCells]; exact hrel⟩

theorem Trunk.Agrees.loosen_both (h : t.Agrees) {st : CircuitState} (hs : (t.circuit c).state = st)
    (hst : st.beforeSplice = true ∨ st.onFibre = true ∨ st = .held) : ((t.removeRecord c).leaveQueue c).Loose c :=
  h.loosen hs hst ((t.touches_removeRecord c).trans (Trunk.touches_leaveQueue _ c)) (.refl _)
    (fun hc => (Trunk.mem_leaveQueue _ _ _ |>.mp hc).2 rfl) (fun b hb => ((t.mem_shape_removeRecord c c b).mp hb).2 rfl)
    (fun _ => rfl)

theorem Trunk.Agrees.loosen_record (h : t.Agrees) {st : CircuitState} (hs : (t.circuit c).state = st)
    (hst : st.beforeSplice = true ∨ st.onFibre = true ∨ st = .held) (hne : st ≠ .splicePending) :
    (t.removeRecord c).Loose c :=
  h.loosen hs hst (t.touches_removeRecord c) (.refl _) (fun hq => hne (hs ▸ (h.at_ c).queue.mp hq))
    (fun b hb => ((t.mem_shape_removeRecord c c b).mp hb).2 rfl) (fun _ => rfl)

/-- The states that hold a calendar place and nothing else. -/
def CircuitState.placeOnly : CircuitState → Bool
  | .bridging | .aligned | .committed | .held => true
  | _ => false

theorem CircuitState.placed_of_placeOnly {st : CircuitState} (h : st.placeOnly = true) :
    st.beforeSplice = true ∨ st.onFibre = true ∨ st = .held := by
  revert h
  cases st <;> decide

theorem Trunk.Agrees.loose_of_placeOnly (h : t.Agrees) {st : CircuitState} (hs : (t.circuit c).state = st)
    (hst : st.placeOnly = true) : t.Loose c := by
  have hno : ∀ b, (c, b) ∉ t.shape := by
    rintro (_ | _) hb
    · have := (h.at_ c).pending.mp hb
      rw [hs] at this
      rw [this] at hst
      cases hst
    · rcases (h.at_ c).live.mp hb with this | this <;>
      · rw [hs] at this
        rw [this] at hst
        cases hst
  refine h.loosen hs (CircuitState.placed_of_placeOnly hst) ((Trunk.SamePlaces.refl t).touches c) (.refl _) (fun hq => ?_) hno
    (fun _ => rfl)
  · have := (h.at_ c).queue.mp hq
    rw [hs] at this
    rw [this] at hst
    cases hst

/-- A loose circuit enters a state that asks for its calendar place and for nothing else. -/
theorem Trunk.Loose.settle (h : t.Loose c) {f : Circuit → Circuit}
    (hrow : (f (t.circuit c)).calendarRow = (t.circuit c).calendarRow)
    (hst : ((f (t.circuit c)).state.placeOnly = true ∧ (f (t.circuit c)).releaseCells = (t.circuit c).releaseCells) ∨
      ((f (t.circuit c)).state = .copper ∧ 0 < (f (t.circuit c)).releaseCells)) : (t.modify c f).Agrees := by
  refine h.of_touches (t.touches_modify c f) ?_
  have hown : (t.modify c f).circuit c = f (t.circuit c) := Trunk.circuit_modify_same t f h.lt
  have hstate : (f (t.circuit c)).state.placeOnly = true ∨ (f (t.circuit c)).state = .copper := hst.imp And.left And.left
  constructor <;> rw [hown]
  · refine iff_of_false h.queue fun he => ?_
    rw [he] at hstate
    revert hstate
    decide
  · refine iff_of_false (h.record false) fun he => ?_
    rw [he] at hstate
    revert hstate
    decide
  · refine iff_of_false (h.record true) fun he => ?_
    rcases he with he | he <;>
    · rw [he] at hstate
      revert hstate
      decide
  · intro k
    rw [hrow]
    exact h.row k
  · rw [hrow]
    refine iff_of_true h.place ?_
    unfold Circuit.needsPlace
    rcases hst with ⟨hp, _⟩ | ⟨hc, hr⟩
    · exact (CircuitState.placed_of_placeOnly hp).imp id (Or.imp id .inl)
    · exact .inr (.inr (.inr ⟨hc, hr⟩))
  · intro hpos
    rcases hst with ⟨_, hr⟩ | ⟨hc, _⟩
    · rw [hr, h.release] at hpos
      exact absurd hpos (Nat.lt_irrefl 0)
    · exact hc

/-- A loose circuit joins the tail of the splice wait queue (R99). -/
theorem Trunk.Loose.queueUp (h : t.Loose c) {f : Circuit → Circuit} (hs : (f (t.circuit c)).state = .splicePending)
    (hrow : (f (t.circuit c)).calendarRow = (t.circuit c).calendarRow)
    (hrel : (f (t.circuit c)).releaseCells = (t.circuit c).releaseCells) : ((t.queueUp c).modify c f).Agrees := by
  refine h.of_touches ((Trunk.touches_queueUp h.queue).trans (Trunk.touches_modify _ c f)) ?_
  have hown : ((t.queueUp c).modify c f).circuit c = f (t.circuit c) := by
    rw [Trunk.circuit_modify_same _ f h.lt, Trunk.circuit_queueUp]
  constructor <;> rw [hown]
  · exact iff_of_true (by simp [Trunk.queueUp]) hs
  · exact iff_of_false (h.record false) (by rw [hs]; decide)
  · exact iff_of_false (h.record true) (by rw [hs]; decide)
  · intro k
    rw [hrow]
    exact h.row k
  · rw [hrow]
    exact iff_of_true h.place (.inl (by rw [hs]; rfl))
  · intro hpos
    rw [hrel, h.release] at hpos
    exact absurd hpos (Nat.lt_irrefl 0)

/-- A loose circuit takes a record, PENDING or LIVE, with the state that asks for it. -/
theorem Trunk.Loose.takeRecord (h : t.Loose c) {l : Option LiveFields}
    (e : t.Touches c u) (hshape : u.shape = t.shape ++ [(c, l.isSome)]) (hq : u.waitQueue = t.waitQueue)
    (hrows : ∀ k, u.row k = t.row k) (hrow : (u.circuit c).calendarRow = (t.circuit c).calendarRow)
    (hrel : (u.circuit c).releaseCells = (t.circuit c).releaseCells)
    (hs : (u.circuit c).state = if l.isSome then .spliced else .spliceWait) : u.Agrees := by
  refine h.of_touches e ⟨?_, ?_, ?_, fun k => ?_, ?_, fun hpos => ?_⟩
  · rw [hq, hs]
    exact iff_of_false h.queue (by cases l <;> simp)
  · rw [hshape, hs]
    have := h.record false
    cases l <;> simp [this]
  · rw [hshape, hs]
    have := h.record true
    cases l <;> simp [this]
  · rw [hrows, hrow]
    exact h.row k
  · rw [hrow]
    refine iff_of_true h.place ?_
    unfold Circuit.needsPlace
    rw [hs]
    cases l <;> simp [CircuitState.beforeSplice, CircuitState.onFibre]
  · rw [hrel, h.release] at hpos
    exact absurd hpos (Nat.lt_irrefl 0)

end Sys2Proof.Machine
end

section
/-! SUPPORT. Each operation on the trunk keeps the lists and the calendar in agreement with the circuit states. -/

namespace Sys2Proof.Machine

variable {t u : Trunk} {c : Nat}

/-! ## Splices, commits, servings -/

theorem Trunk.samePlaces_legacyRelease (t : Trunk) (x : Ctx) (c : Nat) : t.SamePlaces (t.legacyRelease x c) := by
  have released : (t.circuit c).SamePlace { t.circuit c with legacyReleased := true } := ⟨rfl, rfl, rfl⟩
  exact .ite ((Trunk.samePlaces_modify released).trans (Trunk.samePlaces_reportPlain _ x c _)) (.refl t)

/-- A SPLICED or REVERT_WAIT circuit that is committed keeps its calendar place only. -/
theorem Trunk.commit_places (x : Ctx) (v : Nat) (k : ReportKind) (d : Option Nat) (h : t.AgreesAt v)
    (hs : (t.circuit v).state = .spliced ∨ (t.circuit v).state = .revertWait) :
    t.Touches v (t.commit x v k d) ∧ (t.commit x v k d).AgreesAt v ∧ (t.commit x v k d).shape = (t.removeRecord v).shape ∧
      (t.commit x v k d).waitQueue = t.waitQueue := by
  have hv : v < 256 := Trunk.lt_of_state (by rcases hs with hs | hs <;> rw [hs] <;> decide)
  have hfibre : (t.circuit v).state.onFibre = true := by rcases hs with hs | hs <;> rw [hs] <;> rfl
  obtain ⟨hplace, hrel⟩ := h.held rfl (.inr (.inl hfibre))
  let u := (t.removeRecord v).modify v (fun r => { r.enter .committed with deferredRevert := false })
  have same : u.SamePlaces (t.commit x v k d) :=
    (Trunk.samePlaces_report u x v k none d .clear).trans (Trunk.samePlaces_legacyRelease _ x v)
  have touch : t.Touches v u := (t.touches_removeRecord v).trans (Trunk.touches_modify _ v _)
  have own : u.circuit v = { (t.circuit v).enter .committed with deferredRevert := false } := by
    rw [Trunk.circuit_modify_same _ _ hv, Trunk.circuit_removeRecord]
  refine ⟨touch.trans (same.touches v), ?_, same.shape, same.queue⟩
  have agrees : u.AgreesAt v := by
    constructor <;> rw [own]
    · refine iff_of_false (fun hq => ?_) (show CircuitState.committed ≠ _ by decide)
      have := h.queue.mp hq
      rcases hs with hs | hs <;> rw [hs] at this <;> cases this
    · exact iff_of_false (fun hm => ((t.mem_shape_removeRecord v v _).mp hm).2 rfl) (show CircuitState.committed ≠ _ by decide)
    · exact iff_of_false (fun hm => ((t.mem_shape_removeRecord v v _).mp hm).2 rfl)
        (show ¬ (CircuitState.committed = _ ∨ CircuitState.committed = _) by decide)
    · exact h.row
    · exact iff_of_true hplace (.inr (.inl rfl))
    · exact fun hpos => absurd hpos (Nat.not_lt.mpr (Nat.le_of_eq hrel))
  exact agrees.of_sameFor (same.sameFor v)

theorem Trunk.Agrees.commit (h : t.Agrees) (x : Ctx) (k : ReportKind) (d : Option Nat)
    (hs : (t.circuit c).state = .spliced ∨ (t.circuit c).state = .revertWait) : (t.commit x c k d).Agrees := by
  obtain ⟨touch, agrees, -, -⟩ := Trunk.commit_places x c k d (h.at_ c) hs
  exact h.of_touches touch agrees

/-- The oldest LIVE record is that of a SPLICED or REVERT_WAIT circuit, and its removal makes room. -/
theorem Trunk.oldestLive_mem {v : Nat} (hv : t.oldestLive = some v) : (v, true) ∈ t.shape := by
  obtain ⟨f, hf, rfl⟩ := Option.map_eq_some_iff.mp hv
  exact List.mem_map.mpr ⟨f, List.mem_of_find?_eq_some hf, by rw [List.find?_some hf]⟩

theorem Trunk.Loose.forcedCommit (h : t.Loose c) (x : Ctx) {v : Nat} (hv : t.oldestLive = some v) :
    (t.forcedCommit x v c).Loose c ∧ (t.forcedCommit x v c).hasRoom = true := by
  have hmem := Trunk.oldestLive_mem hv
  have hne : c ≠ v := fun he => h.record true (he ▸ hmem)
  have hat := h.others v (Ne.symm hne)
  obtain ⟨touch, agrees, hshape, -⟩ := Trunk.commit_places x v .forcedCommit (some c) hat (hat.live.mp hmem)
  refine ⟨h.of_touches_other touch agrees hne, ?_⟩
  rw [Trunk.hasRoom_iff]
  show (t.commit x v .forcedCommit (some c)).shape.length < 8
  rw [hshape, Trunk.shape_removeRecord]
  refine Nat.lt_of_lt_of_le (List.length_filter_lt_length_iff_exists.mpr ⟨(v, true), hmem, ?_⟩) h.lists.room
  simp

theorem Trunk.Loose.request (h : t.Loose c) {x : Ctx} (hu : t.request x c = some u) : u.Loose c ∧ u.hasRoom = true := by
  unfold Trunk.request at hu
  split at hu
  · cases hu
  · split at hu
    next hroom =>
      obtain rfl := Option.some.inj hu
      exact ⟨h, hroom⟩
    · split at hu
      next v _ hv =>
        obtain rfl := Option.some.inj hu
        exact h.forcedCommit x hv
      · cases hu

/-- What a splice does to the record, whichever it is (R77, R81). -/
def Circuit.spliced (x : Ctx) (kind : SpliceKind) (d : Nat) (gap : Bool) (r : Circuit) : Circuit :=
  match r.align.offset with
  | some o => r.spliceAt (x.frame + 1) kind o d gap
  | none => r.spliceBlind x.settings.params.guard kind

theorem Circuit.spliced_place (x : Ctx) (kind : SpliceKind) (d : Nat) (gap : Bool) (r : Circuit) :
    (r.spliced x kind d gap).state = .spliced ∧ (r.spliced x kind d gap).calendarRow = r.calendarRow ∧
      (r.spliced x kind d gap).releaseCells = r.releaseCells := by
  unfold Circuit.spliced
  split <;> exact ⟨rfl, rfl, rfl⟩

theorem Trunk.splice_eq (x : Ctx) (c : Nat) (kind : SpliceKind) (d : Nat) (gap : Bool) (t : Trunk) :
    t.splice x c kind d gap =
      ((t.modify c (Circuit.spliced x kind d gap)).recordLive x c).report x c .spliced (some (.splice kind))
        (((t.modify c (Circuit.spliced x kind d gap)).recordLive x c).circuit c).splice.deficit
        (((t.modify c (Circuit.spliced x kind d gap)).recordLive x c).circuit c).splice.flags := rfl

theorem Trunk.modify_hasRoom (t : Trunk) (c : Nat) (f : Circuit → Circuit) : (t.modify c f).hasRoom = t.hasRoom := rfl

/-- A splice that creates its record (R96). -/
theorem Trunk.Loose.splice (h : t.Loose c) (hroom : t.hasRoom = true) (x : Ctx) (kind : SpliceKind) (d : Nat) (gap : Bool) :
    (t.splice x c kind d gap).Agrees := by
  obtain ⟨hs, hrow, hrel⟩ := (t.circuit c).spliced_place x kind d gap
  have hnew : ∀ b, (c, b) ∉ (t.modify c (Circuit.spliced x kind d gap)).shape := h.record
  have own : (t.modify c (Circuit.spliced x kind d gap)).circuit c = (t.circuit c).spliced x kind d gap :=
    Trunk.circuit_modify_same t _ h.lt
  rw [Trunk.splice_eq, Trunk.recordLive_of_none x hnew]
  refine Trunk.Agrees.of_samePlaces ?_ (Trunk.samePlaces_report _ x c _ _ _ _)
  refine h.takeRecord (l := some (LiveFields.now x))
    ((t.touches_modify c _).trans (Trunk.touches_appendRecord ⟨c, _⟩ hroom hnew)) ?_ ?_ (fun k => ?_) ?_ ?_ ?_
  · exact Trunk.shape_appendRecord _ hroom
  · rw [Trunk.appendRecord_waitQueue]
    rfl
  · rw [Trunk.appendRecord_row]
    rfl
  · rw [Trunk.circuit_appendRecord, own]
    exact hrow
  · rw [Trunk.circuit_appendRecord, own]
    exact hrel
  · rw [Trunk.circuit_appendRecord, own]
    exact hs

/-- A splice from SPLICE_WAIT, whose record becomes LIVE in its place (R96). -/
theorem Trunk.Agrees.splice (h : t.Agrees) (hs : (t.circuit c).state = .spliceWait) (x : Ctx) (kind : SpliceKind) (d : Nat)
    (gap : Bool) : (t.splice x c kind d gap).Agrees := by
  have hc : c < 256 := Trunk.lt_of_state (by rw [hs]; decide)
  obtain ⟨hnew, hrow, hrel⟩ := (t.circuit c).spliced_place x kind d gap
  obtain ⟨hplace, hnone⟩ := (h.at_ c).held hs (.inl rfl)
  have hmem : ∃ b, (c, b) ∈ (t.modify c (Circuit.spliced x kind d gap)).shape := ⟨false, (h.at_ c).pending.mpr hs⟩
  have own : (t.modify c (Circuit.spliced x kind d gap)).circuit c = (t.circuit c).spliced x kind d gap :=
    Trunk.circuit_modify_same t _ hc
  rw [Trunk.splice_eq]
  refine Trunk.Agrees.of_samePlaces ?_ (Trunk.samePlaces_report _ x c _ _ _ _)
  refine h.of_touches ((t.touches_modify c _).trans (Trunk.touches_recordLive_of_record x hmem)) ?_
  constructor <;> rw [Trunk.circuit_recordLive, own]
  · rw [Trunk.recordLive_waitQueue, hnew]
    refine iff_of_false (fun hq => ?_) (by decide)
    have := (h.at_ c).queue.mp hq
    rw [hs] at this
    cases this
  · rw [Trunk.shape_recordLive_of_record x hmem, hnew]
    refine iff_of_false (fun hm => ?_) (by decide)
    obtain ⟨e, -, he⟩ := List.mem_map.mp hm
    split at he
    · exact absurd (Prod.mk.inj he).2 (by decide)
    next hne => exact hne (by rw [he])
  · rw [Trunk.shape_recordLive_of_record x hmem, hnew]
    obtain ⟨b, hb⟩ := hmem
    exact iff_of_true (List.mem_map.mpr ⟨(c, b), hb, if_pos rfl⟩) (.inl rfl)
  · intro k
    rw [hrow, Trunk.row, Trunk.recordLive_calendar]
    exact (h.at_ c).row k
  · rw [hrow]
    exact iff_of_true hplace (.inr (.inl (by rw [hnew]; rfl)))
  · intro hpos
    rw [hrel, hnone] at hpos
    exact absurd hpos (Nat.lt_irrefl 0)

theorem Trunk.Loose.grant (h : t.Loose c) (hroom : t.hasRoom = true) (x : Ctx) (d : Nat) : (t.grant x c d).Agrees := by
  unfold Trunk.grant
  split
  · exact h.splice hroom x .seamless 0 false
  · refine h.takeRecord (l := none) ((Trunk.touches_appendRecord ⟨c, none⟩ hroom h.record).trans (Trunk.touches_modify _ c _))
      ?_ ?_ (fun k => ?_) ?_ ?_ ?_
    · exact Trunk.shape_appendRecord _ hroom
    · exact Trunk.addPending_waitQueue c t
    · exact Trunk.appendRecord_row t _ k
    all_goals
      rw [Trunk.toSpliceWait, Trunk.circuit_modify_same _ _ h.lt, Trunk.circuit_addPending]
      rfl

theorem Trunk.Loose.delayExcess (h : t.Loose c) (x : Ctx) (d : Nat) : (t.delayExcess x c d).Agrees :=
  Trunk.Agrees.of_samePlaces (h.settle rfl (.inl ⟨rfl, rfl⟩)) (Trunk.samePlaces_report _ x c _ _ _ _)

theorem Trunk.Loose.unserved (h : t.Loose c) : (t.unserved c).Agrees := h.settle rfl (.inl ⟨rfl, rfl⟩)

theorem Trunk.Agrees.popQueue (h : t.Agrees) {rest : List Nat} (hq : t.waitQueue = c :: rest) :
    Trunk.Loose c { t with waitQueue := rest } := by
  have hs : (t.circuit c).state = .splicePending := (h.at_ c).queue.mp (by rw [hq]; exact List.mem_cons_self ..)
  have hnodup := h.lists.queue
  rw [hq] at hnodup
  refine h.loosen hs (.inl rfl) (Trunk.touches_popQueue hq) (.refl _) (List.nodup_cons.mp hnodup).1 (fun b hb => ?_) (fun _ => rfl)
  cases b with
  | false =>
    have := (h.at_ c).pending.mp hb
    rw [hs] at this
    cases this
  | true =>
    have := (h.at_ c).live.mp hb
    rw [hs] at this
    revert this
    decide

theorem Trunk.Agrees.ite {q : Prop} [Decidable q] (ht : q → t.Agrees) (hu : ¬ q → u.Agrees) :
    Trunk.Agrees (if q then t else u) := by
  split
  next hq => exact ht hq
  next hq => exact hu hq

theorem Trunk.Agrees.serveRoll (x : Ctx) (n : Nat) : ∀ {t : Trunk}, t.Agrees → (t.serveRoll x n).Agrees := by
  induction n with
  | zero => exact id
  | succ n ih =>
    intro t h
    unfold Trunk.serveRoll
    split
    next hd rest v hq hv =>
      have loose := h.popQueue hq
      obtain ⟨committed, hroom⟩ := loose.forcedCommit x hv
      dsimp only
      split
      · exact ih loose.unserved
      next d _ =>
        have granted := committed.grant hroom x d
        exact .ite (fun _ => ih (loose.delayExcess x d)) (fun _ => .ite (fun _ => ih granted) fun _ => granted)
    · exact h

theorem Trunk.Agrees.serveRoom (x : Ctx) (n : Nat) : ∀ {t : Trunk}, t.Agrees → (t.serveRoom x n).Agrees := by
  induction n with
  | zero => exact id
  | succ n ih =>
    intro t h
    unfold Trunk.serveRoom
    split
    · exact h
    next hd rest hq =>
      have loose := h.popQueue hq
      refine .ite (fun hgo => ?_) (fun _ => h)
      have hroom : t.hasRoom = true := (Bool.and_eq_true_iff.mp hgo).1
      dsimp only
      split
      · exact ih loose.unserved
      next d _ =>
        have granted := loose.grant hroom x d
        exact .ite (fun _ => ih (loose.delayExcess x d)) (fun _ => .ite (fun _ => .serveRoll x n granted) fun _ => ih granted)

theorem Trunk.Agrees.serve (h : t.Agrees) (x : Ctx) : (t.serve x).Agrees := .serveRoom x _ h

theorem Trunk.Agrees.serveLive (h : t.Agrees) (x : Ctx) : (t.serveLive x).Agrees := .ite (fun _ => .serveRoll x _ h) fun _ => h

theorem Trunk.Agrees.modify (h : t.Agrees) {f : Circuit → Circuit} (hf : (t.circuit c).SamePlace (f (t.circuit c))) :
    (t.modify c f).Agrees := h.of_samePlaces (Trunk.samePlaces_modify hf)

theorem Trunk.Agrees.report (h : t.Agrees) (x : Ctx) (c : Nat) (k : ReportKind) (v : Option ReportVariant) (d : Option Nat)
    (fl : SpliceFlags) : (t.report x c k v d fl).Agrees := h.of_samePlaces (t.samePlaces_report x c k v d fl)

theorem Trunk.Agrees.reportPlain (h : t.Agrees) (x : Ctx) (c : Nat) (k : ReportKind) : (t.reportPlain x c k).Agrees :=
  h.report x c k none none .clear

theorem Trunk.Agrees.arrive (h : t.Agrees) (x : Ctx) (c : Nat) : (t.arrive x c).Agrees := by
  unfold Trunk.arrive
  split
  next hs =>
    have loose := h.loose_of_placeOnly hs rfl
    refine .ite (fun _ => ?_) fun _ => h
    split
    next u hu =>
      obtain ⟨granted, hroom⟩ := loose.request hu
      exact (granted.splice hroom x .idle 0 false).serveLive x
    · exact h
  next hs =>
    have loose := h.loose_of_placeOnly hs rfl
    refine .ite (fun _ => ?_) fun _ => h
    split
    · exact h
    next d _ =>
      refine .ite (fun _ => h.report x c _ _ _ _) fun _ => ?_
      split
      next u hu =>
        obtain ⟨granted, hroom⟩ := loose.request hu
        exact (granted.grant hroom x d).serveLive x
      · exact loose.queueUp rfl rfl rfl
  next hs =>
    unfold Trunk.arriveWaiting
    dsimp only
    split
    · exact h
    next d _ =>
      have kept : (t.modify c (fun r => { r with splice := { r.splice with deficit := some d } })).Agrees := h.modify ⟨rfl, rfl, rfl⟩
      have waits : ((t.modify c (fun r => { r with splice := { r.splice with deficit := some d } })).circuit c).state = .spliceWait := by
        rw [Trunk.circuit_modify_same _ _ (Trunk.lt_of_state (by rw [hs]; decide))]
        exact hs
      exact .ite (fun _ => ((h.loosen_record hs (.inl rfl) (by decide)).delayExcess x d).serve x) fun _ =>
        .ite (fun _ => (h.splice hs x .seamless 0 false).serveLive x) fun _ =>
          .ite (fun _ => (kept.splice waits x .idle d false).serveLive x) fun _ => kept
  · exact h

/-! ## The controller -/

theorem Trunk.Agrees.abandonWith (h : t.Agrees) (x : Ctx) {c : Nat} (hs : (t.circuit c).state.beforeSplice = true)
    (k : Option ReportKind) : (t.abandonWith x c k).Agrees := by
  have h1 : (t.abandonCore c).Agrees := (h.loosen_both rfl (.inl hs)).settle rfl (.inr ⟨rfl, show 0 < 4 by decide⟩)
  cases k with
  | none => exact .ite (fun _ => h1.serve x) fun _ => h1
  | some k => exact .ite (fun _ => (h1.reportPlain x c k).serve x) fun _ => h1.reportPlain x c k

theorem Trunk.Agrees.reverseSplice (h : t.Agrees) (x : Ctx) {c : Nat}
    (hs : (t.circuit c).state.onFibre = true ∨ (t.circuit c).state = .held) (k : ReverseKind) :
    (t.reverseSplice x c k).Agrees := by
  have hne : (t.circuit c).state ≠ .splicePending := by
    intro he
    rw [he] at hs
    revert hs
    decide
  have h1 : ((t.removeRecord c).modify c (fun r =>
      (r.markReverse k ((t.circuit c).judgeReverse x.settings (x.frame + 1)).1).toCopper)).Agrees :=
    (h.loosen_record rfl (.inr hs) hne).settle rfl (.inr ⟨rfl, show 0 < 4 by decide⟩)
  exact .ite (fun _ => (h1.report x c _ _ _ _).serve x) fun _ => h1.report x c _ _ _ _

/-- A circuit that holds only its calendar place moves to another state that does. -/
theorem Trunk.Agrees.restate (h : t.Agrees) {st : CircuitState} {f : Circuit → Circuit} (hs : (t.circuit c).state = st)
    (hst : st.placeOnly = true) (hnew : (f (t.circuit c)).state.placeOnly = true)
    (hrow : (f (t.circuit c)).calendarRow = (t.circuit c).calendarRow)
    (hrel : (f (t.circuit c)).releaseCells = (t.circuit c).releaseCells) : (t.modify c f).Agrees :=
  (h.loose_of_placeOnly hs hst).settle hrow (.inl ⟨hnew, hrel⟩)

theorem Trunk.Agrees.reBridge (h : t.Agrees) (x : Ctx) {c : Nat} {st : CircuitState} (hs : (t.circuit c).state = st)
    (hst : st.placeOnly = true) : (t.reBridge x c).Agrees :=
  Trunk.Agrees.report (h.restate hs hst rfl rfl rfl) x c _ _ _ _

/-- A circuit that asks for no calendar place holds none, no queue place and no record. -/
theorem Trunk.AgreesAt.nothing (h : t.AgreesAt c) (hs : (t.circuit c).state = .copper ∨ (t.circuit c).state = .down)
    (hrel : (t.circuit c).releaseCells = 0) :
    c ∉ t.waitQueue ∧ (∀ b, (c, b) ∉ t.shape) ∧ (t.circuit c).calendarRow = none ∧ ∀ k, c ∉ t.row k := by
  have hnone : (t.circuit c).calendarRow = none := by
    by_contra hne
    have hneeds := h.place.mp hne
    unfold Circuit.needsPlace at hneeds
    rw [hrel] at hneeds
    rcases hs with hs | hs <;> rw [hs] at hneeds <;> revert hneeds <;> decide
  refine ⟨fun hq => ?_, ?_, hnone, fun k hk => ?_⟩
  · have := h.queue.mp hq
    rcases hs with hs | hs <;> rw [hs] at this <;> cases this
  · rintro (_ | _) hb
    · have := h.pending.mp hb
      rcases hs with hs | hs <;> rw [hs] at this <;> cases this
    · have := h.live.mp hb
      rcases hs with hs | hs <;> rw [hs] at this <;> rcases this with this | this <;> cases this
  · have := (h.row k).mp hk
    rw [hnone] at this
    cases this

theorem Trunk.touches_setRow (t : Trunk) {c k : Nat} {cs : List Nat} (hsame : ∀ d, d ≠ c → (d ∈ cs ↔ d ∈ t.row k))
    (hnodup : t.Lists → cs.Nodup) : t.Touches c (t.setRow k cs) := by
  refine ⟨fun d hd => ⟨.refl _, .rfl, fun _ => .rfl, fun j => ?_⟩, fun ht => ⟨ht.room, ht.queue, ht.records, fun j => ?_⟩⟩
  · rw [Trunk.row_setRow]
    split
    next hj => rw [hj]; exact hsame d hd
    · exact .rfl
  · rw [Trunk.row_setRow]
    split
    · exact hnodup ht
    · exact ht.rows j

/-- A circuit that has no place joins the calendar, and enters BRIDGING (R8, R107). -/
theorem Trunk.Agrees.join (h : t.Agrees) (x : Ctx) (hs : (t.circuit c).state = .copper ∨ (t.circuit c).state = .down)
    (hrel : (t.circuit c).releaseCells = 0) (hu : t.join c = some u) :
    (u.modify c (Circuit.toBridging x.settings.params)).Agrees := by
  have hc : c < 256 := Trunk.lt_of_state (by rcases hs with hs | hs <;> rw [hs] <;> decide)
  obtain ⟨hqueue, hrec, hnone, hrows⟩ := (h.at_ c).nothing hs hrel
  unfold Trunk.join at hu
  rw [hnone] at hu
  dsimp only at hu
  split at hu
  case isFalse => cases hu
  case isTrue =>
    obtain rfl := Option.some.inj hu
    generalize t.emptiestRow = k
    have touch : t.Touches c ((t.setRow k (t.row k ++ [c])).modify c (fun r => { r with calendarRow := some k })) := by
      refine Trunk.Touches.trans (t.touches_setRow (fun d hd => by simp [hd]) fun ht => ?_) (Trunk.touches_modify _ c _)
      refine List.nodup_append.mpr ⟨ht.rows k, List.nodup_singleton c, fun a ha b hb => ?_⟩
      obtain rfl := List.mem_singleton.mp hb
      rintro rfl
      exact hrows k ha
    refine h.of_touches (touch.trans (Trunk.touches_modify _ c _)) ?_
    have own : (((t.setRow k (t.row k ++ [c])).modify c (fun r => { r with calendarRow := some k })).modify c
        (Circuit.toBridging x.settings.params)).circuit c =
          ({ t.circuit c with calendarRow := some k } : Circuit).toBridging x.settings.params := by
      rw [Trunk.circuit_modify_same _ _ hc, Trunk.circuit_modify_same _ _ hc, Trunk.circuit_setRow]
    constructor <;> rw [own]
    · exact iff_of_false hqueue (show CircuitState.bridging ≠ _ by decide)
    · exact iff_of_false (hrec false) (show CircuitState.bridging ≠ _ by decide)
    · exact iff_of_false (hrec true) (show ¬ (CircuitState.bridging = _ ∨ CircuitState.bridging = _) by decide)
    · intro j
      rw [Trunk.row_modify, Trunk.row_modify, Trunk.row_setRow]
      show _ ↔ some k = some j
      split
      next hj => exact iff_of_true (by simp) (by rw [hj])
      next hj => exact iff_of_false (hrows j) fun he => hj (Option.some.inj he).symm
    · exact iff_of_true (show some k ≠ none by simp) (.inl rfl)
    · intro hpos
      exact absurd hpos (Nat.not_lt.mpr (Nat.le_of_eq hrel))

theorem Trunk.Agrees.joinOrReport (h : t.Agrees) (x : Ctx) {c : Nat}
    (hs : (t.circuit c).state = .copper ∨ (t.circuit c).state = .down) (hrel : (t.circuit c).releaseCells = 0) :
    (t.joinOrReport x c).Agrees := by
  unfold Trunk.joinOrReport
  split
  next u hu => exact h.join x hs hrel hu
  · exact h.reportPlain x c _

theorem Trunk.AgreesAt.noRelease (h : t.AgreesAt c) (hs : (t.circuit c).state ≠ .copper) : (t.circuit c).releaseCells = 0 := by
  by_contra hr
  exact hs (h.release (Nat.pos_of_ne_zero hr))

/-- A circuit leaves its row, and no other place is touched (R109). -/
theorem Trunk.leaveCalendar_places (hrow : ∀ k, c ∈ t.row k ↔ (t.circuit c).calendarRow = some k) (hc : c < 256) :
    t.Touches c (t.leaveCalendar c) ∧ (t.leaveCalendar c).waitQueue = t.waitQueue ∧ (t.leaveCalendar c).shape = t.shape ∧
      (∀ k, c ∉ (t.leaveCalendar c).row k) ∧ (t.leaveCalendar c).circuit c = { t.circuit c with calendarRow := none } := by
  unfold Trunk.leaveCalendar
  split
  next hn =>
    exact ⟨(Trunk.SamePlaces.refl t).touches c, rfl, rfl, fun k hk => by simp [(hrow k).mp hk] at hn, by rw [← hn]⟩
  next k hk =>
    refine ⟨(t.touches_setRow (fun d hd => by simp [hd]) fun ht => (ht.rows k).filter _).trans (Trunk.touches_modify _ c _),
      rfl, rfl, fun j => ?_, ?_⟩
    · rw [Trunk.row_modify, Trunk.row_setRow]
      split
      · simp
      next hj => exact fun hmem => hj (Option.some.inj (((hrow j).mp hmem).symm.trans hk))
    · rw [Trunk.circuit_modify_same _ _ hc, Trunk.circuit_setRow]

/-- A circuit that holds no place, and whose state asks for none. -/
theorem Trunk.AgreesAt.of_nothing (hq : c ∉ t.waitQueue) (hrec : ∀ b, (c, b) ∉ t.shape) (hrows : ∀ k, c ∉ t.row k)
    {st : CircuitState} (hs : (t.circuit c).state = st) (hst : st = .vacant ∨ st = .copper ∨ st = .down)
    (hrow : (t.circuit c).calendarRow = none) (hrel : (t.circuit c).releaseCells = 0) : t.AgreesAt c := by
  subst hs
  constructor
  · exact iff_of_false hq (by rcases hst with hst | hst | hst <;> rw [hst] <;> decide)
  · exact iff_of_false (hrec false) (by rcases hst with hst | hst | hst <;> rw [hst] <;> decide)
  · exact iff_of_false (hrec true) (by rcases hst with hst | hst | hst <;> rw [hst] <;> decide)
  · exact fun k => iff_of_false (hrows k) (by rw [hrow]; simp)
  · refine iff_of_false (by rw [hrow]; simp) ?_
    unfold Circuit.needsPlace
    rw [hrel]
    rcases hst with hst | hst | hst <;> rw [hst] <;> decide
  · exact fun hpos => absurd hpos (Nat.not_lt.mpr (Nat.le_of_eq hrel))

theorem Trunk.Agrees.goDown (h : t.Agrees) (x : Ctx) {c : Nat} {st : CircuitState} (hs : (t.circuit c).state = st)
    (hst : st.placeOnly = true) : (t.goDown x c).Agrees := by
  have loose := h.loose_of_placeOnly hs hst
  obtain ⟨touch, hqueue, hshape, hrows, own⟩ := Trunk.leaveCalendar_places loose.row loose.lt
  have own' : ((t.leaveCalendar c).modify c Circuit.toDown).circuit c =
      ({ t.circuit c with calendarRow := none } : Circuit).toDown := by
    rw [Trunk.circuit_modify_same _ _ loose.lt, own]
  have h1 : ((t.leaveCalendar c).modify c Circuit.toDown).Agrees :=
    h.of_touches (touch.trans (Trunk.touches_modify _ c _))
      (.of_nothing (hqueue ▸ loose.queue) (fun b => hshape ▸ loose.record b) hrows (congrArg Circuit.state own') (.inr (.inr rfl))
        (congrArg Circuit.calendarRow own') ((congrArg Circuit.releaseCells own').trans loose.release))
  exact h1.reportPlain x c _

theorem Trunk.Agrees.hold (h : t.Agrees) (x : Ctx) {c : Nat} (hs : (t.circuit c).state = .committed) : (t.hold x c).Agrees :=
  Trunk.Agrees.reportPlain (h.restate hs rfl rfl rfl rfl) x c _

theorem Trunk.Agrees.legacyRelease (h : t.Agrees) (x : Ctx) (c : Nat) : (t.legacyRelease x c).Agrees :=
  h.of_samePlaces (t.samePlaces_legacyRelease x c)

theorem Trunk.Agrees.heldReturn (h : t.Agrees) (x : Ctx) {c : Nat} (hs : (t.circuit c).state = .held) (ph : Phase) :
    (t.heldReturn x c ph).Agrees :=
  (Trunk.Agrees.modify ((h.restate (f := Circuit.enter .committed) hs rfl rfl rfl rfl).legacyRelease x c) ⟨rfl, rfl, rfl⟩).legacyRelease
    x c

theorem Trunk.Agrees.releaseCommitted (h : t.Agrees) (x : Ctx) {c : Nat} {st : CircuitState} (hs : (t.circuit c).state = st)
    (hst : st = .committed ∨ st = .held) : (t.releaseCommitted x c).Agrees := by
  refine .ite (fun _ => h.goDown x hs ?_) fun _ => h.reverseSplice x ?_ _
  · rcases hst with rfl | rfl <;> rfl
  · rw [hs]
    rcases hst with rfl | rfl
    · exact .inl rfl
    · exact .inr rfl

theorem Trunk.Agrees.follow (h : t.Agrees) (x : Ctx) {c : Nat} (hs : (t.circuit c).state = .copper) : (t.follow x c).Agrees := by
  unfold Trunk.follow
  dsimp only
  split
  · exact h
  · exact .ite (fun hgo => h.joinOrReport x (.inl hs) hgo.2.1) fun _ => h

theorem Trunk.Agrees.react (h : t.Agrees) (x : Ctx) (c : Nat) (ph : Phase) : (t.react x c ph).Agrees := by
  unfold Trunk.react
  split
  case h_1 => exact h
  case h_2 hs => exact .ite (fun _ => h.follow x hs) fun _ => h
  case h_3 hs | h_4 hs | h_5 hs | h_6 hs => exact .ite (fun _ => h.abandonWith x (by rw [hs]; rfl) none) fun _ => h
  case h_7 hs | h_8 hs => exact .ite (fun _ => h.reverseSplice x (.inl (by rw [hs]; rfl)) _) fun _ => h
  case h_9 hs =>
    have stored : (t.modify c (fun r => { r with peerPhase := some .committed })).Agrees := h.modify ⟨rfl, rfl, rfl⟩
    exact .ite (fun _ => h.reBridge x hs rfl) fun _ => .ite (fun _ => stored.legacyRelease x c) fun _ =>
      .ite (fun _ => h.releaseCommitted x hs (.inl rfl)) fun _ => h
  case h_10 hs =>
    exact .ite (fun _ => h.reBridge x hs rfl) fun _ => .ite (fun _ => h.heldReturn x hs ph) fun _ =>
      .ite (fun _ => h.releaseCommitted x hs (.inr rfl)) fun _ => h
  case h_11 hs =>
    exact .ite (fun _ => h.joinOrReport x (.inr hs) ((h.at_ c).noRelease (by rw [hs]; decide))) fun _ => h

theorem Trunk.Agrees.takePhase (h : t.Agrees) (x : Ctx) (c : Nat) (ph : Phase) : (t.takePhase x c ph).Agrees :=
  Trunk.Agrees.modify (h.react x c ph) ⟨rfl, rfl, rfl⟩

theorem Trunk.Agrees.peerEvent (h : t.Agrees) (x : Ctx) (c : Nat) : (t.peerEvent x c).Agrees := by
  have h1 : (t.modify c (fun r => { r with peerPhase := none })).Agrees := h.modify ⟨rfl, rfl, rfl⟩
  unfold Trunk.peerEvent
  dsimp only
  split
  case h_1 hs | h_2 hs | h_3 hs | h_4 hs => exact h1.abandonWith x (by rw [hs]; rfl) none
  case h_5 hs | h_6 hs => exact h1.reverseSplice x (.inl (by rw [hs]; rfl)) _
  case h_7 hs => exact h1.hold x hs
  case h_8 => exact h1

/-! ## Alignment and expiries -/

theorem Trunk.Agrees.alignmentLost (h : t.Agrees) (x : Ctx) (c : Nat) : (t.alignmentLost x c).Agrees := by
  have h0 : (t.modify c (fun r => { r with align := { r.align with verifyMiss := 0 } })).Agrees := h.modify ⟨rfl, rfl, rfl⟩
  unfold Trunk.alignmentLost
  dsimp only
  split
  case h_1 hs | h_2 hs | h_3 hs =>
    have h1 := (h0.loosen_both hs (.inl rfl)).settle (f := Circuit.backToBridging x.settings.params) rfl (.inl ⟨rfl, rfl⟩)
    exact .ite (fun _ => (h1.reportPlain x c _).serve x) fun _ => h1.reportPlain x c _
  case h_7 => exact h0
  all_goals exact Trunk.Agrees.reportPlain (h0.modify ⟨rfl, rfl, rfl⟩) x c _

theorem Trunk.Agrees.judgeWindow (h : t.Agrees) (x : Ctx) (c : Nat) (s : Word) : (t.judgeWindow x c s).Agrees := by
  have h1 : (t.modify c (Circuit.search x.settings s)).Agrees := h.modify (Circuit.sameStanding_search _ _ _).place
  have h2 : ∀ o, (t.modify c (Circuit.verify x.settings s o)).Agrees := fun o =>
    h.modify (Circuit.sameStanding_verify _ _ _ _).place
  unfold Trunk.judgeWindow
  dsimp only
  split
  case h_1 hs =>
    have bridging : ((t.modify c (Circuit.search x.settings s)).circuit c).state = .bridging := by
      rw [Trunk.circuit_modify_same _ _ (Trunk.lt_of_state (by rw [hs]; decide)), (Circuit.sameStanding_search _ _ _).state]
      exact hs
    split
    · exact .ite (fun _ => Trunk.Agrees.report (h1.restate bridging rfl rfl rfl rfl) x c _ _ _ _) fun _ => h1
    · exact h1
  case h_8 => exact h
  all_goals
    split
    · exact .ite (fun _ => .ite (fun _ => (h2 _).alignmentLost x c) fun _ => h2 _) fun _ => h
    · exact h

theorem Trunk.Agrees.windowJudgement (h : t.Agrees) (x : Ctx) (c : Nat) : (t.windowJudgement x c).Agrees := by
  unfold Trunk.windowJudgement
  split
  · exact h
  · exact Trunk.Agrees.judgeWindow (h.modify ⟨rfl, rfl, rfl⟩) x c _

theorem Trunk.Agrees.streamLoss (h : t.Agrees) (x : Ctx) (c : Nat) : (t.streamLoss x c).Agrees := by
  refine .ite (fun _ => ?_) fun _ => h
  split
  case h_1 hs | h_2 hs => exact h.reverseSplice x (.inl (by rw [hs]; rfl)) _
  case h_3 hs => exact h.hold x hs
  case h_4 => exact h

theorem Trunk.samePlaces_endHold (t : Trunk) (c : Nat) : t.SamePlaces (t.endHold c) := by
  refine t.samePlaces_mapRecords fun f => ?_
  split
  · exact ⟨rfl, by simp⟩
  · exact ⟨rfl, rfl⟩

/-- A SPLICED circuit enters REVERT_WAIT with its LIVE record (R18). -/
theorem Trunk.Agrees.toRevertWait (h : t.Agrees) (hs : (t.circuit c).state = .spliced) : (t.toRevertWait c).Agrees := by
  have hc : c < 256 := Trunk.lt_of_state (by rw [hs]; decide)
  obtain ⟨hplace, hrel⟩ := (h.at_ c).held hs (.inr (.inl rfl))
  have hat := h.at_ c
  refine h.of_touches (t.touches_modify c _) ?_
  have own : (t.toRevertWait c).circuit c = { (t.circuit c).enter .revertWait with deferredRevert := false } :=
    Trunk.circuit_modify_same t _ hc
  constructor <;> rw [own]
  · refine iff_of_false (fun hq => ?_) (show CircuitState.revertWait ≠ _ by decide)
    have := hat.queue.mp hq
    rw [hs] at this
    cases this
  · refine iff_of_false (fun hm => ?_) (show CircuitState.revertWait ≠ _ by decide)
    have := hat.pending.mp hm
    rw [hs] at this
    cases this
  · exact iff_of_true (hat.live.mpr (.inl hs)) (.inr rfl)
  · exact hat.row
  · exact iff_of_true hplace (.inr (.inl rfl))
  · exact fun hpos => absurd hpos (Nat.not_lt.mpr (Nat.le_of_eq hrel))

theorem Trunk.Agrees.holdExpiry (h : t.Agrees) (x : Ctx) (c : Nat) : (t.holdExpiry x c).Agrees := by
  have ended : (t.endHold c).Agrees := h.of_samePlaces (t.samePlaces_endHold c)
  unfold Trunk.holdExpiry
  split
  · exact .ite (fun _ => .ite (fun hs => ended.toRevertWait hs.1) fun _ => ended) fun _ => h
  · exact h

theorem Trunk.Agrees.settleExpiry (h : t.Agrees) (x : Ctx) (c : Nat) : (t.settleExpiry x c).Agrees := by
  have ended : (t.endHold c).Agrees := h.of_samePlaces (t.samePlaces_endHold c)
  unfold Trunk.settleExpiry
  split
  · exact .ite (fun hs => .ite (fun _ => ended.toRevertWait hs.2) fun _ => (h.commit x _ _ (.inl hs.2)).serve x) fun _ => h
  · exact h

theorem Trunk.Agrees.countRelease (h : t.Agrees) (c : Nat) : (t.countRelease c).Agrees := by
  unfold Trunk.countRelease
  dsimp only
  refine .ite (fun hgo => ?_) fun _ => h
  obtain ⟨hs, hpos⟩ := hgo
  have hc : c < 256 := Trunk.lt_of_state (by rw [hs]; decide)
  have hat := h.at_ c
  have hq : c ∉ t.waitQueue := fun hq => by
    have := hat.queue.mp hq
    rw [hs] at this
    cases this
  have hrec : ∀ b, (c, b) ∉ t.shape := by
    rintro (_ | _) hb
    · have := hat.pending.mp hb
      rw [hs] at this
      cases this
    · have := hat.live.mp hb
      rw [hs] at this
      rcases this with this | this <;> cases this
  split
  next hone =>
    let u := t.modify c (fun r => { r with releaseCells := r.releaseCells - 1 })
    have counted : u.circuit c = { t.circuit c with releaseCells := (t.circuit c).releaseCells - 1 } :=
      Trunk.circuit_modify_same _ _ hc
    obtain ⟨touch, hqueue, hshape, hrows, own⟩ :=
      Trunk.leaveCalendar_places (t := u) (fun k => by rw [counted]; exact hat.row k) hc
    refine h.of_touches ((t.touches_modify c _).trans touch)
      (.of_nothing (hqueue ▸ hq) (fun b => hshape ▸ hrec b) hrows ((congrArg Circuit.state own).trans ?_) (.inr (.inl rfl))
        (congrArg Circuit.calendarRow own) ((congrArg Circuit.releaseCells own).trans ?_))
    · rw [counted]
      exact hs
    · show (u.circuit c).releaseCells = 0
      rw [counted]
      show (t.circuit c).releaseCells - 1 = 0
      rw [hone]
  next hne =>
    refine h.of_touches (t.touches_modify c _) ?_
    constructor <;> rw [Trunk.circuit_modify_same _ _ hc]
    · exact hat.queue
    · exact hat.pending
    · exact hat.live
    · exact hat.row
    · refine iff_of_true (hat.place.mpr (.inr (.inr (.inr ⟨hs, hpos⟩)))) (.inr (.inr (.inr ⟨hs, ?_⟩)))
      dsimp only
      omega
    · exact fun _ => hs

end Sys2Proof.Machine
end

section
/-! SUPPORT. Every act keeps the lists and the calendar in agreement with the circuit states, and before OPERATING every act leaves
every place as it is. -/

namespace Sys2Proof.Machine

variable {t u : Trunk} {c : Nat}

/-! ## The other acts -/

theorem Trunk.Agrees.mapCircuits (h : t.Agrees) {f : Nat → Circuit → Circuit} (hf : ∀ c, (t.circuit c).SamePlace (f c (t.circuit c))) :
    (t.mapCircuits f).Agrees := h.of_samePlaces (Trunk.samePlaces_mapCircuits hf)

theorem Trunk.samePlaces_openSlots (t : Trunk) (x : Ctx) : t.SamePlaces (t.openSlots x) :=
  (Trunk.samePlaces_mapCircuits fun c => ((t.circuit c).sameStanding_openSlot x c).place).trans
    (Trunk.samePlaces_mapRecords _ fun f => ⟨rfl, by simp [FallbackRecord.age]⟩)

theorem Trunk.samePlaces_countBoundary (t : Trunk) : t.SamePlaces t.countBoundary := by
  refine Trunk.SamePlaces.trans (u := t.mapCircuits fun _ r => r.countBoundary)
    (Trunk.samePlaces_mapCircuits fun _ => ⟨rfl, rfl, rfl⟩) (Trunk.samePlaces_mapRecords _ fun f => ⟨rfl, ?_⟩)
  simp [FallbackRecord.countBoundary]

theorem Trunk.Agrees.alignmentTimeout (h : t.Agrees) (x : Ctx) (c : Nat) : (t.alignmentTimeout x c).Agrees :=
  .ite (fun hs => h.abandonWith x (by rw [hs.1]; rfl) _) fun _ => h

theorem Trunk.Agrees.bridgeIdle (h : t.Agrees) (x : Ctx) (c : Nat) : (t.bridgeIdle x c).Agrees :=
  .ite (fun hs => h.abandonWith x hs.1 _) fun _ => h

theorem Trunk.Agrees.peerHoldExpiry (h : t.Agrees) (x : Ctx) (c : Nat) : (t.peerHoldExpiry x c).Agrees :=
  .ite (fun hs => h.goDown x hs.1 rfl) fun _ => h

theorem Trunk.Agrees.spliceAndServe (h : t.Agrees) (hs : (t.circuit c).state = .spliceWait) (x : Ctx) (kind : SpliceKind)
    (d : Nat) (gap : Bool) : (t.spliceAndServe x c kind d gap).Agrees := (h.splice hs x kind d gap).serveLive x

theorem Trunk.Agrees.quietSplice (h : t.Agrees) (x : Ctx) (c : Nat) : (t.quietSplice x c).Agrees :=
  .ite (fun hs => h.spliceAndServe hs.1 x _ _ _) fun _ => h

theorem Trunk.Agrees.quietReverse (h : t.Agrees) (x : Ctx) (c : Nat) : (t.quietReverse x c).Agrees :=
  .ite (fun hs => h.reverseSplice x (.inl (by rw [hs.1]; rfl)) _) fun _ => h

theorem Circuit.samePlace_writeJudged (off : Word) (cell : BearerCell) (r : Circuit) : r.SamePlace (r.writeJudged off cell) :=
  (Circuit.sameStanding_writeJudged _ _ _).place

theorem Trunk.Agrees.workCell (h : t.Agrees) (x : Ctx) (c : Nat) (was : CircuitState) (cell : BearerCell) :
    (t.workCell x c was cell).Agrees := by
  have judged : ∀ r : Circuit, r.SamePlace ((r.push (x.frame - cell.ssn)).writeJudged (x.frame - cell.ssn) cell) := fun r =>
    Circuit.SamePlace.trans (r' := r.push (x.frame - cell.ssn)) ⟨rfl, rfl, rfl⟩ (Circuit.samePlace_writeJudged _ _ _)
  unfold Trunk.workCell
  refine .ite (fun _ => Trunk.Agrees.arrive (h.modify ?_) x c) fun _ =>
    .ite (fun _ => .ite (fun _ => h.modify (judged _)) fun _ => h.modify ((judged _).trans ?_)) fun _ => h
  · exact Circuit.SamePlace.trans (r' := ((t.circuit c).push (x.frame - cell.ssn)).write cell) ⟨rfl, rfl, rfl⟩
      ((Circuit.sameStanding_takeObase _ _).place.trans (Circuit.sameStanding_takeWindow _ _ _).place)
  · unfold Circuit.takeWindowFrom
    split
    · rfl
    · exact (Circuit.sameStanding_takeWindow _ _ _).place

theorem Trunk.Agrees.deliver (h : t.Agrees) (x : Ctx) (c : Nat) (cell : BearerCell) : (t.deliver x c cell).Agrees := by
  have received : (((t.bridgeIdle x c).streamLoss x c).modify c (Circuit.receive cell)).Agrees :=
    ((h.bridgeIdle x c).streamLoss x c).modify ⟨rfl, rfl, rfl⟩
  exact (received.takePhase x c cell.phase).workCell x c _ cell

theorem Trunk.Agrees.mismatch (h : t.Agrees) (x : Ctx) (c : Nat) (ph : Phase) : (t.mismatch x c ph).Agrees :=
  .ite (fun _ => h.reportPlain x c _) fun _ => h

theorem Trunk.Agrees.cutOne (h : t.Agrees) (x : Ctx) (c : Nat) : (t.cutOne x c).1.Agrees := by
  unfold Trunk.cutOne
  dsimp only
  split
  · exact h
  · split
    · exact h
    next hs =>
      split
      · exact h
      next hrel =>
        split
        · exact h
        · split
          · exact h
          · split
            · exact h
            next u hu => exact h.join x (.inl (not_not.mp hs)) (not_not.mp hrel) hu

theorem Trunk.Agrees.revertOne (h : t.Agrees) (x : Ctx) (c : Nat) : (t.revertOne x c).1.Agrees := by
  unfold Trunk.revertOne
  split
  case h_3 hs | h_4 hs | h_5 hs | h_6 hs => exact h.abandonWith x (by rw [hs]; rfl) none
  case h_7 hs =>
    split
    · exact h.modify (f := fun r => { r with deferredRevert := true }) ⟨rfl, rfl, rfl⟩
    · exact h.toRevertWait hs
  case h_11 hs =>
    have hrel := (h.at_ c).noRelease (by rw [hs]; decide)
    obtain ⟨hq, hrec, hnone, hrows⟩ := (h.at_ c).nothing (.inr hs) hrel
    have hc : c < 256 := Trunk.lt_of_state (by rw [hs]; decide)
    have own : (t.modify c (Circuit.enter .copper)).circuit c = (t.circuit c).enter .copper := Trunk.circuit_modify_same t _ hc
    exact h.of_touches (t.touches_modify c _) (.of_nothing hq hrec hrows (congrArg Circuit.state own) (.inr (.inl rfl))
      ((congrArg Circuit.calendarRow own).trans hnone) ((congrArg Circuit.releaseCells own).trans hrel))
  all_goals exact h

theorem Trunk.Agrees.commitOne (h : t.Agrees) (x : Ctx) (c : Nat) : (t.commitOne x c).1.Agrees := by
  unfold Trunk.commitOne
  split
  case h_1 hs => exact (h.commit x _ _ (.inl hs)).serve x
  all_goals exact h

theorem Trunk.Agrees.forceOne (h : t.Agrees) (x : Ctx) (c : Nat) : (t.forceOne x c).1.Agrees := by
  unfold Trunk.forceOne
  dsimp only
  split
  case h_1 hs => exact h.spliceAndServe hs x _ _ _
  case h_2 hs => exact h.reverseSplice x (.inl (by rw [hs]; rfl)) _
  all_goals exact h

theorem Trunk.Agrees.resume (h : t.Agrees) (x : Ctx) : (t.resume x).Agrees :=
  .ite (fun _ => h.serve x) fun _ => h.serveLive x

/-- Every act keeps the agreement. -/
theorem Trunk.Acts.agrees {x : Ctx} (h : t.Acts x u) (ht : t.Agrees) : u.Agrees := by
  induction h with
  | refl => exact ht
  | modify c f hf _ ih => exact ih.modify hf.place
  | mapCircuits f hf _ ih => exact ih.mapCircuits fun c => (hf c _).place
  | @openSlots v _ ih => exact ih.of_samePlaces (v.samePlaces_openSlots x)
  | @reportStation v p k _ ih => exact ih.of_samePlaces (v.samePlaces_enterReport _)
  | dropReports n _ ih => exact ih.of_samePlaces ⟨fun _ => .refl _, rfl, rfl, fun _ => rfl⟩
  | alignmentTimeout c _ ih => exact ih.alignmentTimeout x c
  | bridgeIdle c _ ih => exact ih.bridgeIdle x c
  | streamLoss c _ ih => exact ih.streamLoss x c
  | peerHoldExpiry c _ ih => exact ih.peerHoldExpiry x c
  | holdExpiry c _ ih => exact ih.holdExpiry x c
  | settleExpiry c _ ih => exact ih.settleExpiry x c
  | windowJudgement c _ ih => exact ih.windowJudgement x c
  | peerEvent c _ ih => exact ih.peerEvent x c
  | quietSplice c _ ih => exact ih.quietSplice x c
  | quietReverse c _ ih => exact ih.quietReverse x c
  | countRelease c _ ih => exact ih.countRelease c
  | deliver c cell _ ih => exact ih.deliver x c cell
  | mismatch c ph _ ih => exact ih.mismatch x c ph
  | cutOne c _ _ ih => exact ih.cutOne x c
  | revertOne c _ ih => exact ih.revertOne x c
  | commitOne c _ ih => exact ih.commitOne x c
  | forceOne c _ ih => exact ih.forceOne x c
  | resume _ ih => exact ih.resume x

/-! ## Before OPERATING -/

/-- Nothing is queued, recorded or in the calendar, and every circuit is VACANT or COPPER without release cells. -/
structure Trunk.Quiet (t : Trunk) : Prop where
  queue : t.waitQueue = []
  shape : t.shape = []
  row : ∀ k, t.row k = []
  noRow : ∀ c, (t.circuit c).calendarRow = none
  noCells : ∀ c, (t.circuit c).releaseCells = 0
  state : ∀ c, (t.circuit c).state = .vacant ∨ (t.circuit c).state = .copper

theorem Trunk.Quiet.of_samePlaces (h : t.Quiet) (e : t.SamePlaces u) : u.Quiet where
  queue := by rw [e.queue]; exact h.queue
  shape := by rw [e.shape]; exact h.shape
  row k := by rw [e.row]; exact h.row k
  noRow c := by rw [(e.circuit c).calendarRow]; exact h.noRow c
  noCells c := by rw [(e.circuit c).releaseCells]; exact h.noCells c
  state c := by rw [(e.circuit c).state]; exact h.state c

theorem Trunk.Quiet.fallback (h : t.Quiet) : t.fallback = [] := List.map_eq_nil_iff.mp h.shape

theorem Trunk.Quiet.agrees (h : t.Quiet) : t.Agrees := by
  refine ⟨⟨by simp [h.shape], by simp [h.queue], by simp [h.shape], fun k => by simp [h.row]⟩, fun c => ?_⟩
  exact .of_nothing (by simp [h.queue]) (by simp [h.shape]) (by simp [h.row]) rfl
    ((h.state c).imp id .inl) (h.noRow c) (h.noCells c)

end Sys2Proof.Machine
end

section
/-! SUPPORT. Before OPERATING every act leaves every place as it is. -/

namespace Sys2Proof.Machine

variable {t u : Trunk} {x : Ctx}

theorem Trunk.Quiet.bridgeIdle (h : t.Quiet) (x : Ctx) (c : Nat) : t.bridgeIdle x c = t := by
  rcases h.state c with hs | hs <;> simp [Trunk.bridgeIdle, hs, CircuitState.beforeSplice]

theorem Trunk.Quiet.streamLoss (h : t.Quiet) (x : Ctx) (c : Nat) : t.streamLoss x c = t := by
  rcases h.state c with hs | hs <;> simp [Trunk.streamLoss, hs]

theorem Trunk.Quiet.judgeWindow (h : t.Quiet) (x : Ctx) (c : Nat) (s : Word) : t.judgeWindow x c s = t := by
  rcases h.state c with hs | hs <;> simp [Trunk.judgeWindow, hs]

theorem Trunk.Quiet.liveOf (h : t.Quiet) (c : Nat) : t.liveOf c = none := by
  simp [Trunk.liveOf, Trunk.recordOf, h.fallback]

theorem Trunk.Quiet.react (h : t.Quiet) (hx : x.station ≠ .operating) (c : Nat) (ph : Phase) : t.react x c ph = t := by
  rcases h.state c with hs | hs
  · simp [Trunk.react, hs]
  · have follow : t.follow x c = t := by
      unfold Trunk.follow
      dsimp only
      split
      · rfl
      · rw [if_neg (fun hgo => hx hgo.1)]
    simp [Trunk.react, hs, follow]

theorem Trunk.Quiet.workCell (h : t.Quiet) (x : Ctx) (c : Nat) (was : CircuitState) (cell : BearerCell) :
    t.workCell x c was cell = t := by
  rcases h.state c with hs | hs <;> simp [Trunk.workCell, hs, CircuitState.beforeSplice, CircuitState.onFibre]

theorem Trunk.Quiet.deliver (h : t.Quiet) (hx : x.station ≠ .operating) (c : Nat) (cell : BearerCell) :
    t.SamePlaces (t.deliver x c cell) := by
  have received : t.SamePlaces (t.modify c (Circuit.receive cell)) := Trunk.samePlaces_modify ⟨rfl, rfl, rfl⟩
  have quiet := h.of_samePlaces received
  unfold Trunk.deliver Trunk.takePhase
  rw [h.bridgeIdle, h.streamLoss]
  dsimp only
  rw [quiet.react hx]
  have stored := Trunk.samePlaces_modify (t := t.modify c (Circuit.receive cell)) (c := c)
    (f := fun r => { r with peerPhase := some cell.phase }) ⟨rfl, rfl, rfl⟩
  rw [(quiet.of_samePlaces stored).workCell]
  exact received.trans stored

theorem Trunk.Quiet.serveRoll (h : t.Quiet) (x : Ctx) (n : Nat) : t.serveRoll x n = t := by
  cases n with
  | zero => rfl
  | succ n =>
    unfold Trunk.serveRoll
    rw [h.queue]

theorem Trunk.Quiet.serveRoom (h : t.Quiet) (x : Ctx) (n : Nat) : t.serveRoom x n = t := by
  cases n with
  | zero => rfl
  | succ n =>
    unfold Trunk.serveRoom
    rw [h.queue]

theorem Trunk.Quiet.resume (h : t.Quiet) (x : Ctx) : t.resume x = t := by
  unfold Trunk.resume Trunk.serve Trunk.serveLive
  rw [h.serveRoom, h.serveRoll]
  simp

theorem Trunk.Quiet.windowJudgement (h : t.Quiet) (x : Ctx) (c : Nat) : t.SamePlaces (t.windowJudgement x c) := by
  unfold Trunk.windowJudgement
  split
  · rfl
  next e _ =>
    have same : t.SamePlaces (t.modify c fun r =>
        { r with align := { r.align with judging := r.align.judging.filter fun d => !(d == e) } }) :=
      Trunk.samePlaces_modify ⟨rfl, rfl, rfl⟩
    rw [(h.of_samePlaces same).judgeWindow]
    exact same

theorem Trunk.Quiet.peerEvent (h : t.Quiet) (x : Ctx) (c : Nat) : t.SamePlaces (t.peerEvent x c) := by
  have same : t.SamePlaces (t.modify c fun r => { r with peerPhase := none }) := Trunk.samePlaces_modify ⟨rfl, rfl, rfl⟩
  unfold Trunk.peerEvent
  dsimp only
  rcases (h.of_samePlaces same).state c with hs | hs <;>
  · rw [hs]
    exact same

/-- An act outside OPERATING on a quiet trunk touches no place. -/
theorem Trunk.Acts.quiet (h : t.Acts x u) (ht : t.Quiet) (hx : x.station ≠ .operating) : t.SamePlaces u := by
  induction h with
  | refl => exact .refl t
  | modify c f hf _ ih => exact ih.trans (Trunk.samePlaces_modify hf.place)
  | mapCircuits f hf _ ih => exact ih.trans (Trunk.samePlaces_mapCircuits fun c => (hf c _).place)
  | @openSlots v _ ih => exact ih.trans (v.samePlaces_openSlots x)
  | @reportStation v p k _ ih => exact ih.trans (v.samePlaces_enterReport _)
  | dropReports n _ ih => exact ih.trans ⟨fun _ => .refl _, rfl, rfl, fun _ => rfl⟩
  | alignmentTimeout c _ ih =>
    rcases (ht.of_samePlaces ih).state c with hs | hs <;> simpa [Trunk.alignmentTimeout, hs] using ih
  | bridgeIdle c _ ih => rw [(ht.of_samePlaces ih).bridgeIdle]; exact ih
  | streamLoss c _ ih => rw [(ht.of_samePlaces ih).streamLoss]; exact ih
  | peerHoldExpiry c _ ih =>
    rcases (ht.of_samePlaces ih).state c with hs | hs <;> simpa [Trunk.peerHoldExpiry, hs] using ih
  | holdExpiry c _ ih => simpa [Trunk.holdExpiry, (ht.of_samePlaces ih).liveOf c] using ih
  | settleExpiry c _ ih => simpa [Trunk.settleExpiry, (ht.of_samePlaces ih).liveOf c] using ih
  | windowJudgement c _ ih => exact ih.trans ((ht.of_samePlaces ih).windowJudgement x c)
  | peerEvent c _ ih => exact ih.trans ((ht.of_samePlaces ih).peerEvent x c)
  | quietSplice c _ ih =>
    rcases (ht.of_samePlaces ih).state c with hs | hs <;> simpa [Trunk.quietSplice, hs] using ih
  | quietReverse c _ ih =>
    rcases (ht.of_samePlaces ih).state c with hs | hs <;> simpa [Trunk.quietReverse, hs] using ih
  | countRelease c _ ih => simpa [Trunk.countRelease, (ht.of_samePlaces ih).noCells c] using ih
  | deliver c cell _ ih => exact ih.trans ((ht.of_samePlaces ih).deliver hx c cell)
  | @mismatch v c ph _ ih => exact ih.trans (.ite (v.samePlaces_reportPlain x c _) (.refl v))
  | cutOne _ hop => exact absurd hop hx
  | revertOne c _ ih =>
    rcases (ht.of_samePlaces ih).state c with hs | hs <;> simpa [Trunk.revertOne, hs] using ih
  | commitOne c _ ih =>
    rcases (ht.of_samePlaces ih).state c with hs | hs <;> simpa [Trunk.commitOne, hs] using ih
  | forceOne c _ ih =>
    rcases (ht.of_samePlaces ih).state c with hs | hs <;> simpa [Trunk.forceOne, hs] using ih
  | resume _ ih => rw [(ht.of_samePlaces ih).resume]; exact ih

/-! ## The station -/

variable {s v : State} {e : Prop}

/-- `State.placesAgree`, by the trunk's predicates. -/
structure State.PlacesAgree (s : State) : Prop where
  agrees : s.trunk.Agrees
  quiet : s.stage ≠ .operating → s.trunk.Quiet
  vacant : s.stationState ≠ .listening → s.stationState ≠ .operating → ∀ c, (s.circuit c).state = .vacant

theorem State.placesAgree_iff (s : State) : s.placesAgree ↔ s.PlacesAgree := by
  unfold State.placesAgree
  rw [Trunk.agrees_iff]
  constructor
  · rintro ⟨hq, ha⟩
    refine ⟨ha, fun hs => ?_, fun hl ho c => ?_⟩
    · obtain ⟨hf, hw, hrow, hc⟩ := hq hs
      exact ⟨hw, List.map_eq_nil_iff.mpr hf, hrow, fun c => (hc c).1, fun c => (hc c).2.1, fun c => (hc c).2.2.imp id And.right⟩
    · obtain ⟨-, -, -, hc⟩ := hq (by rw [State.stage_of_not_listening _ hl]; exact ho)
      exact (hc c).2.2.resolve_right fun he => hl he.1
  · rintro ⟨ha, hq, hv⟩
    refine ⟨fun hs => ?_, ha⟩
    have quiet := hq hs
    refine ⟨quiet.fallback, quiet.queue, quiet.row, fun c => ⟨quiet.noRow c, quiet.noCells c, ?_⟩⟩
    by_cases hl : s.stationState = .listening
    · exact (quiet.state c).imp id fun hc => ⟨hl, hc⟩
    · exact .inl (hv hl (fun ho => hs (by rw [State.stage_of_not_listening _ hl, ho])) c)

/-- The places are those they were, where the rules of OPERATING hold at least as before and the station state is one of
the same kind. -/
theorem State.PlacesAgree.keep (h : s.PlacesAgree) (e : s.trunk.SamePlaces v.trunk)
    (hstage : v.stage ≠ .operating → s.stage ≠ .operating)
    (hstate : v.stationState ≠ .listening → v.stationState ≠ .operating →
      s.stationState ≠ .listening ∧ s.stationState ≠ .operating) : v.PlacesAgree where
  agrees := h.agrees.of_samePlaces e
  quiet hv := (h.quiet (hstage hv)).of_samePlaces e
  vacant hl ho c := (e.circuit c).state.trans (h.vacant (hstate hl ho).1 (hstate hl ho).2 c)

theorem State.stage_endListening (s : State) : s.endListening.stage = s.stage := by
  unfold State.endListening
  split
  next hl =>
    unfold State.stage
    simp [hl.1, hl.2]
  · rfl

theorem State.stage_countBoundary {s : State} (hb : s.todo.boundary = true) : s.countBoundary.stage = s.stage := by
  unfold State.stage State.countBoundary
  by_cases hl : s.stationState = .listening
  · simp [hl, hb, Nat.sub_eq_zero_iff_le]
  · simp [hl]

theorem State.InFrame.placesAgree (h : s.InFrame e v) (hs : s.PlacesAgree) : v.PlacesAgree := by
  induction h with
  | refl => exact hs
  | @trunk t u hu _ ih =>
    by_cases hop : t.stage = .operating
    · refine ⟨hu.agrees ih.agrees, fun hne => absurd hop hne, fun hl ho _ => absurd hop ?_⟩
      rw [State.stage_of_not_listening _ (show t.stationState ≠ _ from hl)]
      exact ho
    · exact ih.keep (hu.quiet (ih.quiet hop) hop) id fun hl ho => ⟨hl, ho⟩
  | @boundary t hb _ ih =>
    exact ih.keep t.trunk.samePlaces_countBoundary (fun hne => by rwa [State.stage_countBoundary hb] at hne)
      fun hl ho => ⟨hl, ho⟩
  | @aside t w _ hv ih =>
    have trunk : w.trunk = t.trunk := (congrArg State.trunk hv.1 :)
    have state : w.stationState = t.stationState := (congrArg State.stationState hv.1 :)
    have left : w.listenLeft = t.listenLeft := (congrArg State.listenLeft hv.1 :)
    have stage : w.stage = t.stage := by
      unfold State.stage
      rw [state, left, hv.2]
    exact ih.keep (by rw [trunk]) (fun hne => stage ▸ hne) fun hl ho => state ▸ ⟨hl, ho⟩
  | replies rs _ _ ih => exact ih.keep (.refl _) id fun hl ho => ⟨hl, ho⟩
  | orders os _ _ ih => exact ih.keep (.refl _) id fun hl ho => ⟨hl, ho⟩
  | overflow _ ih => exact ih.keep (.refl _) id fun hl ho => ⟨hl, ho⟩
  | @listened t _ _ ih =>
    refine ih.keep (by rw [State.endListening_trunk]) (fun hne => by rwa [State.stage_endListening] at hne) fun hl ho => ?_
    unfold State.endListening at hl ho
    split at ho
    · exact absurd rfl ho
    next hn =>
      rw [if_neg hn] at hl
      exact ⟨hl, ho⟩
  | peer p e _ _ ih => exact ih.keep (.refl _) id fun hl ho => ⟨hl, ho⟩
  | matched p _ ih => exact ih.keep (.refl _) id fun hl ho => ⟨hl, ho⟩

theorem Trunk.quiet_start (k : StartCause) : (Trunk.start k).Quiet where
  queue := rfl
  shape := rfl
  row _ := rfl
  noRow c := by rw [Trunk.circuit_start]; rfl
  noCells c := by rw [Trunk.circuit_start]; rfl
  state c := by rw [Trunk.circuit_start]; exact .inl rfl

theorem Circuit.bind_state (r : Circuit) (b : Option Binding) (h : r.state = .vacant) :
    (r.bind b).state = .vacant ∨ (r.bind b).state = .copper := by
  unfold Circuit.bind
  split
  · exact .inr rfl
  · exact .inl h

theorem Trunk.Quiet.bind (h : t.Quiet) (f : Nat → Option Binding) (hv : ∀ c, (t.circuit c).state = .vacant) :
    (t.mapCircuits fun c r => r.bind (f c)).Quiet := by
  have own : ∀ c, (t.mapCircuits fun c r => r.bind (f c)).circuit c = if c < 256 then (t.circuit c).bind (f c) else Circuit.start :=
    fun c => Trunk.circuit_mapCircuits t _ c
  refine ⟨h.queue, h.shape, h.row, fun c => ?_, fun c => ?_, fun c => ?_⟩ <;> rw [own] <;> split
  · unfold Circuit.bind; split <;> exact h.noRow c
  · rfl
  · unfold Circuit.bind; split <;> exact h.noCells c
  · rfl
  · exact Circuit.bind_state _ _ (hv c)
  · exact .inl rfl

theorem State.Goes.placesAgree (h : s.Goes v) (hs : s.PlacesAgree) : v.PlacesAgree := by
  induction h with
  | refl => exact hs
  | inFrame _ hv ih => exact hv.placesAgree ih
  | @outside t w _ hv ih =>
    obtain ⟨ha, hq, hvac⟩ := ih
    rw [← hv] at ha hq hvac
    exact ⟨ha, hq, hvac⟩
  | start k _ _ => exact ⟨(Trunk.quiet_start k).agrees, fun _ => Trunk.quiet_start k,
      fun _ _ c => by rw [State.circuit, State.start, Trunk.circuit_start]; rfl⟩
  | missed n _ _ ih => exact ih.keep (.refl _) id fun hl ho => ⟨hl, ho⟩
  | @begun t sw lg late between hb _ ih =>
    refine ih.keep (.refl _) (fun hne hop => hne ?_) fun hl ho => ⟨hl, ho⟩
    by_cases hl : t.stationState = .listening
    · have left : t.listenLeft = 0 := by
        by_contra hpos
        have := hb hl
        simp [State.stage, hl, this, hpos] at hop
      simp [State.stage, State.beginFrame, hl, left]
    · rw [State.stage_of_not_listening _ hl] at hop
      simp [State.stage, State.beginFrame, hop]
  | @loading t straps hr _ ih =>
    have hv := ih.vacant (by rw [hr]; decide) (by rw [hr]; decide)
    have hq := ih.quiet (by rw [State.stage_of_not_listening _ (by rw [hr]; decide), hr]; decide)
    exact ⟨ih.agrees, fun _ => hq, fun _ _ => hv⟩
  | @bad t f hr _ ih =>
    have hv := ih.vacant (by rw [hr]; decide) (by rw [hr]; decide)
    have hq := ih.quiet (by rw [State.stage_of_not_listening _ (by rw [hr]; decide), hr]; decide)
    exact ⟨ih.agrees, fun _ => hq, fun _ _ => hv⟩
  | @good t m hr _ ih =>
    have hv := ih.vacant (by rw [hr]; decide) (by rw [hr]; decide)
    have hq := ih.quiet (by rw [State.stage_of_not_listening _ (by rw [hr]; decide), hr]; decide)
    have bound := hq.bind (bindingOf (bootWindows (t.stationNo.getD 15) m)) hv
    exact ⟨bound.agrees, fun _ => bound, fun hl => absurd rfl hl⟩

/-- Settles O60: every act keeps the agreement, and before OPERATING every act leaves every place as it is. -/
theorem stepKeepsPlacesInStep : Obligations.StepKeepsPlacesInStep := by
  intro s t h hstep
  rw [State.placesAgree_iff] at h ⊢
  exact (step_goes hstep).placesAgree h

/-! ## The splice wait queue -/

/-- A list of different elements, each of which lies in one of the first `n` of some lists of at most `k`. -/
theorem length_le_of_rows {l : List Nat} (hl : l.Nodup) (rows : Nat → List Nat) (k : Nat) (hk : ∀ j, (rows j).length ≤ k)
    (n : Nat) (h : ∀ a ∈ l, ∃ j < n, a ∈ rows j) : l.length ≤ n * k := by
  have sub : l ⊆ (List.range n).flatMap rows := fun a ha => by
    obtain ⟨j, hj, hmem⟩ := h a ha
    exact List.mem_flatMap.mpr ⟨j, List.mem_range.mpr hj, hmem⟩
  refine (hl.subperm sub).length_le.trans ?_
  rw [List.length_flatMap]
  refine (List.sum_le_card_nsmul _ k ?_).trans (by simp)
  simp only [List.mem_map]
  rintro _ ⟨j, -, rfl⟩
  exact hk j

/-- Each waiting circuit holds one of the 240 places of the calendar. -/
theorem Trunk.Agrees.waitQueue_le (h : t.Agrees) (hrow : ∀ k, (t.row k).length ≤ 6)
    (hrange : ∀ c k, (t.circuit c).calendarRow = some k → k < 40) : t.waitQueue.length ≤ 240 := by
  refine length_le_of_rows h.lists.queue t.row 6 hrow 40 fun c hc => ?_
  have hs := (h.at_ c).queue.mp hc
  obtain ⟨hplace, -⟩ := (h.at_ c).held hs (.inl rfl)
  obtain ⟨k, hk⟩ := Option.ne_none_iff_exists'.mp hplace
  exact ⟨k, hrange c k hk, ((h.at_ c).row k).mpr hk⟩

/-- Settles O59: every step keeps the capacities; a waiting circuit holds a calendar place, of which there are 240. -/
theorem stepKeepsCapacities : Obligations.StepKeepsCapacities := by
  refine ⟨fun s t h hstep => step_keeps_withinCapacity h hstep, fun s t hcap hrec hplaces hstep => ?_⟩
  have cap := (State.withinCapacity_iff t).mp (step_keeps_withinCapacity hcap hstep)
  have places := (State.placesAgree_iff t).mp (stepKeepsPlacesInStep s t hplaces hstep)
  refine places.agrees.waitQueue_le cap.trunk.rows fun c k hk => ?_
  have records := (State.recordsInRange_iff t).mp (stepKeepsRecords.1 s t hrec hstep)
  exact (records.2 c).calendarRow k hk

end Sys2Proof.Machine
end

section
/-! Steps, starts and the state after reset. SUPPORT for the statements after it: what a command leaves of the station around
the frame. -/

namespace Sys2Proof.Machine

variable {s t v : State} {e : Prop}

theorem step_of_no_command (h : s.pending = []) : step s = .next s.tick := by
  unfold step
  rw [h]

theorem step_of_command {i : Instr} {rest : List Instr} (h : s.pending = i :: rest) :
    step s = exec i { s with pending := rest } := by
  unfold step
  rw [h]

theorem State.tick_work {w : Work} {ws : List Work} (h : s.todo.between = w :: ws) :
    s.tick = { s with todo := { s.todo with between := ws } }.doWork w := by
  unfold State.tick
  rw [h]

/-- Settles O1: by the definition of a step, which looks at the waiting commands and then at the works. -/
theorem stepRunsFrontCommand : Obligations.StepRunsFrontCommand := by
  refine ⟨fun s i rest h => step_of_command h, fun s h hb => ?_, fun s w ws h hb => ?_⟩ <;> rw [step_of_no_command h]
  · rw [State.tick_idle s hb]
  · rw [State.tick_work hb]

/-! ## The waiting commands, the power and the pin -/

/-- The waiting commands, the power and the pin are the same. -/
def State.sameHost (s t : State) : Prop :=
  t.pending = s.pending ∧ t.powerGood = s.powerGood ∧ t.pinAsserted = s.pinAsserted

theorem State.sameHost.trans (h : s.sameHost t) (g : t.sameHost v) : s.sameHost v :=
  ⟨g.1.trans h.1, g.2.1.trans h.2.1, g.2.2.trans h.2.2⟩

theorem State.InFrame.sameHost (h : s.InFrame e t) : s.sameHost t := by
  induction h with
  | refl => exact ⟨rfl, rfl, rfl⟩
  | aside _ hv ih =>
    exact ih.trans ⟨(congrArg State.pending hv.1 :), (congrArg State.powerGood hv.1 :), (congrArg State.pinAsserted hv.1 :)⟩
  | listened _ _ ih =>
    exact ih.trans ⟨State.endListening_pending _, State.endListening_powerGood _, State.endListening_pinAsserted _⟩
  | _ => assumption

theorem State.closeFrame_sameHost (s : State) : s.sameHost s.closeFrame := by
  unfold State.closeFrame
  dsimp only
  split
  · exact ⟨rfl, rfl, rfl⟩
  · have h := ((State.InFrame.refl s).finishFrame).sameHost
    split
    · exact h
    · exact h

theorem State.openFrame_sameHost (sw lg : Highway) (o : FrameOrder) (s : State) : s.sameHost (s.openFrame sw lg o) := by
  have h := ((State.InFrame.refl (e := False) (s.beginFrame sw lg o.eventsLast o.between)).onTrunk
    (Trunk.Acts.refl _).openSlots).earlyWorks o
  exact h.sameHost

theorem State.markerInReset_sameHost (sw lg : Highway) (straps : BitVec 4) (o : FrameOrder) (s : State) :
    s.sameHost (s.markerInReset sw lg straps o) := by
  unfold State.markerInReset
  split
  · exact ⟨rfl, rfl, rfl⟩
  · exact (s.beginLoading straps).openFrame_sameHost sw lg o

theorem State.marker_sameHost (sw lg : Highway) (straps : BitVec 4) (o : FrameOrder) (s : State) :
    s.sameHost (s.marker sw lg straps o) := by
  unfold State.marker
  dsimp only
  split
  · exact s.markerInReset_sameHost sw lg straps o
  · split
    · exact s.closeFrame_sameHost.trans (State.markerInReset_sameHost sw lg straps o _)
    · exact s.closeFrame_sameHost.trans (State.openFrame_sameHost sw lg o { s.closeFrame with missCount := 0 })

theorem State.missedMarker_sameHost (sw lg : Highway) (o : FrameOrder) (s : State) : s.sameHost (s.missedMarker sw lg o) := by
  unfold State.missedMarker
  dsimp only
  split
  · exact ⟨rfl, rfl, rfl⟩
  · split
    · exact s.closeFrame_sameHost
    · exact s.closeFrame_sameHost.trans (State.openFrame_sameHost sw lg o { s.closeFrame with missCount := _ })

theorem State.bootReadComplete_sameHost (bs : List Byte) (s : State) : s.sameHost (s.bootReadComplete bs) := by
  unfold State.bootReadComplete
  split
  · unfold State.endRead
    split <;> exact ⟨rfl, rfl, rfl⟩
  · exact ⟨rfl, rfl, rfl⟩

/-- Settles O2: the commands within a frame keep all three; each of the others is looked at by itself. -/
theorem everyCommandCompletes : Obligations.EveryCommandCompletes := by
  intro i s
  cases hi : withinFrame i with
  | true =>
    obtain ⟨t, ht, h⟩ := exec_inFrame i s hi
    obtain ⟨hpending, hpower, hpin⟩ := h.sameHost
    exact ⟨t, ht, hpending, fun _ => hpower, fun _ _ => hpin⟩
  | false =>
    have same : ∀ t, exec i s = .next t → s.sameHost t → ∃ t, exec i s = .next t ∧ t.pending = s.pending ∧
        (i ≠ .powerOn → t.powerGood = s.powerGood) ∧
        (i ≠ .resetPin → i ≠ .resetPinRelease → t.pinAsserted = s.pinAsserted) := fun t ht h =>
      ⟨t, ht, h.1, fun _ => h.2.1, fun _ _ => h.2.2⟩
    cases i with
    | powerOn => exact ⟨_, rfl, rfl, fun h => absurd rfl h, fun _ _ => rfl⟩
    | resetPin => exact ⟨_, rfl, rfl, fun _ => rfl, fun h => absurd rfl h⟩
    | resetPinRelease =>
      refine ⟨_, rfl, ?_, fun _ => ?_, fun _ h => absurd rfl h⟩ <;>
      · unfold State.releasePin
        split
        · split <;> rfl
        · rfl
    | timingLoss =>
      refine same _ rfl ?_
      unfold State.timingLoss
      split <;> exact ⟨rfl, rfl, rfl⟩
    | frameMarker sw lg straps o => exact same _ rfl (s.marker_sameHost sw lg straps o)
    | missedFrameMarker sw lg o => exact same _ rfl (s.missedMarker_sameHost sw lg o)
    | bootReadComplete r => exact same _ rfl (s.bootReadComplete_sameHost r)
    | orderStart =>
      refine same _ rfl ?_
      unfold State.orderStart
      split
      · exact s.closeFrame_sameHost
      · exact ⟨rfl, rfl, rfl⟩
    | _ => cases hi

/-! ## Starts -/

theorem Circuit.start_atStart : Circuit.start.atStart := by
  refine ⟨rfl, rfl, rfl, rfl, rfl, rfl, rfl, rfl, rfl, rfl, rfl, rfl, rfl, rfl, rfl, rfl, rfl, rfl, rfl, rfl, rfl, rfl, rfl, rfl,
    rfl, rfl, rfl, rfl, rfl, rfl, rfl, rfl, fun _ => rfl, fun _ => rfl⟩

/-- A start leaves Table 9.2 with its cause. -/
theorem State.start_atStart (k : StartCause) (s : State) : (s.start k).atStart k := by
  refine ⟨rfl, rfl, rfl, rfl, rfl, rfl, rfl, rfl, rfl, rfl, rfl, rfl, rfl, ?_, rfl, rfl, rfl, ?_, fun _ => rfl, fun _ => rfl, rfl, rfl,
    rfl, rfl, rfl, rfl, rfl, rfl, rfl, fun c => ?_⟩
  · show ∀ p, p < 15 → allStations.getLsbD p = true
    decide
  · show ∀ w ∈ List.replicate 8 Window.start, _
    intro w hw
    rw [List.eq_of_mem_replicate hw]
    exact ⟨rfl, rfl⟩
  · show ((Trunk.start k).circuit c).atStart
    rw [Trunk.circuit_start]
    exact Circuit.start_atStart

/-- Settles O3: each start command is `State.start`, or its test fails. -/
theorem startCommandsSetTable92 : Obligations.StartCommandsSetTable92 := by
  intro s
  have release : exec .resetPinRelease s = .next s.releasePin := rfl
  have loss : exec .timingLoss s = .next s.timingLoss := rfl
  refine ⟨⟨_, rfl, State.start_atStart _ _, rfl, rfl⟩, ⟨_, rfl, State.start_atStart _ _, rfl, rfl⟩, fun hpin hpower => ?_,
    fun hpin hpower => ?_, fun hpin => ?_, fun hmiss hr => ?_, fun h => ?_⟩
  · refine ⟨_, release, ?_⟩
    unfold State.releasePin
    rw [if_pos hpin, if_pos hpower]
    exact ⟨State.start_atStart _ _, rfl, hpower⟩
  · rw [release]
    unfold State.releasePin
    rw [if_pos hpin, if_neg (by simp [hpower])]
  · rw [release]
    unfold State.releasePin
    rw [if_neg (by simp [hpin])]
  · refine ⟨_, loss, ?_⟩
    unfold State.timingLoss
    rw [if_pos ⟨hmiss, hr⟩]
    exact ⟨State.start_atStart _ _, rfl, rfl⟩
  · rw [loss]
    unfold State.timingLoss
    rw [if_neg fun hgo => ?_]
    exact h.elim (fun hlt => absurd hgo.1 (Nat.not_le.mpr hlt)) hgo.2

/-- Settles O56: every store is empty and every item at its start value. -/
theorem resetKeepsEveryInvariant : Obligations.ResetKeepsEveryInvariant := by
  have circuit : ∀ c, State.reset.circuit c = Circuit.start := fun c => Trunk.circuit_start _ c
  refine ⟨⟨rfl, rfl, rfl, fun c => ?_⟩, ?_, fun c => ?_, ?_, ?_⟩
  · rw [circuit]
    exact ⟨rfl, rfl⟩
  · rw [State.recordsInRange_iff]
    exact ⟨Circuit.Ranges.invariant.settings, fun c => by rw [show State.reset.trunk.circuit c = _ from circuit c]; exact Circuit.Ranges.start⟩
  · rw [circuit]
    exact nofun
  · rw [State.withinCapacity_iff]
    exact ⟨Nat.zero_le _, Nat.zero_le _, Nat.zero_le _, ⟨show 1 ≤ 64 by decide, Nat.zero_le _, Nat.zero_le _, fun _ => Nat.zero_le _⟩,
      rfl, Nat.zero_le _, show 0 < 281474976710656 by decide, fun _ => .start⟩
  · rw [State.placesAgree_iff]
    have quiet := Trunk.quiet_start .power
    exact ⟨quiet.agrees, fun _ => quiet, fun _ _ c => by rw [circuit]; rfl⟩

/-! ## Loudness -/

theorem magnitude_a_testBit (b : Byte) {i : Nat} (h : i < 7) : (magnitude .a b).testBit i = (b.getLsbD i != decide (i % 2 = 0)) := by
  have mask : (0x55 : Byte).getLsbD i = decide (i % 2 = 0) := by
    interval_cases i <;> rfl
  have bits : (magnitude .a b).testBit i = (b ^^^ 0x55).getLsbD i := by
    show ((b ^^^ 0x55).toNat % 2 ^ 7).testBit i = _
    rw [Nat.testBit_mod_two_pow]
    simp [h, BitVec.getLsbD]
  rw [bits, BitVec.getLsbD_xor, mask]

theorem magnitude_lt (l : Law) (b : Byte) : magnitude l b < 128 := by
  have := b.isLt
  cases l with
  | mu =>
    unfold magnitude
    dsimp only
    split <;> omega
  | a => exact Nat.mod_lt _ (by decide)

/-- Settles O12: by the two definitions of the index. -/
theorem magnitudeIndexAndQuiet : Obligations.MagnitudeIndexAndQuiet := by
  refine ⟨fun b h => ?_, fun b h => ?_, fun b i h => magnitude_a_testBit b h, magnitude_lt .a, fun l => ?_,
    fun st b => decide_eq_true_iff, fun st b h => decide_eq_false ?_⟩
  · simp only [magnitude, if_pos h]
    omega
  · have := b.isLt
    simp only [magnitude, if_neg (Nat.not_lt.mpr h)]
    omega
  · cases l <;> rfl
  · rw [h]
    have := magnitude_lt st.law b
    omega

end Sys2Proof.Machine
end

section
/-! SUPPORT. What the doings of a frame leave of the station: its configuration and its counts (R1, R139), and the bindings. -/

namespace Sys2Proof.Machine

variable {s t v : State} {e : Prop}

/-! ## The binding of a circuit -/

/-- A property of circuit records that every rule keeps is kept by every act. -/
theorem Trunk.Acts.all {x : Ctx} {t u : Trunk} {P : Nat → Circuit → Prop} (hr : Circuit.Rule x P)
    (hsame : ∀ c (r r' : Circuit), r.SameStanding r' → P c r → P c r') (h : t.Acts x u) (ht : t.All P) : u.All P := by
  induction h with
  | refl => exact ht
  | modify c f hf _ ih => exact ih.modify (hsame c _ _ hf (ih c))
  | mapCircuits f hf _ ih => exact ih.mapCircuits fun c hc => hsame c _ _ (hf c _) hc
  | openSlots _ ih => exact ih.openSlots hr
  | reportStation p k _ ih => exact ih.reportStation p k
  | dropReports n _ ih => exact ih.of_eq fun _ => rfl
  | alignmentTimeout c _ ih => exact ih.alignmentTimeout hr
  | bridgeIdle c _ ih => exact ih.bridgeIdle hr
  | streamLoss c _ ih => exact ih.streamLoss hr
  | peerHoldExpiry c _ ih => exact ih.peerHoldExpiry hr
  | holdExpiry c _ ih => exact ih.holdExpiry hr
  | settleExpiry c _ ih => exact ih.settleExpiry hr
  | windowJudgement c _ ih => exact ih.windowJudgement hr
  | peerEvent c _ ih => exact ih.peerEvent hr
  | quietSplice c _ ih => exact ih.quietSplice hr
  | quietReverse c _ ih => exact ih.quietReverse hr
  | countRelease c _ ih => exact ih.countRelease hr
  | deliver c cell _ ih => exact ih.deliver hr cell
  | mismatch c ph _ ih => exact ih.mismatch hr ph
  | cutOne c _ _ ih => exact ih.cutOne hr
  | revertOne c _ ih => exact ih.revertOne hr
  | commitOne c _ ih => exact ih.commitOne hr
  | forceOne c _ ih => exact ih.forceOne hr
  | resume _ ih => exact ih.resume hr

/-- No change of a circuit record changes its binding. -/
theorem Circuit.binding_rule (x : Ctx) (b : Nat → Option Binding) : Circuit.Rule x (fun c r => r.binding = b c) where
  reported _ _ _ h := h
  joined _ _ _ _ _ h := h
  left _ _ h := h
  spliced _ _ _ _ _ _ _ _ h := h
  splicedBlind _ _ _ _ h := h
  released _ _ _ _ h := h
  committed _ _ h := h
  waiting _ _ _ _ h := h
  excess _ _ h := h
  aligned _ _ h := h
  deficit _ _ _ _ h := h
  queued _ _ h := h
  bridged _ _ h := h
  coppered _ _ h := h
  reversed _ _ _ _ h := h
  rebridged _ _ _ h := h
  held _ _ h := h
  downed _ _ h := h
  returned _ _ h := h
  phase _ _ _ h := h
  found _ _ _ h := h
  verifyCleared _ _ h := h
  realigning _ _ h := h
  offsetLost _ _ h := h
  judged _ _ _ h := h
  searched _ r s h := (r.sameStanding_search x.settings s).binding.trans h
  verified _ r s o h := (r.sameStanding_verify x.settings s o).binding.trans h
  reverting _ _ h := h
  deferred _ _ h := h
  returnedToCopper _ _ h := h
  guardEnded _ r h := r.sameStanding_guardEnd.binding.trans h
  fillEnded _ r h := (r.sameStanding_fillEnd x.frame).binding.trans h
  counted _ _ h := h
  idleCounted _ r b sw h := (r.sameStanding_countIdle x.settings b sw).binding.trans h
  opened c r h := (r.sameStanding_openSlot x c).binding.trans h
  given c r h := (r.sameStanding_giveOnce x c).binding.trans h
  passed _ _ _ _ h := h
  received _ _ _ h := h
  pushed _ _ _ h := h
  written _ _ _ h := h
  writtenJudged _ r off cell h := (r.sameStanding_writeJudged off cell).binding.trans h
  obase _ r off h := (r.sameStanding_takeObase off).binding.trans h
  window _ r s h := (r.sameStanding_takeWindow x.frame s).binding.trans h
  releaseSent _ _ _ _ h := h

theorem State.InFrame.binding (h : s.InFrame e t) (c : Nat) : (t.circuit c).binding = (s.circuit c).binding := by
  have all : t.trunk.All fun c r => r.binding = (s.circuit c).binding := by
    induction h with
    | refl => exact fun _ => rfl
    | trunk hu _ ih => exact hu.all (Circuit.binding_rule _ _) (fun c r r' hs hb => hs.binding.trans hb) ih
    | @boundary t _ _ ih => exact ih.countBoundary (Circuit.binding_rule t.ctx _)
    | @aside t w _ hv ih =>
      have trunk : w.trunk = t.trunk := (congrArg State.trunk hv.1 :)
      exact trunk ▸ ih
    | @listened t _ _ ih => exact (State.endListening_trunk t) ▸ ih
    | _ => assumption
  exact all c

/-! ## The configuration and the counts -/

/-- The window with its matched flag clear. -/
def Window.unmatched (w : Window) : Window := { w with matched := false }

/-- Everything of the station that the doings of a frame leave, the windows apart from their matched flags. -/
structure State.SameSetup (s t : State) : Prop where
  rest : { t with
    stationState := s.stationState, windows := s.windows, peers := s.peers, listenLeft := s.listenLeft, paused := s.paused,
    orderQueue := s.orderQueue, orderOverflow := s.orderOverflow, replyQueue := s.replyQueue,
    restartTaken := s.restartTaken, trunk := s.trunk, todo := s.todo, bearerPlaces := s.bearerPlaces,
    servicePlace := s.servicePlace, laneOut := s.laneOut, freeUsed := s.freeUsed } = s
  windows : t.windows.map Window.unmatched = s.windows.map Window.unmatched
  state : t.stationState = s.stationState ∨ (s.stationState = .listening ∧ t.stationState = .operating)

theorem Window.unmatched_reform (p : Nat) (b : Window → Bool) (w : Window) :
    (if w.peer = p then { w with matched := b w } else w).unmatched = w.unmatched := by
  split <;> rfl

theorem State.reformMatched_unmatched (p : Nat) (s : State) :
    (s.reformMatched p).windows.map Window.unmatched = s.windows.map Window.unmatched := by
  unfold State.reformMatched
  rw [List.map_map]
  exact List.map_congr_left fun w _ => w.unmatched_reform p _

theorem State.InFrame.sameSetup (h : s.InFrame e t) : s.SameSetup t := by
  induction h with
  | refl => exact ⟨rfl, rfl, .inl rfl⟩
  | @aside t w _ hv ih =>
    obtain ⟨hrest, hwindows, hstate⟩ := ih
    have windows : w.windows = t.windows := (congrArg State.windows hv.1 :)
    have state : w.stationState = t.stationState := (congrArg State.stationState hv.1 :)
    rw [← windows] at hwindows
    rw [← state] at hstate
    refine ⟨?_, hwindows, hstate⟩
    rw [← hv.1] at hrest
    exact hrest
  | @listened t _ _ ih =>
    obtain ⟨hrest, hwindows, hstate⟩ := ih
    unfold State.endListening
    split
    next hl => exact ⟨hrest, hwindows, .inr ⟨hstate.elim (fun hs => hs ▸ hl.1) And.left, rfl⟩⟩
    · exact ⟨hrest, hwindows, hstate⟩
  | matched p _ ih => exact ⟨ih.rest, (State.reformMatched_unmatched p _).trans ih.windows, ih.state⟩
  | trunk _ _ ih => exact ⟨ih.rest, ih.windows, ih.state⟩
  | boundary _ _ ih => exact ⟨ih.rest, ih.windows, ih.state⟩
  | replies _ _ _ ih => exact ⟨ih.rest, ih.windows, ih.state⟩
  | orders _ _ _ ih => exact ⟨ih.rest, ih.windows, ih.state⟩
  | overflow _ ih => exact ⟨ih.rest, ih.windows, ih.state⟩
  | peer _ _ _ _ ih => exact ⟨ih.rest, ih.windows, ih.state⟩

theorem State.InFrame.stationState (h : s.InFrame e t) (he : ¬ e) : t.stationState = s.stationState := by
  induction h with
  | refl => rfl
  | aside _ hv ih => exact (congrArg State.stationState hv.1 :).trans ih
  | listened hl => exact absurd hl he
  | _ => assumption

theorem State.SameSetup.stationNo (h : s.SameSetup t) : t.stationNo = s.stationNo := (congrArg State.stationNo h.rest :)
theorem State.SameSetup.startCause (h : s.SameSetup t) : t.startCause = s.startCause := (congrArg State.startCause h.rest :)
theorem State.SameSetup.configFault (h : s.SameSetup t) : t.configFault = s.configFault := (congrArg State.configFault h.rest :)
theorem State.SameSetup.settings (h : s.SameSetup t) : t.settings = s.settings := (congrArg State.settings h.rest :)
theorem State.SameSetup.clampCount (h : s.SameSetup t) : t.clampCount = s.clampCount := (congrArg State.clampCount h.rest :)
theorem State.SameSetup.clampedItems (h : s.SameSetup t) : t.clampedItems = s.clampedItems :=
  (congrArg State.clampedItems h.rest :)
theorem State.SameSetup.bootReading (h : s.SameSetup t) : t.bootReading = s.bootReading := (congrArg State.bootReading h.rest :)
theorem State.SameSetup.frameCount (h : s.SameSetup t) : t.frameCount = s.frameCount := (congrArg State.frameCount h.rest :)
theorem State.SameSetup.cycleCount (h : s.SameSetup t) : t.cycleCount = s.cycleCount := (congrArg State.cycleCount h.rest :)
theorem State.SameSetup.missCount (h : s.SameSetup t) : t.missCount = s.missCount := (congrArg State.missCount h.rest :)
theorem State.SameSetup.switchIn (h : s.SameSetup t) : t.switchIn = s.switchIn := (congrArg State.switchIn h.rest :)
theorem State.SameSetup.legacyIn (h : s.SameSetup t) : t.legacyIn = s.legacyIn := (congrArg State.legacyIn h.rest :)
theorem State.SameSetup.onStar (h : s.SameSetup t) : t.stationState.onStar = s.stationState.onStar := by
  rcases h.state with hs | ⟨hs, ht⟩
  · rw [hs]
  · rw [hs, ht]
    rfl
theorem State.SameSetup.passes (h : s.SameSetup t) : t.stationState.passes = s.stationState.passes := by
  rcases h.state with hs | ⟨hs, ht⟩
  · rw [hs]
  · rw [hs, ht]
    rfl

/-! ## The windows outside a beacon -/

theorem State.losePeer_windows (p : Nat) (s : State) : (s.losePeer p).windows = s.windows := by
  unfold State.losePeer
  split <;> rfl

theorem State.losePeers_windows (s : State) : s.losePeers.windows = s.windows := by
  unfold State.losePeers
  generalize List.range 15 = ps
  induction ps generalizing s with
  | nil => rfl
  | cons p ps ih => exact (ih (s.losePeer p)).trans (s.losePeer_windows p)

theorem State.takeEvents_windows (s : State) : s.takeEvents.windows = s.windows := by
  rw [State.takeEvents, State.onTrunk_windows, State.endListening_windows, State.onTrunk_windows, State.losePeers_windows]

theorem State.takeHead_windows (s : State) : s.takeHead.windows = s.windows := by
  unfold State.takeHead
  split
  · rfl
  next o rest _ => exact (congrArg State.windows (State.carryOut_sameButAct o { s with orderQueue := rest }) :)

theorem State.takeOrders_windows (n : Nat) (s : State) : (s.takeOrders n).windows = s.windows := by
  induction n generalizing s with
  | zero => rfl
  | succ n ih =>
    unfold State.takeOrders
    split
    · exact (ih _).trans s.takeHead_windows
    · rfl

theorem State.takeAll_windows (s : State) : s.takeAll.windows = s.windows := s.takeOrders_windows _

theorem State.takeRest_windows (s : State) : s.takeRest.windows = s.windows := by
  unfold State.takeRest
  split
  · rw [State.takeAll_windows, State.takeEvents_windows, State.takeQuiet, State.onTrunk_windows, State.giveAll_windows,
      State.countIdles_windows]
  · rw [State.takeQuiet, State.onTrunk_windows, State.giveAll_windows, State.countIdles_windows, State.takeAll_windows,
      State.takeEvents_windows]

theorem State.finishFrame_windows (s : State) : s.finishFrame.windows = s.windows := by
  simp [State.finishFrame, State.takeAll_windows, State.takeRest_windows]

theorem State.earlyWorks_windows (o : FrameOrder) (s : State) : (s.earlyWorks o).windows = s.windows := by
  simp [State.earlyWorks, apply_ite State.windows]

/-! ## A marker that is no start -/

/-- The frame is closed without a start. -/
theorem State.closeFrame_of_no_start (hm : s.missCount < 16) (hr : s.finishFrame.sendsRestart = false) :
    s.closeFrame = s.finishFrame := by
  unfold State.closeFrame
  dsimp only
  rw [if_neg (Nat.not_le.mpr hm), if_neg (by simp [hr])]

theorem State.finishFrame_sameSetup (s : State) : s.SameSetup s.finishFrame := (State.InFrame.refl s).finishFrame.sameSetup

theorem State.finishFrame_ne_reset (h : s.stationState ≠ .reset) : s.finishFrame.stationState ≠ .reset := by
  rcases s.finishFrame_sameSetup.state with hs | ⟨-, hs⟩ <;> rw [hs]
  · exact h
  · decide

/-- The miss count after a marker: 0 when it came, one more when it did not (R28, R29). -/
def Instr.markerMiss (n : Nat) : Instr → Nat
  | .missedFrameMarker .. => countUp 16 n
  | _ => 0

/-- A marker that finds the station outside RESET, with no start due, closes the frame and opens the next. -/
theorem exec_marker_of_no_start {i : Instr} {sw lg : Highway} {straps : BitVec 4} {o : FrameOrder}
    (hi : i = .frameMarker sw lg straps o ∨ i = .missedFrameMarker sw lg o) (hs : s.stationState ≠ .reset)
    (hm : s.missCount < 16) (hr : s.finishFrame.sendsRestart = false) :
    exec i s = .next ({ s.finishFrame with missCount := Instr.markerMiss s.missCount i }.openFrame sw lg o) := by
  have closed := State.closeFrame_of_no_start hm hr
  have open_ := State.finishFrame_ne_reset hs
  rcases hi with rfl | rfl
  · show Host.Outcome.next (s.marker sw lg straps o) = _
    unfold State.marker
    dsimp only
    rw [if_neg hs, closed, if_neg open_]
    rfl
  · show Host.Outcome.next (s.missedMarker sw lg o) = _
    unfold State.missedMarker
    dsimp only
    rw [if_neg hs, closed, if_neg open_, s.finishFrame_sameSetup.missCount]
    rfl

/-- What follows the beginning of a frame. -/
theorem State.openFrame_inFrame (sw lg : Highway) (o : FrameOrder) (s : State) :
    (s.beginFrame sw lg o.eventsLast o.between).InFrame False (s.openFrame sw lg o) :=
  ((State.InFrame.refl _).onTrunk (Trunk.Acts.refl _).openSlots).earlyWorks o

theorem State.openFrame_windows (sw lg : Highway) (o : FrameOrder) (s : State) : (s.openFrame sw lg o).windows = s.windows := by
  rw [State.openFrame, State.earlyWorks_windows, State.onTrunk_windows, State.beginFrame_windows]

/-- Settles O11: what happens in a frame keeps the configuration, and a marker that is no start is what happens in two. -/
theorem configurationFixedBetweenStarts : Obligations.ConfigurationFixedBetweenStarts := by
  refine ⟨fun i s t hexec hmarker hmissed hboot hon hpin hrelease hloss hstart => ?_,
    fun s t i sw lg straps o hi hs hm hr hexec => ?_⟩
  · have hi : withinFrame i = true := by
      cases i with
      | frameMarker sw lg st o => exact absurd rfl (hmarker sw lg st o)
      | missedFrameMarker sw lg o => exact absurd rfl (hmissed sw lg o)
      | bootReadComplete m => exact absurd rfl (hboot m)
      | powerOn => exact absurd rfl hon
      | resetPin => exact absurd rfl hpin
      | resetPinRelease => exact absurd rfl hrelease
      | timingLoss => exact absurd rfl hloss
      | orderStart => exact absurd rfl hstart
      | _ => rfl
    obtain ⟨u, hu, h⟩ := exec_inFrame i s hi
    obtain rfl := Host.Outcome.next.inj (hu.symm.trans hexec)
    have setup := h.sameSetup
    exact ⟨setup.stationNo, setup.startCause, setup.configFault, setup.settings, setup.clampCount, setup.clampedItems,
      setup.frameCount, setup.cycleCount, setup.missCount, h.stationState, setup.windows, h.binding⟩
  · obtain rfl := Host.Outcome.next.inj ((exec_marker_of_no_start hi hs hm hr).symm.trans hexec)
    have closed := (State.InFrame.refl s).finishFrame
    have opened := State.openFrame_inFrame sw lg o { s.finishFrame with missCount := Instr.markerMiss s.missCount i }
    have setup := closed.sameSetup
    have setup' := opened.sameSetup
    refine ⟨setup'.stationNo.trans setup.stationNo, setup'.startCause.trans setup.startCause,
      setup'.configFault.trans setup.configFault, setup'.settings.trans setup.settings,
      setup'.clampCount.trans setup.clampCount, setup'.clampedItems.trans setup.clampedItems,
      setup'.bootReading.trans setup.bootReading, (State.openFrame_windows _ _ _ _).trans s.finishFrame_windows, ?_,
      fun c => (opened.binding c).trans (closed.binding c)⟩
    rw [opened.stationState id]
    exact setup.state

end Sys2Proof.Machine
end

section
/-! Markers in RESET, at the sixteenth miss and behind the RESTART's reply, and ORDER_START. -/

namespace Sys2Proof.Machine

variable {s t u v : State} {e : Prop}

/-! ## Slots that pass -/

theorem State.passThrough_passedSlots (sw lg : Highway) (s : State) : s.passedSlots sw lg (s.passThrough sw lg) := by
  refine ⟨rfl, ⟨rfl, rfl, rfl⟩, ⟨rfl, rfl⟩, fun c hc => ?_⟩
  have slot : (s.passThrough sw lg).circuit c = (s.circuit c).passSlot sw lg c := by
    show (s.trunk.mapCircuits fun c r => r.passSlot sw lg c).circuit c = _
    rw [Trunk.circuit_mapCircuits, if_pos hc]
    rfl
  rw [slot]
  exact ⟨rfl, rfl, rfl, rfl⟩

theorem State.marker_of_held (hh : s.pinAsserted = true ∨ s.powerGood = false) (sw lg : Highway)
    (straps : BitVec 4) (o : FrameOrder) : s.markerInReset sw lg straps o = s.passThrough sw lg := by
  unfold State.markerInReset State.heldInReset
  rw [if_pos]
  rcases hh with hh | hh <;> simp [hh]

theorem State.marker_of_free (hpin : s.pinAsserted = false) (hpower : s.powerGood = true) (sw lg : Highway) (straps : BitVec 4)
    (o : FrameOrder) : s.markerInReset sw lg straps o = (s.beginLoading straps).openFrame sw lg o := by
  unfold State.markerInReset State.heldInReset
  rw [if_neg (by simp [hpin, hpower])]

/-- A marker that closes a frame with a start: in RESET the next frame is not begun, or it is frame 0 of the start. -/
theorem State.missedMarker_of_started (hs : s.stationState ≠ .reset) (hc : s.closeFrame.stationState = .reset) (sw lg : Highway)
    (o : FrameOrder) : s.missedMarker sw lg o = s.closeFrame.passThrough sw lg := by
  unfold State.missedMarker
  dsimp only
  rw [if_neg hs, if_pos hc]

theorem State.marker_of_started (hs : s.stationState ≠ .reset) (hc : s.closeFrame.stationState = .reset) (sw lg : Highway)
    (straps : BitVec 4) (o : FrameOrder) : s.marker sw lg straps o = s.closeFrame.markerInReset sw lg straps o := by
  unfold State.marker
  dsimp only
  rw [if_neg hs, if_pos hc]

/-- The markers that leave the station in RESET behind a start. -/
theorem exec_marker_of_started {i : Instr} {sw lg : Highway} {straps : BitVec 4} {o : FrameOrder}
    (hi : i = .missedFrameMarker sw lg o ∨ (i = .frameMarker sw lg straps o ∧ (s.pinAsserted = true ∨ s.powerGood = false)))
    (hs : s.stationState ≠ .reset) (hc : s.closeFrame.stationState = .reset) :
    exec i s = .next (s.closeFrame.passThrough sw lg) := by
  obtain ⟨-, hpower, hpin⟩ := s.closeFrame_sameHost
  rcases hi with rfl | ⟨rfl, hheld⟩
  · show Host.Outcome.next (s.missedMarker sw lg o) = _
    rw [State.missedMarker_of_started hs hc]
  · show Host.Outcome.next (s.marker sw lg straps o) = _
    rw [State.marker_of_started hs hc, State.marker_of_held (by rwa [hpin, hpower])]

/-! ## Frame 0 of a start -/

theorem State.fillService_offStar (h : s.stationState.onStar = false) : s.fillService = s := by
  unfold State.fillService
  rw [if_neg (by simp [h])]

/-- The works that begin a frame leave the order unit of a station off the star. -/
theorem State.earlyWorks_offStar (o : FrameOrder) (h : s.stationState.onStar = false) :
    (s.earlyWorks o).orderQueue = s.orderQueue ∧ (s.earlyWorks o).replyQueue = s.replyQueue ∧
      (s.earlyWorks o).restartTaken = s.restartTaken ∧ (s.earlyWorks o).laneOut = s.laneOut := by
  refine ⟨?_, ?_, ?_, ?_⟩
  · simp [State.earlyWorks, apply_ite State.orderQueue]
  · unfold State.earlyWorks
    dsimp only
    rw [State.fillService_offStar, ite_self]
    · simp [apply_ite State.replyQueue]
    · simpa [apply_ite State.stationState] using h
  · simp [State.earlyWorks, apply_ite State.restartTaken]
  · simp [State.earlyWorks, apply_ite State.laneOut]

theorem State.beginLoading_stationState (straps : BitVec 4) (s : State) :
    (s.beginLoading straps).stationState = if straps = 15 then .offStar else .loading := rfl

theorem State.beginLoading_offStar (straps : BitVec 4) (s : State) : (s.beginLoading straps).stationState.onStar = false := by
  rw [State.beginLoading_stationState]
  split <;> rfl

/-- Frame 0 of a station that was in RESET. -/
structure State.FrameZero (straps : BitVec 4) (u t : State) : Prop where
  frameCount : t.frameCount = some 0
  cycleCount : t.cycleCount = u.cycleCount
  missCount : t.missCount = u.missCount
  startCause : t.startCause = u.startCause
  stationNo : t.stationNo = some straps.toNat
  bootReading : t.bootReading = !decide (straps = 15)
  settings : t.settings = u.settings
  windows : t.windows = u.windows
  stationState : t.stationState = if straps = 15 then .offStar else .loading
  orderQueue : t.orderQueue = u.orderQueue
  replyQueue : t.replyQueue = u.replyQueue
  restartTaken : t.restartTaken = u.restartTaken
  laneOut : t.laneOut = u.laneOut

theorem State.openFrame_frameZero (sw lg : Highway) (straps : BitVec 4) (o : FrameOrder) (hf : u.frameCount = none) :
    u.FrameZero straps ((u.beginLoading straps).openFrame sw lg o) := by
  have opened := State.openFrame_inFrame sw lg o (u.beginLoading straps)
  have setup := opened.sameSetup
  have off : (((u.beginLoading straps).beginFrame sw lg o.eventsLast o.between).onTrunk Trunk.openSlots).stationState.onStar = false :=
    u.beginLoading_offStar straps
  obtain ⟨horders, hreplies, hrestart, hlane⟩ := State.earlyWorks_offStar o off
  refine ⟨setup.frameCount.trans ?_, setup.cycleCount.trans ?_, setup.missCount, setup.startCause, setup.stationNo,
    setup.bootReading, setup.settings, State.openFrame_windows _ _ _ _, opened.stationState id, horders, hreplies, hrestart, hlane⟩
  · show some (nextFrame u.frameCount) = _
    rw [hf]
    rfl
  · show (if u.frameCount.isSome then _ else _) = _
    rw [hf]
    rfl

/-! ## The sixteenth miss -/

theorem State.closeFrame_of_misses (hm : 16 ≤ s.missCount) : s.closeFrame = s.start .timing := by
  unfold State.closeFrame
  rw [if_pos hm]

/-- Settles O5: a marker in RESET passes the slots or begins frame 0, and at 16 misses the closing of the frame is the start. -/
theorem markersInResetAndTimingLoss : Obligations.MarkersInResetAndTimingLoss := by
  refine ⟨fun s sw lg straps o i hs hi => ?_, fun s sw lg straps o hs hf hpin hpower => ?_, fun s sw lg straps o hs hm => ?_⟩
  · have passes : exec i s = .next (s.passThrough sw lg) := by
      rcases hi with rfl | ⟨rfl, hheld⟩
      · show Host.Outcome.next (s.missedMarker sw lg o) = _
        unfold State.missedMarker
        rw [if_pos hs]
      · show Host.Outcome.next (s.marker sw lg straps o) = _
        unfold State.marker
        rw [if_pos hs, State.marker_of_held hheld]
    exact ⟨_, passes, s.passThrough_passedSlots sw lg⟩
  · have begins : exec (.frameMarker sw lg straps o) s = .next ((s.beginLoading straps).openFrame sw lg o) := by
      show Host.Outcome.next (s.marker sw lg straps o) = _
      unfold State.marker
      rw [if_pos hs, State.marker_of_free hpin hpower]
    have zero := State.openFrame_frameZero sw lg straps o hf
    refine ⟨_, begins, zero.frameCount, zero.stationNo, zero.cycleCount, zero.missCount, fun h15 => ⟨?_, ?_⟩,
      fun h15 => ⟨?_, ?_⟩, zero.windows, zero.settings, zero.orderQueue, zero.replyQueue⟩
    · rw [zero.stationState, if_pos h15]
    · rw [zero.bootReading, decide_eq_true h15]
      rfl
    · rw [zero.stationState, if_neg h15]
    · rw [zero.bootReading, decide_eq_false h15]
      rfl
  · have closed := State.closeFrame_of_misses hm
    have reset : s.closeFrame.stationState = .reset := by rw [closed]; rfl
    refine ⟨⟨_, exec_marker_of_started (straps := straps) (.inl rfl) hs reset, ?_, ?_, s.closeFrame, ?_,
      State.passThrough_passedSlots _ _ _⟩, fun hpin hpower => ?_⟩
    · exact s.closeFrame_sameHost.2.1
    · exact s.closeFrame_sameHost.2.2
    · rw [closed]
      exact s.start_atStart .timing
    · have begins : exec (.frameMarker sw lg straps o) s = .next (((s.start .timing).beginLoading straps).openFrame sw lg o) := by
        show Host.Outcome.next (s.marker sw lg straps o) = _
        rw [State.marker_of_started hs reset, closed, State.marker_of_free (s := s.start .timing) hpin hpower]
      have zero := State.openFrame_frameZero (u := s.start .timing) sw lg straps o rfl
      exact ⟨_, begins, zero.startCause, zero.frameCount, zero.missCount, zero.cycleCount, zero.stationNo, zero.stationState⟩

/-! ## The RESTART's reply -/

theorem State.takeAll_of_not_takes (h : s.takes = false) : s.takeAll = s := by
  unfold State.takeAll
  cases s.orderQueue.length with
  | zero => rfl
  | succ n =>
    unfold State.takeOrders
    rw [if_neg (by simp [h])]

theorem State.takes_of_restartTaken (h : s.restartTaken = true) : s.takes = false := by
  simp [State.takes, h]

/-- What the lane frame's service place depends on is the same. -/
structure State.SameService (s t : State) : Prop where
  place : t.servicePlace = s.servicePlace
  due : t.todo.service = s.todo.service
  replies : t.replyQueue = s.replyQueue
  restart : t.restartTaken = s.restartTaken

theorem State.SameService.trans (h : s.SameService t) (g : t.SameService v) : s.SameService v :=
  ⟨g.place.trans h.place, g.due.trans h.due, g.replies.trans h.replies, g.restart.trans h.restart⟩

theorem State.SameService.settleBoundary (h : s.SameService t) : s.SameService t.settleBoundary := by
  unfold State.settleBoundary
  split
  · exact ⟨h.place, h.due, h.replies, h.restart⟩
  · exact h

theorem State.SameService.countIdles (h : s.SameService t) : s.SameService t.countIdles := by
  unfold State.countIdles
  split
  · exact ⟨h.place, h.due, h.replies, h.restart⟩
  · exact h

theorem State.SameService.giveAll (h : s.SameService t) : s.SameService t.giveAll := by
  unfold State.giveAll
  split
  · exact ⟨h.place, h.due, h.replies, h.restart⟩
  · exact h

theorem State.SameService.onTrunk (h : s.SameService t) (f : Ctx → Trunk → Trunk) : s.SameService (t.onTrunk f) :=
  ⟨h.place, h.due, h.replies, h.restart⟩

theorem State.SameService.takeQuiet (h : s.SameService t) : s.SameService t.takeQuiet := h.onTrunk _

theorem State.SameService.endListening (h : s.SameService t) : s.SameService t.endListening := by
  unfold State.endListening
  split
  · exact ⟨h.place, h.due, h.replies, h.restart⟩
  · exact h

theorem State.SameService.buildRow (h : s.SameService t) : s.SameService t.buildRow := by
  unfold State.buildRow
  split
  · exact ⟨h.place, h.due, h.replies, h.restart⟩
  · exact h

theorem State.SameService.losePeer (h : s.SameService t) (p : Nat) : s.SameService (t.losePeer p) := by
  unfold State.losePeer
  split
  · exact ⟨h.place, h.due, h.replies, h.restart⟩
  · exact h

theorem State.SameService.losePeers (h : s.SameService t) : s.SameService t.losePeers := by
  unfold State.losePeers
  generalize List.range 15 = ps
  induction ps generalizing t with
  | nil => exact h
  | cons p ps ih => exact ih (h.losePeer p)

theorem State.SameService.takeEvents (h : s.SameService t) : s.SameService t.takeEvents :=
  (h.losePeers.onTrunk _).endListening.onTrunk _

theorem State.SameService.takeAll (h : s.SameService t) (hr : s.restartTaken = true) : s.SameService t.takeAll := by
  rw [State.takeAll_of_not_takes (State.takes_of_restartTaken (h.restart.trans hr))]
  exact h

theorem State.SameService.takeRest (h : s.SameService t) (hr : s.restartTaken = true) : s.SameService t.takeRest := by
  unfold State.takeRest
  split
  · exact h.countIdles.giveAll.takeQuiet.takeEvents.takeAll hr
  · exact (h.takeEvents.takeAll hr).countIdles.giveAll.takeQuiet

/-- The frame after a RESTART has been taken, up to the service place. -/
theorem State.sameService_beforeService (hr : s.restartTaken = true) :
    s.SameService s.settleBoundary.takeRest.buildRow :=
  ((State.SameService.settleBoundary (t := s) ⟨rfl, rfl, rfl, rfl⟩).takeRest hr).buildRow

/-- With a RESTART taken, the frame is finished by its service place. -/
theorem State.finishFrame_of_restartTaken (hr : s.restartTaken = true) :
    s.finishFrame = s.settleBoundary.takeRest.buildRow.fillService.sendLane := by
  unfold State.finishFrame
  rw [State.takeAll_of_not_takes]
  refine State.takes_of_restartTaken ?_
  rw [State.fillService_restartTaken, (State.sameService_beforeService hr).restart, hr]

theorem State.fillService_of_reply {r : Reply} {rest : List Reply} (hd : s.todo.service = true)
    (hs : s.stationState.onStar = true) (hp : cyclePos (s.frameCount.getD 0) ≠ 0) (hq : s.replyQueue = r :: rest) :
    s.fillService = { s with todo := { s.todo with service := false }, servicePlace := .reply r, replyQueue := rest } := by
  unfold State.fillService
  rw [if_pos (by simp [hd, hs])]
  dsimp only
  rw [if_neg hp, hq]

/-- The lane frame of a station on the star carries its service place. -/
theorem State.finishFrame_laneOut (h : s.stationState.onStar = true) :
    ∃ f, s.finishFrame.laneOut = some f ∧ f.service = padTo 68 (s.finishFrame.servicePlace.bytes (s.stationNo.getD 15)) := by
  have setup := s.finishFrame_sameSetup
  have star : s.finishFrame.stationState.onStar = true := setup.onStar.trans h
  have number : s.finishFrame.stationNo = s.stationNo := setup.stationNo
  revert star number
  unfold State.finishFrame
  generalize s.settleBoundary.takeRest.buildRow.fillService.takeAll = w
  intro star number
  rw [State.sendLane_stationState] at star
  rw [State.sendLane_stationNo] at number
  refine ⟨w.laneFrame, ?_, ?_⟩
  · show (if w.stationState.onStar then some w.laneFrame else none) = _
    rw [if_pos star]
  · show padTo 68 (w.servicePlace.bytes (w.stationNo.getD 15)) = _
    rw [number]
    rfl

/-- The frame that sends the RESTART's reply is closed by the start of cause ORDER. -/
theorem State.closeFrame_of_restart (hm : s.missCount < 16) (hr : s.finishFrame.sendsRestart = true) :
    s.closeFrame = { s.finishFrame.start .order with laneOut := s.finishFrame.laneOut } := by
  unfold State.closeFrame
  dsimp only
  rw [if_neg (Nat.not_le.mpr hm), if_pos hr]

theorem State.sendsRestart_of_place {r : Reply} (hr : s.restartTaken = true) (hp : s.servicePlace = .reply r) (hv : r.value = 10)
    (ho : r.outcome = .done) : s.sendsRestart = true := by
  unfold State.sendsRestart
  rw [hr, hp]
  simp [Reply.isRestart, hv, ho]

theorem State.ne_reset_of_onStar (h : s.stationState.onStar = true) : s.stationState ≠ .reset := by
  intro hr
  rw [hr] at h
  cases h

theorem Reply.isRestart_eq_false {r : Reply} (h : r.value ≠ 10 ∨ r.outcome ≠ .done) : r.isRestart = false := by
  rcases h with h | h <;> simp [Reply.isRestart, h]

theorem exec_orderStart_of_stays (h : s.restartLeaves = false) : exec .orderStart s = .next s := by
  show Host.Outcome.next s.orderStart = _
  unfold State.orderStart
  rw [if_neg (by simp [h])]

/-- The frame whose service place carries, or is to carry, the RESTART's reply. -/
theorem State.finishFrame_restartReply {r : Reply} (hs : s.stationState.onStar = true) (hr : s.restartTaken = true)
    (hplace : (s.todo.service = false ∧ s.servicePlace = .reply r) ∨
      (s.todo.service = true ∧ s.frame.toNat % 40 ≠ 0 ∧ ∃ rest, s.replyQueue = r :: rest)) :
    s.finishFrame.restartTaken = true ∧ s.finishFrame.servicePlace = .reply r := by
  have same := State.sameService_beforeService hr
  have setup := (((State.InFrame.refl s).settleBoundary.takeRest).buildRow).sameSetup
  rw [State.finishFrame_of_restartTaken hr]
  refine ⟨?_, ?_⟩
  · rw [State.sendLane_restartTaken, State.fillService_restartTaken, same.restart, hr]
  · rw [State.sendLane_servicePlace]
    rcases hplace with ⟨hdue, hp⟩ | ⟨hdue, hpos, rest, hq⟩
    · rw [State.fillService_done _ (same.due.trans hdue), same.place, hp]
    · rw [State.fillService_of_reply (same.due.trans hdue) (setup.onStar.trans hs) (by rw [setup.frameCount]; exact hpos)
        (same.replies.trans hq)]

theorem exec_orderStart_of_leaves {r : Reply} (hs : s.stationState.onStar = true) (hm : s.missCount < 16) (hv : r.value = 10)
    (ho : r.outcome = .done) (hr : s.restartTaken = true)
    (hplace : (s.todo.service = false ∧ s.servicePlace = .reply r) ∨
      (s.todo.service = true ∧ s.frame.toNat % 40 ≠ 0 ∧ ∃ rest, s.replyQueue = r :: rest)) :
    exec .orderStart s = .next { s.finishFrame.start .order with laneOut := s.finishFrame.laneOut } := by
  have leaves : s.restartLeaves = true := by
    unfold State.restartLeaves
    rcases hplace with ⟨-, hp⟩ | ⟨hdue, hpos, rest, hq⟩
    · rw [State.sendsRestart_of_place hr hp hv ho]
      rfl
    · have pos : cyclePos (s.frameCount.getD 0) ≠ 0 := hpos
      simp only [hr, hdue, hs, hq, decide_eq_true pos, Reply.isRestart, hv, ho, Bool.and_self, decide_true, beq_self_eq_true,
        Bool.or_true]
  obtain ⟨hr', hp'⟩ := State.finishFrame_restartReply hs hr hplace
  show Host.Outcome.next s.orderStart = _
  unfold State.orderStart
  rw [if_pos leaves, State.closeFrame_of_restart hm (State.sendsRestart_of_place hr' hp' hv ho)]

/-- Settles O4: the frame with the RESTART's reply is closed by a start of cause ORDER, whatever closes it. -/
theorem orderStartFollowsRestartReply : Obligations.OrderStartFollowsRestartReply := by
  refine ⟨fun s r hs hm hv ho => ⟨fun hr hplace => ?_, fun hr => ?_, fun hplace hqueue => ?_⟩,
    fun s r sw lg straps o hs hm hv ho hr hplace => ?_⟩
  · obtain ⟨f, hf, hbytes⟩ := State.finishFrame_laneOut hs
    rw [(State.finishFrame_restartReply hs hr hplace).2] at hbytes
    exact ⟨_, exec_orderStart_of_leaves hs hm hv ho hr hplace, s.finishFrame.start_atStart .order, f, hf, hbytes⟩
  · refine exec_orderStart_of_stays ?_
    simp [State.restartLeaves, State.sendsRestart, hr]
  · refine exec_orderStart_of_stays ?_
    have none : s.sendsRestart = false := by
      unfold State.sendsRestart
      split
      next q hq => rw [Reply.isRestart_eq_false (hplace q hq), Bool.and_false]
      · exact Bool.and_false _
    unfold State.restartLeaves
    rw [none, Bool.false_or]
    rcases hqueue with h | h | h
    · simp [h]
    · have pos : cyclePos (s.frameCount.getD 0) = 0 := h
      rw [decide_eq_false (not_not.mpr pos), Bool.and_false, Bool.false_and]
    · split
      next q rest hq => rw [Reply.isRestart_eq_false (h q rest hq), Bool.and_false]
      · exact Bool.and_false _
  · have closed := State.closeFrame_of_restart hm (State.sendsRestart_of_place hr hplace hv ho)
    have reset : s.closeFrame.stationState = .reset := by rw [closed]; rfl
    have outside := State.ne_reset_of_onStar hs
    obtain ⟨f, hf, hbytes⟩ := State.finishFrame_laneOut hs
    rw [hplace] at hbytes
    have lane : s.closeFrame.laneOut = some f := by rw [closed]; exact hf
    refine ⟨fun i hi => ?_, fun hpin hpower => ?_⟩
    · refine ⟨_, exec_marker_of_started hi outside reset, s.closeFrame_sameHost.2.1, s.closeFrame_sameHost.2.2, ⟨f, lane, hbytes⟩,
        s.closeFrame, ?_, State.passThrough_passedSlots _ _ _⟩
      rw [closed]
      exact s.finishFrame.start_atStart .order
    · obtain ⟨-, hpower', hpin'⟩ := s.closeFrame_sameHost
      have begins : exec (.frameMarker sw lg straps o) s = .next ((s.closeFrame.beginLoading straps).openFrame sw lg o) := by
        show Host.Outcome.next (s.marker sw lg straps o) = _
        rw [State.marker_of_started outside reset, State.marker_of_free (hpin'.trans hpin) (hpower'.trans hpower)]
      have zero := State.openFrame_frameZero (u := s.closeFrame) sw lg straps o (by rw [closed]; rfl)
      refine ⟨_, begins, ⟨f, zero.laneOut.trans lane, hbytes⟩, zero.startCause.trans ?_, zero.frameCount, zero.missCount.trans ?_,
        zero.cycleCount.trans ?_, zero.stationNo, zero.restartTaken.trans ?_, zero.orderQueue.trans ?_, zero.replyQueue.trans ?_,
        zero.stationState⟩ <;> rw [closed] <;> rfl

end Sys2Proof.Machine
end

section
/-! A frame that begins: what it brings to every slot, and that the works of the frame leave it. -/

namespace Sys2Proof.Machine

variable {s t v : State}

/-! ## What a frame takes of the highways -/

/-- What the beginning of a frame has put in the record is the same: the copper code, the history, the capture line, the signal
of the legacy port and the flag it obeys. -/
structure Circuit.SameTaken (r r' : Circuit) : Prop where
  copperCode : r'.copperCode = r.copperCode
  history : r'.history = r.history
  capture : r'.capture = r.capture
  captureCode : r'.captureCode = r.captureCode
  tx : r'.path.tx = r.path.tx
  legacyReleased : r'.legacyReleased = r.legacyReleased

@[refl] theorem Circuit.SameTaken.refl (r : Circuit) : r.SameTaken r := ⟨rfl, rfl, rfl, rfl, rfl, rfl⟩

theorem Circuit.SameTaken.trans {r r' r'' : Circuit} (h : r.SameTaken r') (g : r'.SameTaken r'') : r.SameTaken r'' :=
  ⟨g.copperCode.trans h.copperCode, g.history.trans h.history, g.capture.trans h.capture, g.captureCode.trans h.captureCode,
    g.tx.trans h.tx, g.legacyReleased.trans h.legacyReleased⟩

theorem Circuit.SameTaken.ite {r u v : Circuit} {q : Prop} [Decidable q] (hu : r.SameTaken u) (hv : r.SameTaken v) :
    r.SameTaken (if q then u else v) := by
  split
  · exact hu
  · exact hv

theorem Circuit.sameTaken_guardEnd (r : Circuit) : r.SameTaken r.guardEnd := by
  unfold Circuit.guardEnd
  split
  · exact .ite ⟨rfl, rfl, rfl, rfl, rfl, rfl⟩ (.refl r)
  · rfl

theorem Circuit.sameTaken_fillEnd (f : Word) (r : Circuit) : r.SameTaken (r.fillEnd f) := by
  unfold Circuit.fillEnd
  split
  · exact .ite ⟨rfl, rfl, rfl, rfl, rfl, rfl⟩ (.refl r)
  · rfl

theorem Circuit.sameTaken_giveOnce (x : Ctx) (c : Nat) (r : Circuit) : r.SameTaken (r.giveOnce x c) := by
  have ended := r.sameTaken_guardEnd.trans (r.guardEnd.sameTaken_fillEnd x.frame)
  exact .ite (.refl r) ⟨ended.copperCode, ended.history, ended.capture, ended.captureCode, ended.tx, ended.legacyReleased⟩

theorem Circuit.sameTaken_giveEarly (x : Ctx) (c : Nat) (r : Circuit) : r.SameTaken (r.giveEarly x c) :=
  .ite (.refl r) (r.sameTaken_giveOnce x c)

theorem Circuit.sameTaken_countIdle (st : Settings) (b : Bool) (sw : Code) (r : Circuit) : r.SameTaken (r.countIdle st b sw) :=
  .ite (.ite ⟨rfl, rfl, rfl, rfl, rfl, rfl⟩ (.ite ⟨rfl, rfl, rfl, rfl, rfl, rfl⟩ (.refl r))) (.refl r)

/-! ## The works of the frame -/

theorem Trunk.All.countRelease_taken {P : Nat → Circuit → Prop} (hP : ∀ c (r r' : Circuit), P c r → r.SameTaken r' → P c r')
    {u : Trunk} (c : Nat) (h : u.All P) : (u.countRelease c).All P := by
  have counted : (u.modify c fun r => { r with releaseCells := r.releaseCells - 1 }).All P :=
    h.modify (hP c _ _ (h c) ⟨rfl, rfl, rfl, rfl, rfl, rfl⟩)
  unfold Trunk.countRelease
  refine .ite (.ite ?_ counted) h
  unfold Trunk.leaveCalendar
  split
  · exact counted
  · refine Trunk.All.modify (f := fun r => { r with calendarRow := none }) (counted.of_eq fun _ => Trunk.circuit_setRow _ _ _ _) ?_
    rw [Trunk.circuit_setRow]
    exact hP c _ _ (counted c) ⟨rfl, rfl, rfl, rfl, rfl, rfl⟩

/-- A property of what a frame has taken, of every circuit. -/
theorem State.earlyWorks_all {P : Nat → Circuit → Prop} (hP : ∀ c (r r' : Circuit), P c r → r.SameTaken r' → P c r')
    (o : FrameOrder) (h : s.trunk.All P) : (s.earlyWorks o).trunk.All P := by
  have boundary : ∀ {v : State}, v.trunk.All P → v.settleBoundary.trunk.All P := by
    intro v hv
    unfold State.settleBoundary
    split
    · exact Trunk.All.of_eq (t := v.trunk.mapCircuits fun _ r => r.countBoundary)
        (hv.mapCircuits fun c hc => hP c _ _ hc ⟨rfl, rfl, rfl, rfl, rfl, rfl⟩) fun _ => rfl
    · exact hv
  have idle : ∀ {v : State}, v.trunk.All P → v.countIdles.trunk.All P := by
    intro v hv
    unfold State.countIdles
    split
    · exact hv.mapCircuits fun c hc => hP c _ _ hc (.ite (.refl _) (Circuit.sameTaken_countIdle _ _ _ _))
    · exact hv
  have slots : ∀ {v : State}, v.trunk.All P → v.giveSome.trunk.All P := fun {v} hv =>
    hv.mapCircuits fun c hc => hP c _ _ hc (Circuit.sameTaken_giveEarly v.ctx c _)
  have row : ∀ {v : State}, v.trunk.All P → v.buildRow.trunk.All P := by
    intro v hv
    unfold State.buildRow
    split
    · show (v.trunk.countRow v.ctx).All P
      unfold Trunk.countRow
      generalize v.trunk.row (cyclePos v.ctx.frame) = cs
      have fold : ∀ u : Trunk, u.All P → (cs.foldl (fun t c => t.countRelease c) u).All P := by
        induction cs with
        | nil => exact fun _ hu => hu
        | cons c cs ih => exact fun u hu => ih _ (hu.countRelease_taken hP c)
      exact fold _ hv
    · exact hv
  have ite : ∀ {b : Bool} {u w : State}, u.trunk.All P → w.trunk.All P → (if b then u else w).trunk.All P := by
    intro b u w hu hw
    cases b
    · exact hw
    · exact hu
  unfold State.earlyWorks
  dsimp only
  have h1 : State.trunk (if o.boundaryLast then s else s.settleBoundary) |>.All P := ite h (boundary h)
  have h2 := ite (b := o.idleFirst) (idle h1) h1
  have h3 := ite (b := o.selectFirst) (slots h2) h2
  have h4 := ite (b := o.buildFirst) (row h3) h3
  refine ite ?_ h4
  rw [State.fillService_trunk]
  exact h4

/-! ## The slot of a frame that begins -/

theorem State.stage_passes (s : State) : s.stage.passes = s.stationState.passes := by
  unfold State.stage
  by_cases h : s.stationState = .listening ∧ s.listenLeft ≤ (if s.todo.boundary then 1 else 0)
  · rw [if_pos h, h.1]
    rfl
  · rw [if_neg h]

theorem Circuit.startGuard_taken (x : Ctx) (r : Circuit) :
    (r.startGuard x).history = r.history ∧ (r.startGuard x).capture = r.capture ∧
      (r.startGuard x).legacyReleased = r.legacyReleased := by
  unfold Circuit.startGuard
  split <;> exact ⟨rfl, rfl, rfl⟩

/-- What the frame has brought to slot `c`, whose record was `r` (R32, R55, R110). -/
structure Circuit.TookFrame (x : Ctx) (c : Nat) (r r' : Circuit) : Prop where
  copperCode : r'.copperCode = (slotOf x.legacyIn c).code
  history : r'.history = Table.write startSample r.history (place512 x.frame) (slotOf x.legacyIn c).sample
  capture : r'.capture = r.capture.drop 1 ++ [(slotOf x.switchIn c).sample]
  captureCode : r'.captureCode = (slotOf x.switchIn c).code
  tx : r'.path.tx = if (r'.legacyReleased && !x.station.passes) = true then
    ⟨idleCodeOf x.settings.law, x.settings.oosCode⟩ else slotOf x.switchIn c

theorem Circuit.openSlot_tookFrame (x : Ctx) (c : Nat) (r : Circuit) : r.TookFrame x c (r.openSlot x c) := by
  obtain ⟨hhistory, hcapture, hflag⟩ := r.startGuard_taken x
  refine ⟨rfl, ?_, ?_, rfl, ?_⟩
  · show Table.write startSample (r.startGuard x).history _ _ = _
    rw [hhistory]
  · show (r.startGuard x).capture.drop 1 ++ _ = _
    rw [hcapture]
  · show r.legacySignal x _ = if ((r.startGuard x).legacyReleased && _) = true then _ else _
    rw [hflag]
    rfl

theorem Circuit.TookFrame.of_same {x : Ctx} {c : Nat} {r r' r'' : Circuit} (h : r.TookFrame x c r') (g : r'.SameTaken r'') :
    r.TookFrame x c r'' :=
  ⟨g.copperCode.trans h.copperCode, g.history.trans h.history, g.capture.trans h.capture, g.captureCode.trans h.captureCode,
    by rw [g.tx, g.legacyReleased]; exact h.tx⟩

theorem Circuit.TookFrame.historyAt {x : Ctx} {c : Nat} {r r' : Circuit} (h : r.TookFrame x c r') (g : Word) :
    r'.historyAt g = if place512 g = place512 x.frame then (slotOf x.legacyIn c).sample else r.historyAt g := by
  unfold Circuit.historyAt
  rw [h.history, Table.read_write]

/-- Every slot of a frame that begins has taken its samples and codes. -/
theorem State.openFrame_tookFrame (sw lg : Highway) (o : FrameOrder) (s : State) {c : Nat} (hc : c < 256) :
    (s.circuit c).TookFrame (s.beginFrame sw lg o.eventsLast o.between).ctx c ((s.openFrame sw lg o).circuit c) := by
  have all : (s.openFrame sw lg o).trunk.All fun c r =>
      c < 256 → (s.circuit c).TookFrame (s.beginFrame sw lg o.eventsLast o.between).ctx c r := by
    refine State.earlyWorks_all (fun c r r' h hr hc => (h hc).of_same hr) o fun c hc => ?_
    show (s.circuit c).TookFrame _ c ((s.trunk.openSlots _).circuit c)
    have opened : ∀ x, (s.trunk.openSlots x).circuit c = (s.circuit c).openSlot x c := by
      intro x
      show (s.trunk.mapCircuits fun c r => r.openSlot x c).circuit c = _
      rw [Trunk.circuit_mapCircuits, if_pos hc]
      rfl
    rw [opened]
    exact Circuit.openSlot_tookFrame _ c _
  exact all c hc

/-- Settles O6: the counts are set as the frame begins, and the slots take the frame before its works. -/
theorem markersAdvanceFrames : Obligations.MarkersAdvanceFrames := by
  intro s f sw lg straps o i miss hs hm hf hr hi
  have hi' : i = .frameMarker sw lg straps o ∨ i = .missedFrameMarker sw lg o := hi.imp And.left And.left
  have missed : Instr.markerMiss s.missCount i = miss := by
    rcases hi with ⟨rfl, rfl⟩ | ⟨rfl, rfl⟩
    · rfl
    · show min (s.missCount + 1) 16 = _
      exact Nat.min_eq_left hm
  refine ⟨_, exec_marker_of_no_start hi' hs hm hr, ?_⟩
  rw [missed]
  have closed := s.finishFrame_sameSetup
  let u : State := { s.finishFrame with missCount := miss }
  have opened := State.openFrame_inFrame sw lg o u
  have setup := opened.sameSetup
  have frame : s.finishFrame.frameCount = some f := closed.frameCount.trans hf
  have next : (u.beginFrame sw lg o.eventsLast o.between).frameCount = some (f + 1) := by
    show some (nextFrame s.finishFrame.frameCount) = _
    rw [frame]
    rfl
  have state : (u.openFrame sw lg o).stationState = s.finishFrame.stationState := opened.stationState id
  refine ⟨setup.frameCount.trans next, setup.missCount, setup.cycleCount.trans ?_, state, setup.stationNo.trans closed.stationNo,
    setup.startCause.trans closed.startCause, fun c hc => ?_⟩
  · show (if s.finishFrame.frameCount.isSome then nextCycles (nextFrame s.finishFrame.frameCount) s.finishFrame.cycleCount else _) = _
    rw [frame, closed.cycleCount]
    rfl
  · have took := State.openFrame_tookFrame sw lg o u hc
    have now : (u.beginFrame sw lg o.eventsLast o.between).ctx.frame = f + 1 := by
      show (u.beginFrame sw lg o.eventsLast o.between).frameCount.getD 0 = _
      rw [next]
      rfl
    refine ⟨took.copperCode, ?_, fun g hg => ?_, took.capture, took.captureCode, ?_⟩
    · rw [took.historyAt, now, if_pos rfl]
      rfl
    · rw [took.historyAt, now, if_neg (show place512 g ≠ place512 (f + 1) from hg)]
      rfl
    · rw [took.tx, setup.settings, state]
      have passes : (u.beginFrame sw lg o.eventsLast o.between).ctx.station.passes = s.finishFrame.stationState.passes :=
        State.stage_passes _
      rw [passes]
      simp only [Bool.and_eq_true, Bool.not_eq_true']
      rfl

end Sys2Proof.Machine
end

section
/-! The end of the boot read: the failures, the windows and the bindings, the settings. -/

namespace Sys2Proof.Machine

variable {s t : State}

/-! ## When the read may end -/

theorem State.readMayEnd_of {f : Word} (hs : s.stationState = .loading) (hb : s.bootReading = true) (hf : s.frameCount = some f) :
    s.readMayEnd = (decide (1 ≤ f.toNat) && decide (f.toNat ≤ 40)) := by
  simp [State.readMayEnd, hs, hb, hf]

theorem exec_bootReadComplete_of_due {f : Word} (hs : s.stationState = .loading) (hb : s.bootReading = true)
    (hf : s.frameCount = some f) (h1 : 1 ≤ f.toNat) (h40 : f.toNat ≤ 40) (bytes : List Byte) :
    exec (.bootReadComplete bytes) s = .next (s.endRead (bootRecord bytes)) := by
  show Host.Outcome.next (s.bootReadComplete bytes) = _
  unfold State.bootReadComplete
  rw [if_pos]
  simp [State.readMayEnd_of hs hb hf, h1, h40]

theorem State.endRead_of_fault {m : List Byte} {k : ConfigFault} (h : bootFault m = some k) : s.endRead m = s.configBad k := by
  unfold State.endRead
  rw [h]

theorem State.endRead_of_good {m : List Byte} (h : bootFault m = none) : s.endRead m = s.configGood m := by
  unfold State.endRead
  rw [h]

/-- Settles O8: the tests of the record in their order. -/
theorem bootRecordFailures : Obligations.BootRecordFailures := by
  refine fun s f bytes hs hb hf => ⟨fun h1 h40 fault hfault => ?_, fun hout => ?_⟩
  · have found : bootFault (bootRecord bytes) = some fault := by
      unfold bootFault bootMark
      rcases hfault with ⟨hmark, rfl⟩ | ⟨hmark, hversion, rfl⟩ | ⟨hmark, hversion, hcheck, rfl⟩
      · rw [if_pos hmark]
      · rw [if_neg (not_not.mpr hmark), if_pos hversion]
      · rw [if_neg (not_not.mpr hmark), if_neg (not_not.mpr hversion), if_pos hcheck]
    rw [exec_bootReadComplete_of_due hs hb hf h1 h40, State.endRead_of_fault found]
    rfl
  · show Host.Outcome.next (s.bootReadComplete bytes) = _
    unfold State.bootReadComplete
    rw [if_neg]
    rw [State.readMayEnd_of hs hb hf]
    rcases hout with rfl | h
    · decide
    · simp [Nat.not_le.mpr h]

/-! ## The windows of a record -/

/-- What validation makes of a window that stands behind those of `before`. -/
def Window.validated (n : Nat) (before : List Window) (w : Window) : Window := { w with validity := w.validate n before }

theorem validateAll_take (n : Nat) (ws : List Window) : ∀ before : List Window, (validateAll n before ws).take before.length = before := by
  induction ws with
  | nil => exact fun before => List.take_length
  | cons w ws ih =>
    intro before
    have h := congrArg (List.take before.length) (ih (before ++ [w.validated n before]))
    rw [List.take_take, List.length_append, Nat.min_eq_left (Nat.le_add_right _ _), List.take_left] at h
    exact h

/-- Each window is validated against those before it in the table. -/
theorem validateAll_get (n : Nat) (ws : List Window) : ∀ (before : List Window) (j : Nat) (w : Window), ws[j]? = some w →
    (validateAll n before ws)[before.length + j]? =
      some (w.validated n ((validateAll n before ws).take (before.length + j))) := by
  induction ws with
  | nil => intro before j w h; simp at h
  | cons v ws ih =>
    intro before j w h
    have step : validateAll n before (v :: ws) = validateAll n (before ++ [v.validated n before]) ws := rfl
    have prefix_ := validateAll_take n ws (before ++ [v.validated n before])
    cases j with
    | zero =>
      obtain rfl : v = w := by simpa using h
      have front := congrArg (fun l => l[before.length]?) prefix_
      rw [Nat.add_zero, validateAll_take n (v :: ws) before, step]
      rw [List.length_append] at front
      simpa [List.getElem?_take] using front
    | succ j =>
      have := ih (before ++ [v.validated n before]) j w (by simpa using h)
      rw [List.length_append, List.length_singleton, Nat.add_assoc, Nat.add_comm 1 j] at this
      rw [step]
      exact this

theorem bootWindows_get (n : Nat) (m : List Byte) {j : Nat} (hj : j < 8) :
    (bootWindows n m)[j]? = some ((bootWindow m j).validated n ((bootWindows n m).take j)) := by
  have h := validateAll_get n ((List.range 8).map (bootWindow m)) [] j (bootWindow m j) (by simp [hj])
  rw [List.length_nil, Nat.zero_add] at h
  exact h

/-- A VALID window among the first `j` of a table overlaps a range. -/
theorem earlier_any {ws : List Window} {j : Nat} (p : Window → Bool) :
    (((ws.take j).filter fun v => v.validity == .valid).any p) = true ↔
      ∃ i v, i < j ∧ ws[i]? = some v ∧ v.validity = .valid ∧ p v = true := by
  rw [List.any_eq_true]
  constructor
  · rintro ⟨v, hv, hp⟩
    obtain ⟨hmem, hvalid⟩ := List.mem_filter.mp hv
    obtain ⟨i, hi⟩ := List.mem_iff_getElem?.mp hmem
    rw [List.getElem?_take] at hi
    split at hi
    next hij => exact ⟨i, v, hij, hi, by simpa using hvalid, hp⟩
    · cases hi
  · rintro ⟨i, v, hij, hi, hvalid, hp⟩
    refine ⟨v, List.mem_filter.mpr ⟨List.mem_iff_getElem?.mpr ⟨i, ?_⟩, by simp [hvalid]⟩, hp⟩
    rw [List.getElem?_take, if_pos hij]
    exact hi

theorem overlaps_iff (b₁ l₁ b₂ l₂ : Nat) : overlaps b₁ l₁ b₂ l₂ = true ↔ b₁ < b₂ + l₂ ∧ b₂ < b₁ + l₁ := by
  simp [overlaps]

/-- The two overlaps of a window with the VALID ones among the first `j` of a table. -/
def Window.localOverlaps (ws : List Window) (j : Nat) (w : Window) : Prop :=
  ∃ i v, i < j ∧ ws[i]? = some v ∧ v.validity = .valid ∧ w.localBase < v.localBase + v.length ∧ v.localBase < w.localBase + w.length

def Window.peerOverlaps (ws : List Window) (j : Nat) (w : Window) : Prop :=
  ∃ i v, i < j ∧ ws[i]? = some v ∧ v.validity = .valid ∧ v.peer = w.peer ∧
    w.peerBase < v.peerBase + v.length ∧ v.peerBase < w.peerBase + w.length

/-- R136: the first test that fails gives the validity. -/
theorem Window.validate_iff (n : Nat) (ws : List Window) (j : Nat) (w : Window) :
    (w.validate n (ws.take j) = .notEnabled ↔ w.enabled = false) ∧
    (w.validate n (ws.take j) = .valid ↔ w.enabled = true ∧ w.localBase + w.length ≤ 256 ∧ w.peerBase + w.length ≤ 256 ∧
      w.peer ≠ 15 ∧ w.peer ≠ n ∧ ¬ w.localOverlaps ws j ∧ ¬ w.peerOverlaps ws j) ∧
    (w.validate n (ws.take j) = .localRange ↔ w.enabled = true ∧ 256 < w.localBase + w.length) ∧
    (w.validate n (ws.take j) = .peerRange ↔ w.enabled = true ∧ w.localBase + w.length ≤ 256 ∧ 256 < w.peerBase + w.length) ∧
    (w.validate n (ws.take j) = .peerNumber ↔ w.enabled = true ∧ w.localBase + w.length ≤ 256 ∧ w.peerBase + w.length ≤ 256 ∧
      (w.peer = 15 ∨ w.peer = n)) ∧
    (w.validate n (ws.take j) = .localOverlap ↔ w.enabled = true ∧ w.localBase + w.length ≤ 256 ∧ w.peerBase + w.length ≤ 256 ∧
      w.peer ≠ 15 ∧ w.peer ≠ n ∧ w.localOverlaps ws j) ∧
    (w.validate n (ws.take j) = .peerOverlap ↔ w.enabled = true ∧ w.localBase + w.length ≤ 256 ∧ w.peerBase + w.length ≤ 256 ∧
      w.peer ≠ 15 ∧ w.peer ≠ n ∧ ¬ w.localOverlaps ws j ∧ w.peerOverlaps ws j) := by
  have hl : (((ws.take j).filter fun v => v.validity == .valid).any fun v =>
      overlaps w.localBase w.length v.localBase v.length) = true ↔ w.localOverlaps ws j := by
    have := earlier_any (ws := ws) (j := j) fun v => overlaps w.localBase w.length v.localBase v.length
    simp only [overlaps_iff] at this
    exact this
  have hp : (((ws.take j).filter fun v => v.validity == .valid).any fun v =>
      decide (v.peer = w.peer) && overlaps w.peerBase w.length v.peerBase v.length) = true ↔ w.peerOverlaps ws j := by
    have := earlier_any (ws := ws) (j := j) fun v => decide (v.peer = w.peer) && overlaps w.peerBase w.length v.peerBase v.length
    simp only [overlaps_iff, Bool.and_eq_true, decide_eq_true_eq] at this
    exact this
  unfold Window.validate
  dsimp only
  rw [← hl, ← hp]
  generalize (((ws.take j).filter fun v => v.validity == .valid).any fun v =>
    overlaps w.localBase w.length v.localBase v.length) = a
  generalize (((ws.take j).filter fun v => v.validity == .valid).any fun v =>
    decide (v.peer = w.peer) && overlaps w.peerBase w.length v.peerBase v.length) = b
  cases w.enabled with
  | false => simp
  | true =>
    by_cases h1 : 256 < w.localBase + w.length
    · simp [h1]
    · by_cases h2 : 256 < w.peerBase + w.length
      · simp [h1, h2, Nat.not_lt.mp h1]
      · by_cases h3 : w.peer = 15 ∨ w.peer = n
        · have : ¬ (w.peer ≠ 15 ∧ w.peer ≠ n) := by rwa [not_and_or, not_not, not_not]
          simp [h1, h2, h3, Nat.not_lt.mp h1, Nat.not_lt.mp h2]
          tauto
        · obtain ⟨h15, hn⟩ := not_or.mp h3
          cases a <;> cases b <;> simp [h1, h2, h15, hn, Nat.not_lt.mp h1, Nat.not_lt.mp h2]

/-! ## What the windows bind -/

theorem bootWindows_isSome {n : Nat} {m : List Byte} {j : Nat} {w : Window} (h : (bootWindows n m)[j]? = some w) : j < 8 := by
  have := (List.getElem?_eq_some_iff.mp h).1
  rwa [bootWindows_length] at this

/-- A VALID window of a record ends by 256 and overlaps no VALID window before it. -/
theorem bootWindows_valid {n : Nat} {m : List Byte} {j : Nat} {w : Window} (h : (bootWindows n m)[j]? = some w)
    (hv : w.validity = .valid) : w.localBase + w.length ≤ 256 ∧ ¬ w.localOverlaps (bootWindows n m) j := by
  have hw := bootWindows_get n m (bootWindows_isSome h)
  rw [h, Option.some.injEq] at hw
  subst hw
  obtain ⟨-, hend, -, -, -, hlocal, -⟩ := (Window.validate_iff n (bootWindows n m) j (bootWindow m j)).2.1.mp hv
  exact ⟨hend, hlocal⟩

theorem Window.holds_iff (w : Window) (c : Nat) : w.holds c = true ↔ w.localBase ≤ c ∧ c < w.localBase + w.length := by
  simp [Window.holds]

theorem Window.inForce_iff (w : Window) : w.inForce = true ↔ w.enabled = true ∧ w.validity = .valid := by simp [Window.inForce]

/-- Two VALID windows of a record hold no circuit together. -/
theorem bootWindows_disjoint {n : Nat} {m : List Byte} {i j c : Nat} {v w : Window} (hi : (bootWindows n m)[i]? = some v)
    (hj : (bootWindows n m)[j]? = some w) (hv : v.validity = .valid) (hw : w.validity = .valid) (hvc : v.holds c = true)
    (hwc : w.holds c = true) : i = j := by
  rw [Window.holds_iff] at hvc hwc
  rcases Nat.lt_trichotomy i j with hij | rfl | hji
  · exact absurd ⟨i, v, hij, hi, hv, by omega⟩ (bootWindows_valid hj hw).2
  · rfl
  · exact absurd ⟨j, w, hji, hj, hw, by omega⟩ (bootWindows_valid hi hv).2

theorem bindingOf_of_only {ws : List Window} {c j : Nat} {w : Window} (hj : ws[j]? = some w)
    (hw : (w.inForce && w.holds c) = true)
    (only : ∀ i v, ws[i]? = some v → (v.inForce && v.holds c) = true → i = j) :
    bindingOf ws c = some ⟨j, w.peer, w.peerBase + (c - w.localBase)⟩ := by
  have found : (ws.zipIdx.find? fun e => e.1.inForce && e.1.holds c).isSome = true :=
    List.find?_isSome.mpr ⟨(w, j), List.mk_mem_zipIdx_iff_getElem?.mpr hj, hw⟩
  obtain ⟨⟨v, i⟩, he⟩ := Option.isSome_iff_exists.mp found
  have hi : ws[i]? = some v := List.mk_mem_zipIdx_iff_getElem?.mp (List.mem_of_find?_eq_some he)
  have sound := List.find?_some he
  obtain rfl : i = j := only i v hi sound
  obtain rfl : v = w := by rwa [hi, Option.some.injEq] at hj
  unfold bindingOf
  rw [he]
  rfl

theorem bindingOf_of_none {ws : List Window} {c : Nat} (h : ∀ w ∈ ws, ¬ (w.inForce && w.holds c) = true) :
    bindingOf ws c = none := by
  unfold bindingOf
  rw [List.find?_eq_none.mpr]
  · rfl
  · exact fun e he => h e.1 (List.fst_mem_of_mem_zipIdx he)

theorem State.configGood_circuit (m : List Byte) (s : State) (c : Nat) :
    (s.configGood m).circuit c =
      if c < 256 then (s.circuit c).bind (bindingOf (bootWindows (s.stationNo.getD 15) m) c) else Circuit.start :=
  Trunk.circuit_mapCircuits _ _ _

/-- Settles O9: the windows are validated in order, each against the VALID ones before it, which so hold no circuit in common
and bind each circuit once. -/
theorem bootWindowsBindCircuits : Obligations.BootWindowsBindCircuits := by
  refine ⟨fun s f bytes hs hb hf h1 h40 hgood => ?_, ?_⟩
  · refine ⟨s.configGood (bootRecord bytes), ?_, rfl, rfl, rfl, rfl, fun j w c hj hen hv hlo hhi => ?_, fun c hnone => ?_,
      ⟨rfl, rfl, rfl⟩, ⟨rfl, rfl⟩, rfl, rfl, rfl, rfl, rfl⟩
    · rw [exec_bootReadComplete_of_due hs hb hf h1 h40, State.endRead_of_good hgood]
    · have holds : w.holds c = true := w.holds_iff c |>.mpr ⟨hlo, hhi⟩
      have hc : c < 256 := Nat.lt_of_lt_of_le hhi (bootWindows_valid hj hv).1
      have bound := bindingOf_of_only (ws := bootWindows (s.stationNo.getD 15) (bootRecord bytes)) hj (by rw [w.inForce_iff.mpr ⟨hen, hv⟩, holds]; rfl) fun i v hi hvi => by
        obtain ⟨hforce, hvc⟩ := Bool.and_eq_true_iff.mp hvi
        exact bootWindows_disjoint hi hj (v.inForce_iff.mp hforce).2 hv hvc holds
      rw [State.configGood_circuit, if_pos hc, bound]
      exact ⟨rfl, rfl⟩
    · have unbound := bindingOf_of_none (ws := bootWindows (s.stationNo.getD 15) (bootRecord bytes)) (c := c) fun w hw => by
        rw [Bool.and_eq_true_iff, Window.inForce_iff, Window.holds_iff]
        exact fun h => hnone w hw h.1.1 h.1.2 h.2
      rw [State.configGood_circuit, unbound]
      split
      · rfl
      next hc => exact (if_neg hc).symm
  · intro s f bytes j m hs hb hf h1 h40 hgood hj
    obtain ⟨hnot, hvalid, hlocal, hpeer, hnumber, hlover, hpover⟩ :=
      Window.validate_iff (s.stationNo.getD 15) (bootWindows (s.stationNo.getD 15) m) j (bootWindow m j)
    refine ⟨s.configGood m, _, ?_, bootWindows_length _ _, bootWindows_get _ m hj, rfl, rfl, ?_, ?_, ?_, rfl, hnot,
      hvalid.trans ?_, hlocal, hpeer, hnumber, hlover, hpover.trans ?_⟩
    · rw [exec_bootReadComplete_of_due hs hb hf h1 h40, State.endRead_of_good hgood]
    · rw [show 35 + 4 * j = 34 + 4 * j + 1 by omega]
      rfl
    · rw [show 36 + 4 * j = 34 + 4 * j + 2 by omega]
      rfl
    · rw [show 37 + 4 * j = 34 + 4 * j + 3 by omega]
      rfl
    · refine and_congr_right' (and_congr_right' (and_congr_right' (and_congr_right' (and_congr_right' ?_))))
      simp only [Window.localOverlaps, Window.peerOverlaps, Window.validated, not_exists, not_and, not_lt]
      constructor
      · intro ⟨hl, hp⟩ i v hi hv hvv
        have := hl i v hi hv hvv
        have := hp i v hi hv hvv
        exact ⟨by omega, fun h => by have := this h; omega⟩
      · intro h
        refine ⟨fun i v hi hv hvv hlt => ?_, fun i v hi hv hvv hpe hlt => ?_⟩
        · have := (h i v hi hv hvv).1
          omega
        · have := (h i v hi hv hvv).2 hpe
          omega
    · refine and_congr_right' (and_congr_right' (and_congr_right' (and_congr_right' (and_congr_right' (and_congr_left' ?_)))))
      simp only [Window.localOverlaps, not_exists, not_and, not_lt]
      refine forall_congr' fun i => forall_congr' fun v => forall_congr' fun hi => forall_congr' fun hv => forall_congr' fun hvv => ?_
      simp only [Window.validated]
      omega

/-! ## The settings of a record -/

theorem paramValues_eq (m : List Byte) :
    paramValues m =
      [(⟨.guard, 8, 64, .plain⟩, fieldAt m 10 2), (⟨.dmax, 0, 224, .plain⟩, fieldAt m 12 2),
       (⟨.qmin, 40, 400, .plain⟩, fieldAt m 14 2), (⟨.threshold, 0, 127, .plain⟩, fieldAt m 16 2),
       (⟨.alignTimeout, 1, 60, .seconds⟩, fieldAt m 18 2), (⟨.bridgeIdle, 20, 1000, .milliseconds⟩, fieldAt m 20 2),
       (⟨.streamLoss, 10, 100, .milliseconds⟩, fieldAt m 22 2), (⟨.spliceHold, 0, 10, .seconds⟩, fieldAt m 24 2),
       (⟨.settle, 1, 600, .seconds⟩, fieldAt m 26 2), (⟨.sigGuard, 10, 200, .milliseconds⟩, fieldAt m 28 2),
       (⟨.idleQualify, 100, 5000, .milliseconds⟩, fieldAt m 30 2), (⟨.peerHold, 500, 10000, .milliseconds⟩, fieldAt m 32 2)] :=
  rfl

theorem ParamRow.clamps_iff {row : ParamRow} (h : row.low ≤ row.high) (v : Nat) :
    row.clamps v = true ↔ v < row.low ∨ row.high < v := by
  rw [ParamRow.clamps, ParamRow.clamp, Bool.not_eq_true', decide_eq_false_iff_not]
  omega

/-- The clamped parameters of a record. -/
def clampedParamList (m : List Byte) : List Param := ((paramValues m).filter fun e => e.1.clamps e.2).map fun e => e.1.param

theorem paramValues_nodup (m : List Byte) : ((paramValues m).map fun e => e.1.param).Nodup := by
  rw [paramValues_eq]
  show [Param.guard, .dmax, .qmin, .threshold, .alignTimeout, .bridgeIdle, .streamLoss, .spliceHold, .settle, .sigGuard,
    .idleQualify, .peerHold].Nodup
  decide

theorem paramValues_ordered (m : List Byte) : ∀ e ∈ paramValues m, e.1.low ≤ e.1.high := by
  rw [paramValues_eq]
  simp

theorem clampedParamList_nodup (m : List Byte) : (clampedParamList m).Nodup :=
  (paramValues_nodup m).sublist (List.filter_sublist.map _)

/-- A parameter is among the clamped ones when its value lay outside its row of Table 4.2. -/
theorem mem_clampedParamList {m : List Byte} {row : ParamRow} {v : Nat} (h : (row, v) ∈ paramValues m) :
    row.param ∈ clampedParamList m ↔ v < row.low ∨ row.high < v := by
  rw [← ParamRow.clamps_iff (paramValues_ordered m _ h)]
  simp only [clampedParamList, List.mem_map, List.mem_filter]
  constructor
  · rintro ⟨e, ⟨he, hclamp⟩, hp⟩
    obtain rfl : e = (row, v) := List.inj_on_of_nodup_map (paramValues_nodup m) he h hp
    exact hclamp
  · exact fun hclamp => ⟨_, ⟨h, hclamp⟩, rfl⟩

theorem clampItems_eq (m : List Byte) :
    clampItems m = (clampedParamList m).map ClampItem.param ++
      (if (clampedParams m).settle < (clampedParams m).spliceHold then [.settleRaised] else []) ++
      (if 1 < (byteAt m 6).toNat then [.policyCode] else []) ++ (if 1 < (byteAt m 5).toNat then [.lawCode] else []) := by
  simp only [clampItems, clampedParamList, List.map_map, Function.comp_def]

theorem mem_ite_singleton {α : Type} {p : Prop} [Decidable p] {a b : α} : a ∈ (if p then [b] else []) ↔ p ∧ a = b := by
  split <;> simp [*]

theorem mem_clampItems (m : List Byte) (i : ClampItem) :
    i ∈ clampItems m ↔ (∃ p ∈ clampedParamList m, .param p = i) ∨
      ((clampedParams m).settle < (clampedParams m).spliceHold ∧ i = .settleRaised) ∨
      (1 < (byteAt m 6).toNat ∧ i = .policyCode) ∨ (1 < (byteAt m 5).toNat ∧ i = .lawCode) := by
  rw [clampItems_eq, List.mem_append, List.mem_append, List.mem_append, List.mem_map, mem_ite_singleton, mem_ite_singleton,
    mem_ite_singleton, or_assoc, or_assoc]

theorem param_mem_clampItems {m : List Byte} {row : ParamRow} {v : Nat} (h : (row, v) ∈ paramValues m) :
    .param row.param ∈ clampItems m ↔ v < row.low ∨ row.high < v := by
  rw [mem_clampItems, ← mem_clampedParamList h]
  simp

/-- As `param_mem_clampItems`, for a row whose range begins at 0. -/
theorem param_mem_clampItems_of_low {m : List Byte} {row : ParamRow} {v : Nat} (h : (row, v) ∈ paramValues m)
    (hlow : row.low = 0) : .param row.param ∈ clampItems m ↔ row.high < v := by
  rw [param_mem_clampItems h, hlow]
  omega

theorem settleRaised_mem_clampItems (m : List Byte) :
    .settleRaised ∈ clampItems m ↔ max 1 (min (fieldAt m 26 2) 600) < min (fieldAt m 24 2) 10 := by
  simp only [mem_clampItems, clampedParams_eq, reduceCtorEq, and_false, exists_false, and_true, or_false, false_or]
  omega

theorem policyCode_mem_clampItems (m : List Byte) : .policyCode ∈ clampItems m ↔ 1 < (byteAt m 6).toNat := by
  simp [mem_clampItems]

theorem lawCode_mem_clampItems (m : List Byte) : .lawCode ∈ clampItems m ↔ 1 < (byteAt m 5).toNat := by simp [mem_clampItems]

theorem clampItems_nodup (m : List Byte) : (clampItems m).Nodup := by
  have params : ((clampedParamList m).map ClampItem.param).Nodup :=
    (clampedParamList_nodup m).map fun _ _ h => ClampItem.param.inj h
  rw [clampItems_eq]
  refine List.Nodup.append (List.Nodup.append (List.Nodup.append params ?_ ?_) ?_ ?_) ?_ ?_
  · split <;> simp
  · intro i h
    rw [mem_ite_singleton]
    rintro ⟨-, rfl⟩
    simp at h
  · split <;> simp
  · intro i h
    rw [mem_ite_singleton]
    rintro ⟨-, rfl⟩
    simp at h
  · split <;> simp
  · intro i h
    rw [mem_ite_singleton]
    rintro ⟨-, rfl⟩
    simp at h

/-- Settles O10: Table 4.2 row by row. -/
theorem bootParametersClamped : Obligations.BootParametersClamped := by
  intro s f bytes m v hs hb hf h1 h40 hgood
  have next : exec (.bootReadComplete bytes) s = .next (s.configGood m) := by
    rw [exec_bootReadComplete_of_due hs hb hf h1 h40, State.endRead_of_good hgood]
  have settings : (s.configGood m).settings.params = (clampedParams m).raiseSettle := rfl
  have items : (s.configGood m).clampedItems = clampItems m := rfl
  refine ⟨_, next, ?_⟩
  rw [settings, items, Params.raiseSettle, clampedParams_eq]
  refine ⟨rfl, Nat.zero_max _, rfl, Nat.zero_max _, Nat.mul_comm _ _, rfl, rfl, ?_, ?_, rfl, rfl, rfl, ?_, ?_, rfl, rfl, ?_, rfl,
    clampItems_nodup m, ?_⟩
  · show max 0 (min (v 7) 10) * 200 = _
    omega
  · show max (max 1 (min (v 8) 600) * 200) (max 0 (min (v 7) 10) * 200) = _
    omega
  · show (if (byteAt m 5).toNat = 1 then Law.a else .mu) = _
    simp only [← BitVec.toNat_inj]
    rfl
  · show (if (byteAt m 6).toNat = 1 then Policy.roll else .hold) = _
    simp only [← BitVec.toNat_inj]
    rfl
  · intro p hp
    show (BitVec.ofNat 16 (fieldAt m 8 2)).getLsbD p = _
    rw [BitVec.getLsbD_ofNat]
    simp [show p < 16 by omega]
  · have row (i : Nat) (e : ParamRow × Nat) (h : (paramValues m)[i]? = some e) : e ∈ paramValues m := List.mem_of_getElem? h
    exact ⟨param_mem_clampItems (row 0 _ rfl), param_mem_clampItems_of_low (row 1 _ rfl) rfl, param_mem_clampItems (row 2 _ rfl),
      param_mem_clampItems_of_low (row 3 _ rfl) rfl, param_mem_clampItems (row 4 _ rfl), param_mem_clampItems (row 5 _ rfl),
      param_mem_clampItems (row 6 _ rfl), param_mem_clampItems_of_low (row 7 _ rfl) rfl, param_mem_clampItems (row 8 _ rfl),
      param_mem_clampItems (row 9 _ rfl), param_mem_clampItems (row 10 _ rfl), param_mem_clampItems (row 11 _ rfl),
      settleRaised_mem_clampItems m, policyCode_mem_clampItems m, lawCode_mem_clampItems m⟩

end Sys2Proof.Machine
end

section
/-! What a cycle boundary counts, and the closing of a frame as the commands it stands for. -/

namespace Sys2Proof.Machine

variable {s t v : State}

/-! ## The boundary -/

theorem State.settleBoundary_due (h : s.todo.boundary = true) : s.settleBoundary = s.countBoundary := if_pos h

theorem State.countBoundary_circuit (s : State) {c : Nat} (hc : c < 256) :
    s.countBoundary.circuit c = (s.circuit c).countBoundary := by
  show (s.trunk.mapCircuits fun _ r => r.countBoundary).circuit c = _
  rw [Trunk.circuit_mapCircuits, if_pos hc]
  rfl

theorem CircuitState.countsSilence_iff (st : CircuitState) :
    st.countsSilence = true ↔ ¬ (st = .vacant ∨ st = .copper ∨ st = .down) := by
  cases st <;> decide

theorem Circuit.countBoundary_silence (r : Circuit) :
    r.countBoundary.silence = if r.state = .vacant ∨ r.state = .copper ∨ r.state = .down then r.silence
      else min (r.silence + 1) 65535 := by
  show (if r.state.countsSilence then countUp 65535 r.silence else r.silence) = _
  by_cases h : r.state.countsSilence = true
  · rw [if_pos h, if_neg (r.state.countsSilence_iff.mp h)]
    rfl
  · rw [if_neg h, if_pos (not_not.mp (mt r.state.countsSilence_iff.mpr h))]

theorem State.countBoundary_fallback (s : State) :
    s.countBoundary.trunk.fallback = s.trunk.fallback.map FallbackRecord.countBoundary := rfl

theorem FallbackRecord.countBoundary_pending {f : FallbackRecord} (h : f.live = none) : f.countBoundary = f := by
  cases f
  cases h
  rfl

theorem FallbackRecord.countBoundary_fresh {f : FallbackRecord} {l : LiveFields} (h : f.live = some l) (hl : l.fresh = true) :
    f.countBoundary = f := by
  cases f
  cases h
  simp [FallbackRecord.countBoundary, hl]

theorem FallbackRecord.countBoundary_live {f : FallbackRecord} {l : LiveFields} (h : f.live = some l) (hl : l.fresh = false) :
    f.countBoundary = ⟨f.circuit, some ⟨l.frame, l.settle - 1, l.hold.map (fun h => h - 1), false⟩⟩ := by
  cases f
  cases h
  simp [FallbackRecord.countBoundary, hl]

theorem PeerEntry.countBoundary_present {e : PeerEntry} (h : e.state = .present) :
    e.countBoundary = { e with heard := false, miss := if e.heard then e.miss else min (e.miss + 1) 4 } := by
  unfold PeerEntry.countBoundary
  rw [if_pos h]
  cases e with
  | mk st miss heard cycles digest => cases heard <;> rfl

theorem State.endListening_of_ne (h : s.stationState ≠ .listening) : s.endListening = s := if_neg fun hl => h hl.1

theorem State.settleBoundary_listenLeft (h : s.stationState = .listening) :
    s.settleBoundary.listenLeft = if s.todo.boundary then s.listenLeft - 1 else s.listenLeft := by
  unfold State.settleBoundary
  split
  · exact if_pos h
  · rfl

theorem State.settleBoundary_stage (s : State) : s.settleBoundary.stage = s.stage := by
  unfold State.settleBoundary
  split
  next hb => exact State.stage_countBoundary hb
  · rfl

theorem State.settleBoundary_stationState' (s : State) : s.settleBoundary.stationState = s.stationState := by
  unfold State.settleBoundary
  split <;> rfl

/-- Once the boundary is counted the station of LISTENING acts as one of OPERATING when none of its four is left. -/
theorem State.stage_of_settled (hb : s.todo.boundary = false) (hs : s.stationState = .listening) :
    s.stage = if s.listenLeft = 0 then .operating else .listening := by
  simp [State.stage, hb, hs]

/-! ## The due events as commands -/

theorem State.doAll_append (is js : List Instr) (s : State) : s.doAll (is ++ js) = (s.doAll is).doAll js := List.foldl_append

theorem State.doAll_cons {i : Instr} (is : List Instr) (h : exec i s = .next t) : s.doAll (i :: is) = t.doAll is := by
  show is.foldl _ (match exec i s with
    | .next t => t
    | _ => s) = _
  rw [h]
  rfl

theorem State.onTrunk_foldl (g : Ctx → Nat → Trunk → Trunk) (cs : List Nat) (s : State) :
    cs.foldl (fun v c => v.onTrunk (fun x t => g x c t)) s = s.onTrunk (fun x t => cs.foldl (fun t c => g x c t) t) := by
  induction cs generalizing s with
  | nil => rfl
  | cons c cs ih => exact ih (s.onTrunk (fun x t => g x c t))

/-- A change of the trunk circuit by circuit is one change after another. -/
theorem State.onTrunk_forEach (g : Ctx → Nat → Trunk → Trunk) (s : State) :
    s.onTrunk (fun x t => t.forEach (g x)) = (List.range 256).foldl (fun v c => v.onTrunk (fun x t => g x c t)) s :=
  (State.onTrunk_foldl g (List.range 256) s).symm

/-- Commands that do one thing each, once the boundary has been counted, and leave it so. -/
theorem State.doAll_map {ι : Type} (cmd : ι → Instr) (f : ι → State → State)
    (hf : ∀ i v, v.todo.boundary = false → exec (cmd i) v = .next (f i v)) (hk : ∀ i v, (f i v).todo = v.todo) (is : List ι) :
    ∀ v : State, v.todo.boundary = false → v.doAll (is.map cmd) = is.foldl (fun v i => f i v) v := by
  induction is with
  | nil => exact fun _ _ => rfl
  | cons i is ih =>
    intro v hv
    rw [List.map_cons, State.doAll_cons _ (hf i v hv)]
    exact ih _ (by rw [hk, hv])

theorem State.losePeer_todo (p : Nat) (s : State) : (s.losePeer p).todo = s.todo := by
  unfold State.losePeer
  split <;> rfl

theorem State.losePeers_todo (s : State) : s.losePeers.todo = s.todo := by
  unfold State.losePeers
  generalize List.range 15 = ps
  induction ps generalizing s with
  | nil => rfl
  | cons p ps ih => exact (ih (s.losePeer p)).trans (s.losePeer_todo p)

/-- Commands that settle the boundary and change the trunk, once the boundary has been counted. -/
theorem State.doAll_settled (ps : List (Instr × (Ctx → Trunk → Trunk)))
    (h : ∀ p ∈ ps, ∀ v : State, exec p.1 v = .next (v.settleBoundary.onTrunk p.2)) :
    ∀ v : State, v.todo.boundary = false → v.doAll (ps.map Prod.fst) = ps.foldl (fun v p => v.onTrunk p.2) v := by
  induction ps with
  | nil => exact fun _ _ => rfl
  | cons p ps ih =>
    intro v hv
    obtain ⟨hp, hps⟩ := List.forall_mem_cons.mp h
    rw [List.map_cons, State.doAll_cons _ (hp v), State.settleBoundary_done v hv]
    exact ih hps (v.onTrunk p.2) (by rw [State.onTrunk_todo, hv])

theorem State.onTrunk_onTrunk (f g : Ctx → Trunk → Trunk) (s : State) :
    (s.onTrunk f).onTrunk g = s.onTrunk (fun x t => g x (f x t)) := rfl

/-- The six expiries of one circuit, as commands after the boundary has been counted. -/
theorem State.doAll_expiries (c : Nat) (hb : s.todo.boundary = false) :
    s.doAll [.alignmentTimeout c, .bridgeIdleWatchdog c, .streamLoss c, .peerHoldExpiry c, .holdExpiry c, .settleExpiry c] =
      s.onTrunk (fun x t => t.takeDue x c) := by
  refine (State.doAll_settled
    [(.alignmentTimeout c, fun x t => t.alignmentTimeout x c), (.bridgeIdleWatchdog c, fun x t => t.bridgeIdle x c),
      (.streamLoss c, fun x t => t.streamLoss x c), (.peerHoldExpiry c, fun x t => t.peerHoldExpiry x c),
      (.holdExpiry c, fun x t => t.holdExpiry x c), (.settleExpiry c, fun x t => t.settleExpiry x c)]
    ?_ s hb).trans ?_
  · simp only [List.forall_mem_cons, List.not_mem_nil, false_imp_iff, implies_true, and_true]
    exact ⟨fun _ => rfl, fun _ => rfl, fun _ => rfl, fun _ => rfl, fun _ => rfl, fun _ => rfl⟩
  · simp only [List.foldl_cons, List.foldl_nil, State.onTrunk_onTrunk]
    rfl

theorem State.doAll_allExpiries (cs : List Nat) : ∀ v : State, v.todo.boundary = false →
    v.doAll ((cs.map fun c => [Instr.alignmentTimeout c, .bridgeIdleWatchdog c, .streamLoss c, .peerHoldExpiry c,
      .holdExpiry c, .settleExpiry c]).flatten) = cs.foldl (fun v c => v.onTrunk (fun x t => t.takeDue x c)) v := by
  induction cs with
  | nil => exact fun _ _ => rfl
  | cons c cs ih =>
    intro v hv
    rw [List.map_cons, List.flatten_cons, State.doAll_append, State.doAll_expiries c hv]
    exact ih _ hv

/-- The closing takes the due events as their commands one after another would. -/
theorem State.doAll_dueCommands (hb : s.todo.boundary = false) : s.doAll dueCommands = s.takeEvents := by
  have peers : s.doAll ((List.range 15).map Instr.peerLoss) = s.losePeers :=
    State.doAll_map Instr.peerLoss (fun p v => v.losePeer p)
      (fun p v hv => by
        show Host.Outcome.next (v.settleBoundary.losePeer p) = _
        rw [State.settleBoundary_done v hv])
      (fun p v => v.losePeer_todo p) _ s hb
  have hb1 : s.losePeers.todo.boundary = false := by rw [State.losePeers_todo, hb]
  have rest (v : State) (hv : v.todo.boundary = false) :
      (v.doAll [Instr.listeningEnd]).doAll ((List.range 256).map Instr.windowJudgement) =
        v.endListening.onTrunk (fun x t => t.forEach (fun c t => t.windowJudgement x c)) := by
    have listening : v.doAll [Instr.listeningEnd] = v.endListening := by
      show v.settleBoundary.endListening = _
      rw [State.settleBoundary_done v hv]
    rw [listening, State.onTrunk_forEach (fun x c t => t.windowJudgement x c)]
    exact State.doAll_map Instr.windowJudgement _ (fun _ _ _ => rfl) (fun _ _ => rfl) _ _ (by rw [State.endListening_todo, hv])
  unfold dueCommands State.takeEvents
  rw [State.doAll_append, State.doAll_append, State.doAll_append, peers, State.doAll_allExpiries _ _ hb1,
    ← State.onTrunk_forEach (fun x c t => t.takeDue x c)]
  exact rest _ (by rw [State.onTrunk_todo, hb1])

/-! ## The quiet runs -/

theorem State.takeQuiet_eq (s : State) : s.takeQuiet = (List.range 256).foldl
    (fun v c => (v.onTrunk (fun x t => t.quietSplice x c)).onTrunk (fun x t => t.quietReverse x c)) s :=
  State.onTrunk_forEach (fun x c t => (t.quietSplice x c).quietReverse x c) s

theorem Trunk.quietSplice_of_not {t : Trunk} {x : Ctx} {c : Nat} (h : ¬ ((t.circuit c).state = .spliceWait ∧
    (t.circuit c).splice.ripe = true)) : t.quietSplice x c = t := if_neg h

theorem Trunk.quietReverse_of_not {t : Trunk} {x : Ctx} {c : Nat} (h : ¬ ((t.circuit c).state = .revertWait ∧
    (t.circuit c).splice.ripe = true)) : t.quietReverse x c = t := if_neg h

theorem State.ripeIn_iff (st : CircuitState) (c : Nat) (s : State) :
    s.ripeIn st c = true ↔ (s.circuit c).state = st ∧ (s.circuit c).splice.ripe = true := by
  simp [State.ripeIn]

theorem State.giveSlotNow_given {c : Nat} (h : (s.circuit c).path.given = true) : s.giveSlotNow c = s := if_pos h

theorem exec_quietRunSplice_of_given {c : Nat} (h : (s.circuit c).path.given = true) :
    exec (.quietRunSplice c) s = .next (s.onTrunk fun x t => t.quietSplice x c) := by
  show Host.Outcome.next (s.quietRunSplice c) = _
  unfold State.quietRunSplice
  dsimp only
  rw [State.giveSlotNow_given h]
  split
  · rfl
  next hr =>
    rw [State.ripeIn_iff] at hr
    exact congrArg (fun u => Host.Outcome.next { s with trunk := u }) (Trunk.quietSplice_of_not hr).symm

theorem exec_quietRunReverseSplice_of_given {c : Nat} (h : (s.circuit c).path.given = true) :
    exec (.quietRunReverseSplice c) s = .next (s.onTrunk fun x t => t.quietReverse x c) := by
  show Host.Outcome.next (s.quietRunReverseSplice c) = _
  unfold State.quietRunReverseSplice
  dsimp only
  rw [State.giveSlotNow_given h]
  split
  · rfl
  next hr =>
    rw [State.ripeIn_iff] at hr
    exact congrArg (fun u => Host.Outcome.next { s with trunk := u }) (Trunk.quietReverse_of_not hr).symm

/-! ## The orders at the head of the queue -/

variable {o : Order} {rest : List Order}

theorem State.headIs.takes (h : s.headIs o rest) : s.takes = true := by
  obtain ⟨hstar, hroom, hrestart, -⟩ := h
  simp [State.takes, hstar, hroom, hrestart, Config.replyPlaces]

theorem State.takes_iff (s : State) :
    s.takes = true ↔ s.stationState.onStar = true ∧ s.replyQueue.length < 8 ∧ s.restartTaken = false := by
  simp [State.takes, Config.replyPlaces, and_assoc]

theorem State.takes_eq_false (h : s.stationState.onStar = false ∨ 8 ≤ s.replyQueue.length ∨ s.restartTaken = true) :
    s.takes = false := by
  rw [Bool.eq_false_iff, ne_eq, State.takes_iff]
  rintro ⟨hstar, hroom, hrestart⟩
  rcases h with h | h | h
  · rw [hstar] at h; cases h
  · omega
  · rw [hrestart] at h; cases h

theorem exec_commandOf (row : OrderRow) (s : State) : exec (commandOf row) s = .next (s.takeAs row) := by
  cases row <;> rfl

/-- The order at the head leaves the queue and is answered at the tail of the replies. -/
theorem State.takeHead_of_head (h : s.headIs o rest) :
    s.takeHead = { (({ s with orderQueue := rest }.carryOut o).1) with
      replyQueue := s.replyQueue ++ [o.reply ({ s with orderQueue := rest }.carryOut o).2] } := by
  unfold State.takeHead
  rw [h.2.2.2]
  dsimp only
  rw [State.carryOut_replyQueue]

theorem State.takeNameless_of_head {n : Nat} (h : s.headIs o rest) (hrow : o.row.isSome = true) : s.takeNameless n = s := by
  cases n with
  | zero => rfl
  | succ n =>
    unfold State.takeNameless
    rw [h.2.2.2]
    dsimp only
    rw [Option.isNone_eq_false_iff.mpr hrow, Bool.false_and]
    rfl

/-- The command of the head's row takes it. -/
theorem State.takeAs_of_head {row : OrderRow} (h : s.headIs o rest) (hrow : o.row = some row) : s.takeAs row = s.takeHead := by
  unfold State.takeAs
  dsimp only
  rw [State.takeNameless_of_head h (by rw [hrow]; rfl), h.2.2.2]
  exact if_pos ⟨hrow, h.takes⟩

theorem exec_commandOf_head {row : OrderRow} (h : s.headIs o rest) (hrow : o.row = some row) :
    exec (commandOf row) s = .next s.takeHead := by
  rw [exec_commandOf, State.takeAs_of_head h hrow]

theorem State.carryOut_orderQueue (o : Order) (s : State) : (s.carryOut o).1.orderQueue = s.orderQueue :=
  (congrArg State.orderQueue (s.carryOut_sameButAct o) :)

theorem State.takeHead_orderQueue (h : s.orderQueue = o :: rest) : s.takeHead.orderQueue = rest := by
  unfold State.takeHead
  rw [h]
  exact State.carryOut_orderQueue o _

theorem State.takeAll_of_head (h : s.headIs o rest) : s.takeAll = s.takeHead.takeAll := by
  have queue := h.2.2.2
  unfold State.takeAll
  rw [State.takeHead_orderQueue queue, queue, List.length_cons]
  exact if_pos (by rw [h.takes, queue]; rfl)

theorem State.takeAll_of_empty (h : s.orderQueue = []) : s.takeAll = s := by
  unfold State.takeAll
  rw [h]
  rfl

/-- After the orders are taken none is left that can be taken. -/
theorem State.takeOrders_done (n : Nat) : ∀ s : State, s.orderQueue.length ≤ n →
    (s.takeOrders n).takes = false ∨ (s.takeOrders n).orderQueue = [] := by
  induction n with
  | zero => exact fun s h => .inr (List.length_eq_zero_iff.mp (Nat.le_zero.mp h))
  | succ n ih =>
    intro s h
    unfold State.takeOrders
    split
    · refine ih _ ?_
      cases hq : s.orderQueue with
      | nil =>
        unfold State.takeHead
        rw [hq]
        dsimp only
        rw [hq]
        exact Nat.zero_le _
      | cons o rest =>
        rw [State.takeHead_orderQueue hq]
        rw [hq] at h
        exact Nat.le_of_succ_le_succ h
    next hstop =>
      rw [Bool.and_eq_true, not_and_or, Bool.not_eq_true, Bool.not_eq_true, Bool.not_eq_false', List.isEmpty_iff] at hstop
      exact hstop

theorem State.takeAll_done (s : State) : s.takeAll.takes = false ∨ s.takeAll.orderQueue = [] :=
  State.takeOrders_done _ s (Nat.le_refl _)

theorem State.of_takes_eq_false (h : s.takes = false) :
    s.stationState.onStar = false ∨ 8 ≤ s.replyQueue.length ∨ s.restartTaken = true := by
  by_contra hn
  obtain ⟨hstar, hn⟩ := not_or.mp hn
  obtain ⟨hroom, hrestart⟩ := not_or.mp hn
  rw [s.takes_iff.mpr ⟨Bool.eq_true_of_not_eq_false hstar, Nat.not_le.mp hroom, Bool.eq_false_iff.mpr hrestart⟩] at h
  cases h

/-! ## The obligation -/

theorem State.countIdles_late (s : State) : s.countIdles.todo.boundary = s.todo.boundary := by
  unfold State.countIdles
  split <;> rfl

theorem State.giveAll_late (s : State) : s.giveAll.todo.boundary = s.todo.boundary := by
  unfold State.giveAll
  split <;> rfl

/-- Settles O7: the close of a frame is its commands in the order the frame has for them. -/
theorem boundaryCountsAndListening : Obligations.BoundaryCountsAndListening := by
  refine ⟨fun s hb hs => ?_, ?_, ?_⟩
  · have next : exec .listeningEnd s = .next s.countBoundary := by
      show Host.Outcome.next s.settleBoundary.endListening = _
      rw [State.settleBoundary_due hb, State.endListening_of_ne (s := s.countBoundary) hs]
    refine ⟨_, next, rfl, if_neg hs, fun c hc => ?_, ⟨?_, fun j f hj => ?_⟩, fun p hp h => ?_, fun p hp h => ?_, rfl, rfl, rfl, rfl⟩
    · rw [State.countBoundary_circuit s hc]
      exact ⟨rfl, (s.circuit c).countBoundary_silence, rfl⟩
    · rw [State.countBoundary_fallback, List.length_map]
    · rw [State.countBoundary_fallback, List.getElem?_map, hj, Option.map_some]
      refine ⟨fun h => ?_, fun l h hl => ?_, fun l h hl => ?_⟩
      · rw [FallbackRecord.countBoundary_pending h]
      · rw [FallbackRecord.countBoundary_fresh h hl]
      · rw [FallbackRecord.countBoundary_live h hl]
    · rw [State.countBoundary_peer, if_pos hp, PeerEntry.countBoundary_present h]
    · rw [State.countBoundary_peer, if_pos hp]
      exact if_neg h
  · intro s u hs
    have stationState : u.stationState = .listening := s.settleBoundary_stationState'.trans hs
    have stage : s.stage = if u.listenLeft = 0 then .operating else .listening :=
      s.settleBoundary_stage.symm.trans (State.stage_of_settled s.settleBoundary_boundary stationState)
    refine ⟨fun h => ?_, fun h => ?_, State.settleBoundary_listenLeft hs, ?_, ?_⟩
    · exact congrArg Host.Outcome.next (if_pos ⟨stationState, h⟩)
    · exact congrArg Host.Outcome.next (if_neg fun hl => h hl.2)
    · rw [stage]
      split <;> simp [*]
    · rw [stage]
      split <;> simp [*]
  · intro s u
    have settled : u.todo.boundary = false := s.settleBoundary_boundary
    have late : u.todo.late = s.todo.late := by
      show s.settleBoundary.todo.late = _
      unfold State.settleBoundary
      split <;> rfl
    refine ⟨fun hl => ?_, fun hl => ?_, s.takeQuiet_eq,
      fun c _ hg => ⟨exec_quietRunSplice_of_given hg, exec_quietRunReverseSplice_of_given hg⟩,
      fun o rest row h hrow => ⟨_, exec_commandOf_head h hrow, State.takeHead_orderQueue h.2.2.2, State.takeAll_of_head h⟩,
      fun h => ?_, ?_⟩
    · have rest : u.takeRest = u.takeEvents.takeAll.countIdles.giveAll.takeQuiet := if_neg (by rw [late, hl]; decide)
      rw [State.doAll_dueCommands settled, ← rest]
      rfl
    · have rest : u.takeRest = u.countIdles.giveAll.takeQuiet.takeEvents.takeAll := if_pos (late.trans hl)
      have quiet : u.countIdles.giveAll.takeQuiet.todo.boundary = false := by
        rw [State.takeQuiet, State.onTrunk_todo, State.giveAll_late, State.countIdles_late]
        exact settled
      rw [State.doAll_dueCommands quiet, ← rest]
      rfl
    · rcases or_assoc.mpr (or_assoc.mpr h) with h | h
      · exact State.takeAll_of_not_takes (State.takes_eq_false (or_assoc.mp h))
      · exact State.takeAll_of_empty h
    · unfold State.finishFrame
      rw [State.sendLane_stationState, State.sendLane_replyQueue, State.sendLane_restartTaken, State.sendLane_orderQueue]
      rcases State.takeAll_done s.settleBoundary.takeRest.buildRow.fillService with h | h
      · rcases State.of_takes_eq_false h with h | h | h
        · exact .inl h
        · exact .inr (.inl h)
        · exact .inr (.inr (.inl h))
      · exact .inr (.inr (.inr h))

end Sys2Proof.Machine
end

section
/-! The slot of a circuit through a frame: the guard, the fill frames and the sample given. -/

namespace Sys2Proof.Machine

variable {s t v : State} {x y : Ctx} {c : Nat} {r r' r'' : Circuit}

/-! ## One circuit changed -/

/-- The change of one circuit's record by an act of its own. -/
theorem State.onTrunk_modify_rest (f : Ctx → Circuit → Circuit) (s : State) (c : Nat) :
    s.sameOutside (s.onTrunk fun x t => t.modify c (f x)) ∧ s.trunk.onlyRecord c (s.onTrunk fun x t => t.modify c (f x)).trunk :=
  ⟨rfl, fun _ hd => Trunk.circuit_modify_ne _ _ hd, ⟨rfl, rfl, rfl⟩, rfl, rfl⟩

theorem State.onTrunk_modify_circuit (f : Ctx → Circuit → Circuit) (s : State) (hc : c < 256) :
    (s.onTrunk fun x t => t.modify c (f x)).circuit c = f s.ctx (s.circuit c) := Trunk.circuit_modify_same _ _ hc

theorem Trunk.modify_unchanged {t : Trunk} {f : Circuit → Circuit} (h : f (t.circuit c) = t.circuit c) :
    t.unchanged (t.modify c f) := by
  refine ⟨fun d => ?_, ⟨rfl, rfl, rfl⟩, rfl, rfl⟩
  rw [Trunk.circuit_modify]
  split
  next hd => rw [h, hd.1]
  · rfl

/-! ## A guard and a fill that run out -/

theorem Circuit.guardEnd_of_none (h : r.guard = none) : r.guardEnd = r := by
  unfold Circuit.guardEnd
  rw [h]

theorem Circuit.guardEnd_of_done {g : Guard} (h : r.guard = some g) (h0 : g.left = 0) : r.guardEnd = { r with guard := none } := by
  unfold Circuit.guardEnd
  rw [h]
  exact if_pos h0

theorem Circuit.guardEnd_of_running {g : Guard} (h : r.guard = some g) (h0 : g.left ≠ 0) : r.guardEnd = r := by
  unfold Circuit.guardEnd
  rw [h]
  exact if_neg h0

theorem Circuit.guardEnd_of_stays (h : ∀ g, r.guard = some g → g.left ≠ 0) : r.guardEnd = r := by
  cases hg : r.guard with
  | none => exact Circuit.guardEnd_of_none hg
  | some g => exact Circuit.guardEnd_of_running hg (h g hg)

theorem Circuit.fillEnd_of_due {f : Word} {run : FillRun} (h : r.splice.fill = some run) (hs : r.state.onFibre = true)
    (hf : f - run.start = BitVec.ofNat 16 run.count) :
    r.fillEnd f = { r with
      splice := { r.splice with fill := none }, path := { r.path with source := .fibre (r.splice.playOffset.getD 0) } } := by
  unfold Circuit.fillEnd
  rw [h]
  exact if_pos ⟨hs, hf⟩

theorem Circuit.fillEnd_of_not {f : Word}
    (h : ∀ run, r.splice.fill = some run → r.state.onFibre = true → f - run.start ≠ BitVec.ofNat 16 run.count) :
    r.fillEnd f = r := by
  unfold Circuit.fillEnd
  split
  next run hrun => exact if_neg fun hn => h run hrun hn.1 hn.2
  · rfl

theorem sub_eq_iff_eq_add_word (a b d : Word) : a - b = d ↔ a = b + d := by
  rw [sub_eq_iff_eq_add, add_comm]

/-- Settles O15: each end is an act on the one record. -/
theorem guardAndFillRunOut : Obligations.GuardAndFillRunOut := by
  refine ⟨fun s c hc => ?_, fun s c hc => ⟨fun run hrun hs hf => ?_, fun hnot => ?_⟩⟩
  · obtain ⟨houtside, hothers, hlists, hreports⟩ := s.onTrunk_modify_rest (fun _ => Circuit.guardEnd) c
    refine ⟨_, rfl, houtside, hothers, hlists, hreports, ?_, fun h => ?_⟩
    · rintro ⟨g, hg, h0⟩
      exact (s.onTrunk_modify_circuit (fun _ => Circuit.guardEnd) hc).trans (Circuit.guardEnd_of_done hg h0)
    · exact (s.onTrunk_modify_circuit (fun _ => Circuit.guardEnd) hc).trans (Circuit.guardEnd_of_stays h)
  · obtain ⟨houtside, honly⟩ := s.onTrunk_modify_rest (fun x => Circuit.fillEnd x.frame) c
    have ended : (s.onTrunk fun x t => t.modify c (Circuit.fillEnd x.frame)).circuit c = _ :=
      (s.onTrunk_modify_circuit (fun x => Circuit.fillEnd x.frame) hc).trans
        (Circuit.fillEnd_of_due hrun hs ((sub_eq_iff_eq_add_word _ _ _).mpr hf))
    refine ⟨_, rfl, houtside, honly, fun p hp => ?_, ?_, ?_⟩
    · rw [ended, hp]
      rfl
    · rw [ended, ← hrun]
    · rw [ended]
  · obtain ⟨houtside, -⟩ := s.onTrunk_modify_rest (fun x => Circuit.fillEnd x.frame) c
    exact ⟨_, rfl, houtside, Trunk.modify_unchanged (Circuit.fillEnd_of_not fun run hrun hs hf =>
      hnot run hrun hs ((sub_eq_iff_eq_add_word _ _ _).mp hf))⟩

/-! ## What the works of a frame leave of a slot -/

/-- The records differ at most in the timer, the silence count, the alignment, the release cells and the row. -/
def Circuit.SameSlot (r r' : Circuit) : Prop :=
  { r' with
    stateTimer := r.stateTimer, silence := r.silence, align := r.align, releaseCells := r.releaseCells,
    calendarRow := r.calendarRow } = r

@[refl] theorem Circuit.SameSlot.refl (r : Circuit) : r.SameSlot r := rfl

theorem Circuit.SameSlot.trans (h : r.SameSlot r') (g : r'.SameSlot r'') : r.SameSlot r'' := by
  unfold Circuit.SameSlot at *
  rw [← g] at h
  exact h

theorem Circuit.SameSlot.ite {q : Prop} [Decidable q] (hu : r.SameSlot r') (hv : r.SameSlot r'') :
    r.SameSlot (if q then r' else r'') := by
  split
  · exact hu
  · exact hv

theorem Circuit.SameSlot.guard (h : r.SameSlot r') : r'.guard = r.guard := (congrArg Circuit.guard h :)
theorem Circuit.SameSlot.splice (h : r.SameSlot r') : r'.splice = r.splice := (congrArg Circuit.splice h :)
theorem Circuit.SameSlot.path (h : r.SameSlot r') : r'.path = r.path := (congrArg Circuit.path h :)
theorem Circuit.SameSlot.state (h : r.SameSlot r') : r'.state = r.state := (congrArg Circuit.state h :)
theorem Circuit.SameSlot.deliveredCode (h : r.SameSlot r') : r'.deliveredCode = r.deliveredCode :=
  (congrArg Circuit.deliveredCode h :)

theorem Circuit.SameSlot.guardEnd (h : r.SameSlot r') : r.guardEnd.SameSlot r'.guardEnd := by
  cases hg : r.guard with
  | none =>
    rw [Circuit.guardEnd_of_none hg, Circuit.guardEnd_of_none (h.guard.trans hg)]
    exact h
  | some g =>
    by_cases h0 : g.left = 0
    · rw [Circuit.guardEnd_of_done hg h0, Circuit.guardEnd_of_done (h.guard.trans hg) h0]
      exact (congrArg (fun r : Circuit => { r with guard := none }) h :)
    · rw [Circuit.guardEnd_of_running hg h0, Circuit.guardEnd_of_running (h.guard.trans hg) h0]
      exact h

theorem Circuit.SameSlot.fillEnd (h : r.SameSlot r') (f : Word) : (r.fillEnd f).SameSlot (r'.fillEnd f) := by
  by_cases due : ∃ run, r.splice.fill = some run ∧ r.state.onFibre = true ∧ f - run.start = BitVec.ofNat 16 run.count
  · obtain ⟨run, hrun, hs, hf⟩ := due
    rw [Circuit.fillEnd_of_due hrun hs hf, Circuit.fillEnd_of_due (by rw [h.splice, hrun]) (by rw [h.state, hs]) hf, h.splice, h.path]
    exact (congrArg (fun u : Circuit => { u with
      splice := { r.splice with fill := none }, path := { r.path with source := .fibre (r.splice.playOffset.getD 0) } }) h :)
  · have stays : ∀ run, r.splice.fill = some run → r.state.onFibre = true → f - run.start ≠ BitVec.ofNat 16 run.count :=
      fun run hrun hs hf => due ⟨run, hrun, hs, hf⟩
    rw [Circuit.fillEnd_of_not stays, Circuit.fillEnd_of_not (by rw [h.splice, h.state]; exact stays)]
    exact h

theorem Circuit.SameSlot.giveSlot (h : r.SameSlot r') (x : Ctx) (c : Nat) : (r.giveSlot x c).SameSlot (r'.giveSlot x c) := by
  have ended := h.guardEnd.fillEnd x.frame
  unfold Circuit.giveSlot
  revert ended
  generalize r.guardEnd.fillEnd x.frame = u
  generalize r'.guardEnd.fillEnd x.frame = u'
  intro ended
  unfold Circuit.SameSlot at ended ⊢
  rw [← ended]
  rfl

theorem Circuit.SameSlot.giveOnce (h : r.SameSlot r') (x : Ctx) (c : Nat) : (r.giveOnce x c).SameSlot (r'.giveOnce x c) := by
  unfold Circuit.giveOnce
  rw [h.path]
  split
  · exact h
  · exact h.giveSlot x c

theorem Circuit.SameSlot.giveEarly (h : r.SameSlot r') (x : Ctx) (c : Nat) : (r.giveEarly x c).SameSlot (r'.giveEarly x c) := by
  unfold Circuit.giveEarly
  rw [h.path]
  split
  · exact h
  · exact h.giveOnce x c

theorem Circuit.sameSlot_countIdle (st : Settings) (b : Bool) (sw : Code) (r : Circuit) : r.SameSlot (r.countIdle st b sw) :=
  .ite (.ite rfl (.ite rfl (.refl r))) (.refl r)

/-- What the rules of a slot read of the station. -/
def Ctx.SameSlots (x y : Ctx) : Prop :=
  y.frame = x.frame ∧ y.settings = x.settings ∧ y.legacyIn = x.legacyIn ∧ y.switchIn = x.switchIn ∧
    y.station.passes = x.station.passes

theorem Circuit.giveSlot_congr (h : x.SameSlots y) (c : Nat) (r : Circuit) : r.giveSlot y c = r.giveSlot x c := by
  obtain ⟨hframe, hsettings, hlegacy, -, hpasses⟩ := h
  simp only [Circuit.giveSlot, Circuit.slotSample, Circuit.guardedCode, Circuit.slotCode, hframe, hsettings, hlegacy, hpasses]

theorem Circuit.giveEarly_congr (h : x.SameSlots y) (c : Nat) (r : Circuit) : r.giveEarly y c = r.giveEarly x c := by
  unfold Circuit.giveEarly Circuit.giveOnce
  rw [Circuit.giveSlot_congr h]

theorem State.SameSetup.slots (h : s.SameSetup t) : s.ctx.SameSlots t.ctx :=
  ⟨congrArg (Option.getD · 0) h.frameCount, h.settings, h.legacyIn, h.switchIn, by
    show t.stage.passes = s.stage.passes
    rw [State.stage_passes, State.stage_passes, h.passes]⟩

section
variable {P : Nat → Circuit → Prop} (hP : ∀ c (r r' : Circuit), P c r → r.SameSlot r' → P c r')
include hP

theorem State.settleBoundary_all (h : s.trunk.All P) : s.settleBoundary.trunk.All P := by
  unfold State.settleBoundary
  split
  · exact Trunk.All.of_eq (t := s.trunk.mapCircuits fun _ r => r.countBoundary)
      (h.mapCircuits fun c hc => hP c _ _ hc rfl) fun _ => rfl
  · exact h

theorem State.countIdles_all (h : s.trunk.All P) : s.countIdles.trunk.All P := by
  unfold State.countIdles
  split
  · exact h.mapCircuits fun c hc => hP c _ _ hc (.ite (.refl _) (Circuit.sameSlot_countIdle _ _ _ _))
  · exact h

theorem Trunk.All.countRelease_slot {u : Trunk} (c : Nat) (h : u.All P) : (u.countRelease c).All P := by
  have counted : (u.modify c fun r => { r with releaseCells := r.releaseCells - 1 }).All P := h.modify (hP c _ _ (h c) rfl)
  unfold Trunk.countRelease
  refine .ite (.ite ?_ counted) h
  unfold Trunk.leaveCalendar
  split
  · exact counted
  · refine Trunk.All.modify (f := fun r => { r with calendarRow := none }) (counted.of_eq fun _ => Trunk.circuit_setRow _ _ _ _) ?_
    rw [Trunk.circuit_setRow]
    exact hP c _ _ (counted c) rfl

theorem State.buildRow_all (h : s.trunk.All P) : s.buildRow.trunk.All P := by
  unfold State.buildRow
  split
  · show (s.trunk.countRow s.ctx).All P
    unfold Trunk.countRow
    generalize s.trunk.row (cyclePos s.ctx.frame) = cs
    have fold : ∀ u : Trunk, u.All P → (cs.foldl (fun t c => t.countRelease c) u).All P := by
      induction cs with
      | nil => exact fun _ hu => hu
      | cons c cs ih => exact fun u hu => ih _ (hu.countRelease_slot hP c)
    exact fold _ h
  · exact h
end

/-- Every slot of the open frame is that of `base`, but for what does not concern slots. -/
def State.Slots (base : Nat → Circuit) (s : State) : Prop := s.trunk.All fun c r => c < 256 → (base c).SameSlot r

theorem State.Slots.closed (base : Nat → Circuit) (c : Nat) (r r' : Circuit) (h : c < 256 → (base c).SameSlot r)
    (g : r.SameSlot r') : c < 256 → (base c).SameSlot r' := fun hc => (h hc).trans g

theorem State.Slots.giveSome {base : Nat → Circuit} (h : s.Slots base) (hx : x.SameSlots s.ctx) :
    s.giveSome.Slots fun c => (base c).giveEarly x c := by
  refine Trunk.All.of_eq (t := s.trunk.mapCircuits fun c r => r.giveEarly s.ctx c) (fun c hc => ?_) fun _ => rfl
  rw [Trunk.circuit_mapCircuits, if_pos hc, Circuit.giveEarly_congr hx]
  exact (h c hc).giveEarly x c

/-- A slot after the opening of a frame and its early works: given at once where the order of the frame asks for it and the
slot does not play fibre. -/
def Circuit.opened (x : Ctx) (c : Nat) (selectFirst : Bool) (r : Circuit) : Circuit :=
  if selectFirst then (r.openSlot x c).giveEarly x c else r.openSlot x c

theorem State.earlyWorks_slots {base : Nat → Circuit} (o : FrameOrder) (h : s.Slots base) (hx : x.SameSlots s.ctx) :
    (s.earlyWorks o).Slots fun c => if o.selectFirst then (base c).giveEarly x c else base c := by
  have ctx {v : State} (hv : s.InFrame False v) : x.SameSlots v.ctx := by
    obtain ⟨hframe, hsettings, hlegacy, hswitch, hpasses⟩ := hx
    obtain ⟨hframe', hsettings', hlegacy', hswitch', hpasses'⟩ := hv.sameSetup.slots
    exact ⟨hframe'.trans hframe, hsettings'.trans hsettings, hlegacy'.trans hlegacy, hswitch'.trans hswitch,
      hpasses'.trans hpasses⟩
  have ite {b : Bool} {base : Nat → Circuit} {u w : State} (hu : u.Slots base) (hw : w.Slots base) :
      (if b then u else w).Slots base := by
    cases b
    · exact hw
    · exact hu
  have closed := State.Slots.closed
  unfold State.earlyWorks
  dsimp only
  have h1 : State.Slots base (if o.boundaryLast then s else s.settleBoundary) := ite h (State.settleBoundary_all (closed base) h)
  have f1 : s.InFrame False (if o.boundaryLast then s else s.settleBoundary) := by
    split
    · exact .refl s
    · exact (State.InFrame.refl s).settleBoundary
  revert h1 f1
  generalize (if o.boundaryLast then s else s.settleBoundary) = s1
  intro h1 f1
  have h2 : State.Slots base (if o.idleFirst then s1.countIdles else s1) := ite (State.countIdles_all (closed base) h1) h1
  have f2 : s.InFrame False (if o.idleFirst then s1.countIdles else s1) := by
    split
    · exact f1.countIdles
    · exact f1
  revert h2 f2
  generalize (if o.idleFirst then s1.countIdles else s1) = s2
  intro h2 f2
  have h3 : State.Slots (fun c => if o.selectFirst then (base c).giveEarly x c else base c)
      (if o.selectFirst then s2.giveSome else s2) := by
    split
    · exact h2.giveSome (ctx f2)
    · exact h2
  have h4 := ite (b := o.buildFirst) (State.buildRow_all (closed _) h3) h3
  have service {v : State} (hv : v.Slots fun c => if o.selectFirst then (base c).giveEarly x c else base c) :
      v.fillService.Slots fun c => if o.selectFirst then (base c).giveEarly x c else base c := by
    unfold State.Slots
    rw [State.fillService_trunk]
    exact hv
  exact ite (service h4) h4

theorem State.openFrame_slot (sw lg : Highway) (o : FrameOrder) (s : State) (hc : c < 256) :
    ((s.circuit c).opened (s.beginFrame sw lg o.eventsLast o.between).ctx c o.selectFirst).SameSlot
      ((s.openFrame sw lg o).circuit c) := by
  refine State.earlyWorks_slots (base := fun c => (s.circuit c).openSlot (s.beginFrame sw lg o.eventsLast o.between).ctx c)
    o (fun c hc => ?_) ⟨rfl, rfl, rfl, rfl, rfl⟩ c hc
  have opened : ∀ x, (s.trunk.openSlots x).circuit c = (s.circuit c).openSlot x c := by
    intro x
    show (s.trunk.mapCircuits fun c r => r.openSlot x c).circuit c = _
    rw [Trunk.circuit_mapCircuits, if_pos hc]
    rfl
  show ((s.circuit c).openSlot _ c).SameSlot ((s.trunk.openSlots _).circuit c)
  rw [opened]

/-! ## The slot that is given -/

/-- What the ends of a guard and of the fill frames leave. -/
structure Circuit.SameEnded (r r' : Circuit) : Prop where
  deliveredCode : r'.deliveredCode = r.deliveredCode
  quietRun : r'.splice.quietRun = r.splice.quietRun
  switchPoint : r'.splice.switchPoint = r.splice.switchPoint

theorem Circuit.guardEnd_sameEnded (r : Circuit) : r.SameEnded r.guardEnd := by
  unfold Circuit.guardEnd
  split
  · split <;> exact ⟨rfl, rfl, rfl⟩
  · exact ⟨rfl, rfl, rfl⟩

theorem Circuit.fillEnd_sameEnded (f : Word) (r : Circuit) : r.SameEnded (r.fillEnd f) := by
  unfold Circuit.fillEnd
  split
  · split <;> exact ⟨rfl, rfl, rfl⟩
  · exact ⟨rfl, rfl, rfl⟩

@[simp] theorem Circuit.fillEnd_guard (f : Word) (r : Circuit) : (r.fillEnd f).guard = r.guard := by
  unfold Circuit.fillEnd
  split
  · split <;> rfl
  · rfl

/-- The record whose sample and code a slot gives: a guard and fill frames that have run out are ended. -/
def Circuit.ended (x : Ctx) (r : Circuit) : Circuit := r.guardEnd.fillEnd x.frame

theorem Circuit.ended_same (x : Ctx) (r : Circuit) : r.SameEnded (r.ended x) := by
  have h := r.guardEnd_sameEnded
  have g := r.guardEnd.fillEnd_sameEnded x.frame
  exact ⟨g.deliveredCode.trans h.deliveredCode, g.quietRun.trans h.quietRun, g.switchPoint.trans h.switchPoint⟩

theorem Circuit.ended_guard (x : Ctx) (r : Circuit) : (r.ended x).guard = r.guardEnd.guard := Circuit.fillEnd_guard _ _

/-- What a given slot holds. -/
structure Circuit.Given (x : Ctx) (c : Nat) (r r' : Circuit) : Prop where
  given : r'.path.given = true
  guard : r'.guard = r.guardEnd.guard
  source : r'.path.source = (r.ended x).path.source
  rx : r'.path.rx = ⟨(r.ended x).slotSample x c, r'.deliveredCode⟩
  deliveredCode : r'.deliveredCode = (r.ended x).guardedCode x c
  quietRun : r'.splice.quietRun = quietAfter x.settings ((r.ended x).slotSample x c) r.splice.quietRun
  switchPoint : r'.splice.switchPoint = r.splice.switchPoint

theorem Circuit.giveSlot_given (x : Ctx) (c : Nat) (r : Circuit) : r.Given x c (r.giveSlot x c) where
  given := rfl
  guard := r.ended_guard x
  source := rfl
  rx := rfl
  deliveredCode := rfl
  quietRun := congrArg (quietAfter x.settings _) (r.ended_same x).quietRun
  switchPoint := (r.ended_same x).switchPoint

theorem Circuit.Given.of_same (h : r.Given x c r') (g : r'.SameSlot r'') : r.Given x c r'' where
  given := by rw [g.path, h.given]
  guard := g.guard.trans h.guard
  source := by rw [g.path, h.source]
  rx := by rw [g.path, h.rx, g.deliveredCode]
  deliveredCode := g.deliveredCode.trans h.deliveredCode
  quietRun := by rw [g.splice, h.quietRun]
  switchPoint := by rw [g.splice, h.switchPoint]

theorem Circuit.guardedCode_of_guard {g : Guard} (hp : x.station.passes = false) (h : r.guard = some g) :
    r.guardedCode x c = g.frozen := by
  unfold Circuit.guardedCode
  rw [h]
  dsimp only
  rw [hp]
  rfl

theorem Circuit.guardedCode_of_none (h : r.guard = none) : r.guardedCode x c = r.slotCode x c := by
  unfold Circuit.guardedCode
  rw [h]

theorem Circuit.slotCode_copper (h : r.path.source = .copper) : r.slotCode x c = (slotOf x.legacyIn c).code := by
  unfold Circuit.slotCode
  rw [h]

theorem Circuit.slotCode_outOfService (h : r.path.source = .outOfService) : r.slotCode x c = x.settings.oosCode := by
  unfold Circuit.slotCode
  rw [h]

theorem Circuit.slotCode_holdover (h : r.path.source = .holdover) : r.slotCode x c = r.deliveredCode := by
  unfold Circuit.slotCode
  rw [h]

theorem Circuit.slotCode_fill (h : r.path.source = .fill) : r.slotCode x c = r.deliveredCode := by
  unfold Circuit.slotCode
  rw [h]

theorem quietAfter_le (st : Settings) (b : Byte) (n : Nat) : quietAfter st b n ≤ n + 1 := by
  unfold quietAfter countUp
  split <;> omega

/-- A guard that still runs gives its frozen code. -/
theorem Circuit.Given.frozen (h : r.Given x c r') (hp : x.station.passes = false) {g : Guard} (hg : r.guard = some g)
    (h0 : g.left ≠ 0) : r'.guard = some g ∧ r'.deliveredCode = g.frozen ∧ r'.path.rx.code = g.frozen := by
  have stays : r.guardEnd.guard = some g := by rw [Circuit.guardEnd_of_running hg h0, hg]
  have code : r'.deliveredCode = g.frozen :=
    h.deliveredCode.trans (Circuit.guardedCode_of_guard hp ((r.ended_guard x).trans stays))
  refine ⟨h.guard.trans stays, code, ?_⟩
  rw [h.rx]
  exact code

/-- Without a guard, or with one that has run out, the code is that of the source. -/
theorem Circuit.Given.unfrozen (h : r.Given x c r') (hg : ∀ g, r.guard = some g → g.left = 0) :
    r'.guard = none ∧ r'.deliveredCode = (r.ended x).slotCode x c ∧ r'.path.rx.code = r'.deliveredCode := by
  have ends : r.guardEnd.guard = none := by
    cases hr : r.guard with
    | none => rw [Circuit.guardEnd_of_none hr, hr]
    | some g => rw [Circuit.guardEnd_of_done hr (hg g hr)]
  refine ⟨h.guard.trans ends, h.deliveredCode.trans (Circuit.guardedCode_of_none ((r.ended_guard x).trans ends)), ?_⟩
  rw [h.rx]

/-! ## The slot of a frame that begins -/

theorem Circuit.startGuard_of_switch (h : r.splice.switchPoint = true) :
    r.startGuard x = { r with
      guard := if r.splice.guardOff then none else some ⟨x.settings.params.sigGuard, r.deliveredCode⟩
      splice := { r.splice with switchPoint := false, guardOff := false, ripe := false, quietRun := 0 } } := if_pos h

theorem Circuit.startGuard_of_not (h : r.splice.switchPoint = false) :
    r.startGuard x = { r with
      guard := r.guard.map (Guard.count x.frame), splice := { r.splice with guardOff := false, ripe := false } } :=
  if_neg (by rw [h]; decide)

/-- The items of the slot that its guard's start sets. -/
structure Circuit.Opened (x : Ctx) (r r' : Circuit) : Prop where
  given : r'.path.given = false
  guard : r'.guard = (r.startGuard x).guard
  deliveredCode : r'.deliveredCode = r.deliveredCode
  quietRun : r'.splice.quietRun = (r.startGuard x).splice.quietRun
  switchPoint : r'.splice.switchPoint = false

theorem Circuit.openSlot_opened (x : Ctx) (c : Nat) (r : Circuit) : r.Opened x (r.openSlot x c) := by
  have code : (r.startGuard x).deliveredCode = r.deliveredCode := by
    unfold Circuit.startGuard
    split <;> rfl
  have off : (r.startGuard x).splice.switchPoint = false := by
    cases h : r.splice.switchPoint with
    | true => rw [Circuit.startGuard_of_switch h]
    | false =>
      rw [Circuit.startGuard_of_not h]
      exact h
  exact ⟨rfl, rfl, code, rfl, off⟩

theorem Circuit.Opened.of_same (h : r.Opened x r') (g : r'.SameSlot r'') : r.Opened x r'' where
  given := by rw [g.path, h.given]
  guard := g.guard.trans h.guard
  deliveredCode := g.deliveredCode.trans h.deliveredCode
  quietRun := by rw [g.splice, h.quietRun]
  switchPoint := by rw [g.splice, h.switchPoint]

theorem Circuit.opened_cases (x : Ctx) (c : Nat) (b : Bool) (r : Circuit) :
    r.opened x c b = r.openSlot x c ∨ r.opened x c b = (r.openSlot x c).giveSlot x c := by
  unfold Circuit.opened Circuit.giveEarly Circuit.giveOnce
  cases b with
  | false => exact .inl rfl
  | true =>
    rw [if_pos rfl]
    split
    · exact .inl rfl
    · exact .inr (if_neg (by rw [(r.openSlot_opened x c).given]; decide))

/-- After a marker that is no start a slot is open, or has been given. -/
theorem exec_marker_slot {f : Word} {i : Instr} {sw lg : Highway} {straps : BitVec 4} {o : FrameOrder}
    (hi : i = .frameMarker sw lg straps o ∨ i = .missedFrameMarker sw lg o) (hs : s.stationState ≠ .reset)
    (hm : s.missCount < 16) (hf : s.frameCount = some f) (hr : s.finishFrame.sendsRestart = false) (hc : c < 256) :
    ∃ t x, exec i s = .next t ∧ x.frame = f + 1 ∧ x.settings = t.settings ∧ x.settings = s.settings ∧ x.legacyIn = lg ∧
      x.switchIn = sw ∧
      x.station.passes = s.stationState.passes ∧ t.settings = s.finishFrame.settings ∧
      ((s.finishFrame.circuit c).opened x c o.selectFirst).SameSlot (t.circuit c) := by
  let u : State := { s.finishFrame with missCount := Instr.markerMiss s.missCount i }
  have closed := s.finishFrame_sameSetup
  have setup := (State.openFrame_inFrame sw lg o u).sameSetup
  refine ⟨_, (u.beginFrame sw lg o.eventsLast o.between).ctx, exec_marker_of_no_start hi hs hm hr, ?_, setup.settings.symm,
    closed.settings, rfl, rfl, ?_, setup.settings, State.openFrame_slot sw lg o u hc⟩
  · show nextFrame s.finishFrame.frameCount = _
    rw [closed.frameCount, hf]
    rfl
  · show (u.beginFrame sw lg o.eventsLast o.between).stage.passes = _
    rw [State.stage_passes]
    exact closed.passes

/-- Settles O14: the slot of the frame is open or given, and its guard is the one that the beginning of the frame has left. -/
theorem guardFreezesSupervision : Obligations.GuardFreezesSupervision := by
  intro s f sw lg straps o i c hi hp hm hf hr hc hguard
  have outside : s.stationState ≠ .reset := by
    intro h
    rw [h] at hp
    cases hp
  obtain ⟨t, x, hexec, hframe, hsettings, hsettings', hlegacy, hswitch, hpasses, hfinish, same⟩ :=
    exec_marker_slot hi outside hm hf hr hc
  rw [hp] at hpasses
  revert same hguard
  generalize s.finishFrame.circuit c = r
  intro hguard same
  have open_ := r.openSlot_opened x c
  have cases_ : r.Opened x (t.circuit c) ∨ (r.openSlot x c).Given x c (t.circuit c) := by
    rcases r.opened_cases x c o.selectFirst with h | h <;> rw [h] at same
    · exact .inl (open_.of_same same)
    · exact .inr (((r.openSlot x c).giveSlot_given x c).of_same same)
  refine ⟨fun hsp hoff => ⟨t, hexec, ?_⟩, fun hsp hoff => ⟨t, hexec, ?_⟩, fun g hsp hg hleft => ⟨t, hexec, ?_⟩,
    fun g hsp hg hleft => ⟨t, hexec, ?_⟩⟩
  · have guard : (r.startGuard x).guard = some ⟨t.settings.params.sigGuard, r.deliveredCode⟩ := by
      rw [Circuit.startGuard_of_switch hsp, hoff, hsettings]
      rfl
    have quiet : (r.startGuard x).splice.quietRun = 0 := by rw [Circuit.startGuard_of_switch hsp]
    rcases cases_ with h | h
    · refine ⟨h.guard.trans guard, h.deliveredCode, fun hgiven => ?_, ?_, h.switchPoint⟩
      · rw [h.given] at hgiven
        cases hgiven
      · rw [h.quietRun, quiet]
        exact Nat.zero_le 1
    · obtain ⟨hg', hcode, hrx⟩ := h.frozen hpasses (open_.guard.trans guard) (by rw [hfinish]; exact Nat.ne_of_gt hguard)
      refine ⟨hg', hcode, fun _ => hrx, ?_, h.switchPoint.trans open_.switchPoint⟩
      rw [h.quietRun, open_.quietRun, quiet]
      exact quietAfter_le _ _ _
  · have guard : (r.startGuard x).guard = none := by
      rw [Circuit.startGuard_of_switch hsp, hoff]
      rfl
    have quiet : (r.startGuard x).splice.quietRun = 0 := by rw [Circuit.startGuard_of_switch hsp]
    rcases cases_ with h | h
    · refine ⟨h.guard.trans guard, ?_, h.switchPoint⟩
      rw [h.quietRun, quiet]
      exact Nat.zero_le 1
    · refine ⟨(h.unfrozen fun g hg => ?_).1, ?_, h.switchPoint.trans open_.switchPoint⟩
      · rw [open_.guard, guard] at hg
        cases hg
      · rw [h.quietRun, open_.quietRun, quiet]
        exact quietAfter_le _ _ _
  · have guard : (r.startGuard x).guard = some ⟨if (f + 1).toNat % 40 = 0 then g.left - 1 else g.left, g.frozen⟩ := by
      rw [Circuit.startGuard_of_not hsp, hg, ← hframe]
      show some (if x.frame.toNat % 40 = 0 then _ else _) = some _
      split <;> rfl
    rcases cases_ with h | h
    · refine ⟨fun hgiven => ?_, h.guard.trans guard⟩
      rw [h.given] at hgiven
      cases hgiven
    · obtain ⟨hg', hcode, hrx⟩ := h.frozen hpasses (open_.guard.trans guard) (by dsimp only; split <;> omega)
      exact ⟨fun _ => ⟨hcode, hrx⟩, hg'⟩
  · have guard : (r.startGuard x).guard = some ⟨if (f + 1).toNat % 40 = 0 then 0 else 1, g.frozen⟩ := by
      rw [Circuit.startGuard_of_not hsp, hg, ← hframe]
      show some (if x.frame.toNat % 40 = 0 then _ else _) = some _
      split
      · rw [hleft]
      · rw [← hleft]
    refine ⟨fun hpos => ?_, fun hpos => ?_⟩
    · rw [if_neg hpos] at guard
      rcases cases_ with h | h
      · refine ⟨h.guard.trans guard, fun hgiven => ?_⟩
        rw [h.given] at hgiven
        cases hgiven
      · obtain ⟨hg', hcode, hrx⟩ := h.frozen hpasses (open_.guard.trans guard) Nat.one_ne_zero
        exact ⟨hg', fun _ => ⟨hcode, hrx⟩⟩
    · rw [if_pos hpos] at guard
      rcases cases_ with h | h
      · refine ⟨fun _ => h.guard.trans guard, fun hgiven => ?_⟩
        rw [h.given] at hgiven
        cases hgiven
      · refine ⟨fun hgiven => ?_, fun _ => ?_⟩
        · rw [h.given] at hgiven
          cases hgiven
        · obtain ⟨hg', hcode, hrx⟩ := h.unfrozen fun g' hg' => by
            rw [open_.guard, guard] at hg'
            exact (congrArg Guard.left (Option.some.inj hg')).symm
          have delivered : ((r.openSlot x c).ended x).deliveredCode = r.deliveredCode :=
            ((r.openSlot x c).ended_same x).deliveredCode.trans open_.deliveredCode
          have code : (t.circuit c).path.rx.code = ((r.openSlot x c).ended x).slotCode x c := hrx.trans hcode
          rw [h.source, code, hrx.symm.trans code]
          refine ⟨hg', rfl, fun hsrc => ?_, fun hsrc => ?_, fun hsrc => ?_, fun hsrc _ => ?_⟩
          · rw [Circuit.slotCode_copper hsrc, hlegacy]
          · rw [Circuit.slotCode_outOfService hsrc, hsettings]
          · rw [Circuit.slotCode_holdover hsrc, delivered]
          · rw [Circuit.slotCode_fill hsrc, delivered]

end Sys2Proof.Machine
end

section
/-! The reports, and what the lane receiver makes of a place. -/

namespace Sys2Proof.Machine

variable {s t v : State} {x : Ctx} {c : Nat}

/-! ## Reports -/

theorem Trunk.report_of_unbound {t : Trunk} (h : (t.circuit c).binding = none) (x : Ctx) (k : ReportKind)
    (v : Option ReportVariant) (d : Option Nat) (fl : SpliceFlags) : t.report x c k v d fl = t := by
  unfold Trunk.report
  rw [h]

theorem Trunk.report_of_last {t : Trunk} {k : ReportKind} (h : (t.circuit c).lastReported = some k) (x : Ctx)
    (v : Option ReportVariant) (d : Option Nat) (fl : SpliceFlags) : t.report x c k v d fl = t := by
  unfold Trunk.report
  cases (t.circuit c).binding with
  | none => rfl
  | some b => exact if_pos h

theorem Trunk.report_of_full {t : Trunk} {k : ReportKind} {b : Binding} (hb : (t.circuit c).binding = some b)
    (hk : (t.circuit c).lastReported ≠ some k) (hfull : 64 ≤ t.reports.length) (x : Ctx) (v : Option ReportVariant)
    (d : Option Nat) (fl : SpliceFlags) :
    t.report x c k v d fl = { t with reportOverflow := min (t.reportOverflow + 1) 255 } := by
  have full : ¬ t.reports.length < Config.reportPlaces := Nat.not_lt.mpr hfull
  unfold Trunk.report Trunk.enterReport
  rw [hb]
  dsimp only
  rw [if_neg hk, if_neg full, if_neg full]
  rfl

/-- Settles O55: the filter, then the queue. -/
theorem reportsFilteredAndEntered : Obligations.ReportsFilteredAndEntered := by
  intro x t c k v d fl hc
  refine ⟨fun h => Trunk.report_of_unbound h x k v d fl, fun b hb => ⟨fun h => Trunk.report_of_last h x v d fl, fun hk hroom => ?_,
    fun hk hfull => Trunk.report_of_full hb hk hfull x v d fl⟩⟩
  obtain ⟨entered, lists, others, own⟩ := t.report_passes x v d fl hc hb hk
  obtain ⟨hreports, hoverflow⟩ := entered.1 hroom
  rw [if_pos hroom] at own
  exact ⟨hreports, hoverflow, own, others, lists⟩

theorem Trunk.enterReport_entered (rep : Report) (t : Trunk) : t.entered rep (t.enterReport rep) := by
  unfold Trunk.enterReport
  refine ⟨fun h => ?_, fun h => ?_⟩
  · rw [if_pos (show t.reports.length < Config.reportPlaces from h)]
    exact ⟨rfl, rfl⟩
  · rw [if_neg (show ¬ t.reports.length < Config.reportPlaces from Nat.not_lt.mpr h)]
    exact ⟨rfl, rfl⟩

/-! ## The checks of a place -/

variable {lane : Nat} {place : List Byte}

theorem exec_cell {i : Instr} (hi : i = .bearerCell lane place ∨ i = .beacon lane place ∨ i = .orderCell lane place ∨
    i = .replyCell lane place) (s : State) : exec i s = .next (s.receivePlace lane place) := by
  rcases hi with rfl | rfl | rfl | rfl <;> rfl

theorem State.takesCell.hears (h : s.takesCell lane place) : s.hears lane = true := by
  obtain ⟨hstar, hlane, hself, -⟩ := h
  simp [State.hears, hstar, hlane, hself]

theorem State.receivePlace_unheard (h : s.stationState.onStar = false ∨ 15 ≤ lane ∨ s.stationNo = some lane ∨
    isEmptyPlace place = true) : s.receivePlace lane place = s := by
  by_cases heard : s.hears lane = false
  · exact if_pos heard
  · have empty : isEmptyPlace place = true := by
      simp only [State.hears, Bool.not_eq_false, Bool.and_eq_true, decide_eq_true_eq, Bool.not_eq_true', decide_eq_false_iff_not] at heard
      obtain ⟨⟨hstar, hlane⟩, hself⟩ := heard
      rcases h with h | h | h | h
      · rw [hstar] at h; cases h
      · omega
      · exact absurd h hself
      · exact h
    unfold State.receivePlace
    rw [if_neg heard, if_pos empty]

theorem State.receivePlace_of_cell (h : s.takesCell lane place) :
    s.receivePlace lane place =
      if headerOk lane place = true ∧ bodyOk place = true then s.handOn lane place else s.headerError lane := by
  unfold State.receivePlace
  rw [if_neg (by rw [h.hears]; decide), if_neg (by rw [h.2.2.2]; decide)]
  simp only [Bool.and_eq_true]

theorem State.receivePlace_of_bad (h : s.takesCell lane place)
    (hbad : headerOk lane place = false ∨ bodyOk place = false) : s.receivePlace lane place = s.headerError lane := by
  rw [State.receivePlace_of_cell h, if_neg]
  rintro ⟨hheader, hbody⟩
  rcases hbad with hbad | hbad
  · rw [hheader] at hbad; cases hbad
  · rw [hbody] at hbad; cases hbad

theorem State.receivePlace_of_good (h : s.takesCell lane place) (hheader : headerOk lane place = true)
    (hbody : bodyOk place = true) : s.receivePlace lane place = s.handOn lane place := by
  rw [State.receivePlace_of_cell h, if_pos ⟨hheader, hbody⟩]

theorem bodyOk_of_beacon (h : kindOf place = 2) : bodyOk place = beaconBodyOk place := if_pos h

theorem bodyOk_of_order (h : kindOf place = 3) : bodyOk place = orderBodyOk place := by
  unfold bodyOk
  rw [if_neg (by rw [h]; decide), if_pos h]

theorem bodyOk_of_bearer (h : kindOf place = 1) : bodyOk place = true := by
  unfold bodyOk
  rw [if_neg (by rw [h]; decide), if_neg (by rw [h]; decide)]

theorem bodyOk_of_reply (h : kindOf place = 4) : bodyOk place = true := by
  unfold bodyOk
  rw [if_neg (by rw [h]; decide), if_neg (by rw [h]; decide)]

theorem State.handOn_beacon (h : kindOf place = 2) (s : State) :
    s.handOn lane place = if s.settings.acceptMask.getLsbD lane then s.takeBeacon lane (beaconOf place) else s := by
  unfold State.handOn
  rw [h]
  rfl

theorem State.handOn_order (h : kindOf place = 3) (s : State) : s.handOn lane place = s.takeOrderCell place := by
  unfold State.handOn
  rw [h]
  rfl

theorem State.handOn_reply (h : kindOf place = 4) (s : State) : s.handOn lane place = s := by
  unfold State.handOn
  rw [h]
  rfl

theorem State.handOn_bearer {ph : Phase} (h : kindOf place = 1) (hph : phaseOf place = some ph) (s : State) :
    s.handOn lane place = if s.settings.acceptMask.getLsbD lane then s.takeBearer lane place ph else s := by
  show (match kindOf place with
    | 1 => _
    | 2 => _
    | 3 => _
    | _ => _) = _
  rw [h]
  show (match phaseOf place with
    | some ph => _
    | none => _) = _
  rw [hph]
  rfl

theorem phaseOfCode_isSome (n : Nat) : (phaseOfCode n).isSome = true ↔ 1 ≤ n ∧ n ≤ 6 := by
  unfold phaseOfCode
  split
  case h_7 h1 h2 h3 h4 h5 h6 =>
    refine ⟨nofun, fun h => ?_⟩
    have : n ≠ 1 ∧ n ≠ 2 ∧ n ≠ 3 ∧ n ≠ 4 ∧ n ≠ 5 ∧ n ≠ 6 := ⟨h1, h2, h3, h4, h5, h6⟩
    omega
  all_goals simp

theorem headerOk_iff (lane : Nat) (place : List Byte) :
    headerOk lane place = true ↔ 1 ≤ kindOf place ∧ kindOf place ≤ 4 ∧ senderOf place = lane ∧
      (kindOf place = 1 → (phaseOf place).isSome = true) ∧ byteAt place 5 = crc8 (bytesFrom place 0 5) := by
  simp only [headerOk, Bool.and_eq_true, decide_eq_true_eq, Bool.or_eq_true, beq_iff_eq, and_assoc, ne_eq,
    ← Decidable.imp_iff_not_or]

theorem State.headerError_peer (lane q : Nat) (s : State) : (s.headerError lane).peer q =
    if q = lane then { s.peer lane with headerErrors := min ((s.peer lane).headerErrors + 1) 255 } else s.peer q :=
  State.peer_setPeer _ _ _ _

/-- Settles O16: the four cell commands are one, and sort the place. -/
theorem placesCheckedAndDamageCounted : Obligations.PlacesCheckedAndDamageCounted := by
  refine ⟨fun s lane place i hi => ?_, fun lane place => ?_⟩
  · rw [exec_cell hi s]
    refine ⟨fun htakes hbad => ?_, fun htakes hheader hkind => ?_, fun h => by rw [State.receivePlace_unheard h]⟩
    · have bad : headerOk lane place = false ∨ bodyOk place = false := by
        rcases hbad with h | ⟨hk, h⟩ | ⟨hk, h⟩
        · exact .inl h
        · exact .inr ((bodyOk_of_beacon hk).trans h)
        · exact .inr ((bodyOk_of_order hk).trans h)
      rw [State.receivePlace_of_bad htakes bad]
      refine ⟨_, rfl, rfl, ?_, fun q hq => ?_⟩
      · rw [State.headerError_peer, if_pos rfl]
      · rw [State.headerError_peer, if_neg hq]
    · rw [State.receivePlace_of_good htakes hheader (bodyOk_of_reply hkind), State.handOn_reply hkind]
  · rw [headerOk_iff]
    unfold phaseOf
    rw [phaseOfCode_isSome]
    rfl

/-! ## Orders heard -/

theorem State.addressed_iff (place : List Byte) (s : State) :
    s.addressed place = true ↔ (byteAt place 1).toNat % 16 = 15 ∨ s.stationNo = some ((byteAt place 1).toNat % 16) := by
  simp only [State.addressed, Bool.or_eq_true, decide_eq_true_eq]
  rfl

theorem State.takeOrderCell_of_addressed (h : s.addressed place = true) :
    s.takeOrderCell place = s.takeAll.joinOrder (orderOf place) := if_pos h

theorem State.joinOrder_of_room (h : s.orderQueue.length < 4) (o : Order) :
    s.joinOrder o = { s with orderQueue := s.orderQueue ++ [o] } := if_pos h

theorem State.joinOrder_of_full (h : 4 ≤ s.orderQueue.length) (o : Order) :
    s.joinOrder o = { s with orderOverflow := min (s.orderOverflow + 1) 255 } :=
  if_neg (show ¬ s.orderQueue.length < 4 from Nat.not_lt.mpr h)

theorem exec_orderCell_of_good (htakes : s.takesCell lane place) (hheader : headerOk lane place = true)
    (hkind : kindOf place = 3) (hbody : orderBodyOk place = true) :
    exec (.orderCell lane place) s = .next (s.takeOrderCell place) := by
  rw [exec_cell (.inr (.inr (.inl rfl))) s,
    State.receivePlace_of_good htakes hheader ((bodyOk_of_order hkind).trans hbody), State.handOn_order hkind]

theorem State.takeAll_of_not (h : s.orderQueue = [] ∨ 8 ≤ s.replyQueue.length ∨ s.restartTaken = true) : s.takeAll = s := by
  rcases h with h | h
  · exact State.takeAll_of_empty h
  · exact State.takeAll_of_not_takes (State.takes_eq_false (.inr h))

/-- Settles O17: the order joins the queue that the orders before it have left. -/
theorem orderCellsQueued : Obligations.OrderCellsQueued := by
  intro s lane place u htakes hheader hkind hbody
  have next := exec_orderCell_of_good htakes hheader hkind hbody
  refine ⟨fun haddr hroom => ?_, fun haddr hfull => ?_, fun hall hnot => ?_, State.takeAll_of_not, ?_⟩
  · rw [State.takeOrderCell_of_addressed ((s.addressed_iff place).mpr haddr), State.joinOrder_of_room hroom] at next
    obtain ⟨-, -, hsender, -⟩ := (headerOk_iff lane place).mp hheader
    exact ⟨_, _, next, rfl, rfl, hsender, rfl, rfl, rfl, rfl, rfl⟩
  · rw [State.takeOrderCell_of_addressed ((s.addressed_iff place).mpr haddr), State.joinOrder_of_full hfull] at next
    exact next
  · rw [next]
    refine congrArg Host.Outcome.next (if_neg ?_)
    rw [s.addressed_iff]
    exact not_or.mpr ⟨hall, hnot⟩
  · rcases State.takeAll_done s with h | h
    · rcases State.of_takes_eq_false h with h | h
      · rw [((State.InFrame.refl s).takeAll (e := False)).stationState id, htakes.1] at h
        cases h
      · exact .inr h
    · exact .inl h

/-! ## Beacons heard -/

theorem State.losePeer_of_not {p : Nat} (h : (s.peer p).lossDue = false) : s.losePeer p = s := if_neg (by rw [h]; decide)

/-- A beacon that shows no restart and no return of its station. -/
theorem State.judgeBeacon_of_quiet {p n : Nat} (hlost : (s.peer p).state ≠ .lost)
    (h : (s.peer p).state = .absent ∨ ∃ m, (s.peer p).cycles = some m ∧ m ≤ n) : s.judgeBeacon p n = s := by
  unfold State.judgeBeacon
  rcases h with h | ⟨m, hm, hmn⟩
  · rw [h]
  · rw [hm]
    cases hs : (s.peer p).state with
    | absent => rfl
    | present => exact if_neg (Nat.not_lt.mpr hmn)
    | lost => exact absurd hs hlost

theorem State.judgeBeacon_of_back {p n m : Nat} (hlost : (s.peer p).state = .lost) (hm : (s.peer p).cycles = some m)
    (hmn : m ≤ n) : s.judgeBeacon p n = s.onTrunk (fun x t => t.reportStation x p .peerBack) := by
  unfold State.judgeBeacon
  rw [hlost, hm]
  exact if_neg (Nat.not_lt.mpr hmn)

theorem PeerEntry.hear_beaconOf (place : List Byte) (e : PeerEntry) : e.hear (beaconOf place) = heardFrom place e := rfl

/-- The entry and the matched flags after a beacon, whatever it has brought to the circuits. -/
def State.afterBeacon (p : Nat) (place : List Byte) (s : State) : State :=
  (s.setPeer p (heardFrom place (s.peer p))).reformMatched p

theorem State.afterBeacon_peer (p q : Nat) (place : List Byte) (s : State) :
    (s.afterBeacon p place).peer q = if q = p then heardFrom place (s.peer p) else s.peer q :=
  State.peer_setPeer p q (heardFrom place (s.peer p)) s

theorem Window.matchedBy_iff (n : Nat) (digest : Option (List DigestEntry)) (w : Window) :
    w.matchedBy n digest = true ↔ w.enabled = true ∧ w.validity = .valid ∧ ∃ ds, digest = some ds ∧
      ∃ d ∈ ds, d.valid = true ∧ d.peer = n ∧ d.localBase = w.peerBase ∧ d.peerBase = w.localBase ∧ d.length = w.length := by
  unfold Window.matchedBy
  cases digest <;> simp [Window.inForce, DigestEntry.agrees, and_assoc]

theorem State.afterBeacon_matched (p : Nat) (place : List Byte) (s : State) : s.matchedFrom p place (s.afterBeacon p place) := by
  have windows : (s.afterBeacon p place).windows = s.windows.map fun w => if w.peer = p then
      { w with matched := w.matchedBy (s.stationNo.getD 15) (heardFrom place (s.peer p)).digest } else w := by
    have digest : (State.peer (s.setPeer p (heardFrom place (s.peer p))) p).digest = (heardFrom place (s.peer p)).digest := by
      rw [State.peer_setPeer_same]
    rw [← digest]
    rfl
  refine ⟨by rw [windows, List.length_map], fun j w hj => ⟨fun hw => ?_, fun hw => ?_⟩⟩
  · rw [windows, List.getElem?_map, hj, Option.map_some, if_neg hw]
  · refine ⟨{ w with matched := w.matchedBy (s.stationNo.getD 15) (heardFrom place (s.peer p)).digest },
      by rw [windows, List.getElem?_map, hj, Option.map_some, if_pos hw], rfl, (Window.matchedBy_iff _ _ w).trans ?_⟩
    have digest : (heardFrom place (s.peer p)).digest =
        if (byteAt place 2).getLsbD 6 then none else some (digestAt place 12) := rfl
    rw [digest]
    cases (byteAt place 2).getLsbD 6 <;> simp

theorem exec_beacon_of_good {p : Nat} (htakes : s.takesCell p place) (hheader : headerOk p place = true)
    (hkind : kindOf place = 2) (hbody : beaconBodyOk place = true) :
    exec (.beacon p place) s =
      .next (if s.settings.acceptMask.getLsbD p then s.takeBeacon p (beaconOf place) else s) := by
  rw [exec_cell (.inr (.inl rfl)) s,
    State.receivePlace_of_good htakes hheader ((bodyOk_of_beacon hkind).trans hbody), State.handOn_beacon hkind]

/-- The part of a beacon that does not depend on what it brings to the circuits. -/
theorem State.takeBeacon_eq (p : Nat) (place : List Byte) (h : (s.peer p).lossDue = false) :
    s.takeBeacon p (beaconOf place) = (s.judgeBeacon p (fieldAt place 6 6)).afterBeacon p place := by
  unfold State.takeBeacon
  rw [State.losePeer_of_not h]
  rfl

/-- What a beacon leaves of the station, once it has brought `u` to the trunk. -/
theorem State.afterBeacon_of_trunk (p : Nat) (place : List Byte) (s : State) (u : Trunk) :
    let t := { s with trunk := u }.afterBeacon p place
    t.peer p = heardFrom place (s.peer p) ∧ (∀ q, q ≠ p → t.peer q = s.peer q) ∧
      { t with peers := s.peers, windows := s.windows, trunk := s.trunk } = s ∧ t.trunk = u ∧ s.matchedFrom p place t := by
  have matched := State.afterBeacon_matched p place { s with trunk := u }
  exact ⟨(State.afterBeacon_peer p p place _).trans (if_pos rfl),
    fun q hq => (State.afterBeacon_peer p q place _).trans (if_neg hq), rfl, rfl, matched⟩

theorem Trunk.reportStation_entered (x : Ctx) (p : Nat) (k : ReportKind) (t : Trunk) :
    t.entered (aboutStation x.cycles p k) (t.reportStation x p k) ∧ (t.reportStation x p k).circuits = t.circuits ∧
      t.sameLists (t.reportStation x p k) :=
  ⟨Trunk.enterReport_entered _ _, Trunk.enterReport_circuits _ _, Trunk.enterReport_fallback _ _,
    Trunk.enterReport_waitQueue _ _, Trunk.enterReport_calendar _ _⟩

/-- Settles O18: the report of a station that is back, then the entry and the flags. -/
theorem beaconsKeepThePeerTable : Obligations.BeaconsKeepThePeerTable := by
  intro s p place htakes hheader hkind hbody
  have next := exec_beacon_of_good htakes hheader hkind hbody
  refine ⟨fun hmask => ?_, fun hmask hdue hbefore => ?_⟩
  · rw [next, hmask]
    rfl
  · rw [hmask, if_pos rfl, State.takeBeacon_eq p place hdue] at next
    by_cases hlost : (s.peer p).state = .lost
    · obtain ⟨m, hm, hmn⟩ : ∃ m, (s.peer p).cycles = some m ∧ m ≤ fieldAt place 6 6 :=
        hbefore.resolve_left (by rw [hlost]; nofun)
      rw [State.judgeBeacon_of_back hlost hm hmn] at next
      obtain ⟨entered, circuits, lists⟩ := s.trunk.reportStation_entered s.ctx p .peerBack
      obtain ⟨own, others, rest, trunk, matched⟩ := s.afterBeacon_of_trunk p place (s.trunk.reportStation s.ctx p .peerBack)
      refine ⟨_, next, own, others, rest, ?_⟩
      refine ⟨(congrArg Trunk.circuits trunk).trans circuits, ?_, fun _ => ?_, fun h => absurd hlost h, matched⟩
      · exact trunk.symm ▸ lists
      · exact trunk.symm ▸ entered
    · rw [State.judgeBeacon_of_quiet hlost hbefore] at next
      obtain ⟨own, others, rest, trunk, matched⟩ := s.afterBeacon_of_trunk p place s.trunk
      exact ⟨_, next, own, others, rest, congrArg Trunk.circuits trunk, ⟨rfl, rfl, rfl⟩, fun h => absurd h hlost,
        fun _ => ⟨rfl, rfl⟩, matched⟩

/-! ## Bearer cells that are not delivered -/

theorem exec_bearerCell_of_good {p : Nat} {ph : Phase} (htakes : s.takesCell p place) (hheader : headerOk p place = true)
    (hkind : kindOf place = 1) (hph : phaseOf place = some ph) :
    exec (.bearerCell p place) s =
      .next (if s.settings.acceptMask.getLsbD p then s.takeBearer p place ph else s) := by
  rw [exec_cell (.inl rfl) s, State.receivePlace_of_good htakes hheader (bodyOk_of_bearer hkind), State.handOn_bearer hkind hph]

theorem State.takeBearer_of_noWindow {p : Nat} {ph : Phase}
    (h : s.windows.find? (Window.maps p (senderCircuitOf place)) = none) : s.takeBearer p place ph = s.unboundCell p := by
  unfold State.takeBearer
  rw [h]

theorem State.takeBearer_of_unmatched {p : Nat} {ph : Phase} {w : Window} (h : s.mapsCell p place w c)
    (hw : w.matched = false) :
    s.takeBearer p place ph =
      if s.stage = .operating then (s.unboundCell p).onTrunk (fun x t => t.mismatch x c ph) else s.unboundCell p := by
  obtain ⟨hfind, rfl⟩ := h
  unfold State.takeBearer
  rw [hfind]
  dsimp only
  rw [hw]
  rfl

theorem Phase.startsFollow_iff (ph : Phase) : ph.startsFollow = true ↔ ph ≠ .release := by cases ph <;> decide

theorem Trunk.mismatch_of_not {t : Trunk} {ph : Phase} (h : (t.circuit c).state ≠ .copper ∨ ph = .release) :
    t.mismatch x c ph = t := by
  refine if_neg ?_
  rw [Phase.startsFollow_iff]
  rintro ⟨hs, hph⟩
  exact h.elim (· hs) hph

theorem Trunk.mismatch_of_copper {t : Trunk} {ph : Phase} (h : (t.circuit c).state = .copper) (hph : ph ≠ .release) :
    t.mismatch x c ph = t.reportPlain x c .mismatch := if_pos ⟨h, ph.startsFollow_iff.mpr hph⟩

/-- What a report changes besides the queue: the last reported kind of its circuit. -/
theorem Trunk.report_kindOnly (x : Ctx) (t : Trunk) (c : Nat) (k : ReportKind) (v : Option ReportVariant) (d : Option Nat)
    (fl : SpliceFlags) (e : Nat) :
    { (t.report x c k v d fl).circuit e with lastReported := (t.circuit e).lastReported } = t.circuit e := by
  obtain ⟨others, -, l, own⟩ := t.report_frame x c k v d fl
  by_cases he : e = c
  · rw [he, own]
  · rw [others e he]

theorem Trunk.mismatch_rest (x : Ctx) (t : Trunk) (c : Nat) (ph : Phase) :
    t.sameLists (t.mismatch x c ph) ∧
      ∀ d, { (t.mismatch x c ph).circuit d with lastReported := (t.circuit d).lastReported } = t.circuit d := by
  unfold Trunk.mismatch
  split
  · exact ⟨(t.report_frame x c .mismatch none none .clear).2.1, t.report_kindOnly x c .mismatch none none .clear⟩
  · exact ⟨⟨rfl, rfl, rfl⟩, fun _ => rfl⟩

theorem State.mapsCell.unique {p : Nat} {w w' : Window} {c' : Nat} (h : s.mapsCell p place w c) (g : s.mapsCell p place w' c') :
    w' = w ∧ c' = c := by
  obtain ⟨hw, rfl⟩ := h
  obtain ⟨hw', rfl⟩ := g
  rw [hw, Option.some.injEq] at hw'
  exact ⟨hw'.symm, by rw [hw']⟩

theorem State.unboundCell_peer (p q : Nat) (s : State) : (s.unboundCell p).peer q =
    if q = p then { s.peer p with unbound := min ((s.peer p).unbound + 1) 255 } else s.peer q :=
  State.peer_setPeer _ _ _ _

/-- Settles O19: the count, and the report of a mismatch in COPPER. -/
theorem unboundBearerCells : Obligations.UnboundBearerCells := by
  intro s p place ph htakes hheader hkind hph
  have next := exec_bearerCell_of_good htakes hheader hkind hph
  refine ⟨fun hmask => ?_, fun hmask hwindow => ?_⟩
  · rw [next, hmask]
    rfl
  · rw [hmask, if_pos rfl] at next
    have own := (s.unboundCell_peer p p).trans (if_pos rfl)
    have others : ∀ q, q ≠ p → (s.unboundCell p).peer q = s.peer q := fun q hq => (s.unboundCell_peer p q).trans (if_neg hq)
    rcases hwindow with hnone | ⟨w, c, hmaps, hw⟩
    · rw [State.takeBearer_of_noWindow hnone] at next
      refine ⟨_, next, own, others, rfl, ⟨rfl, rfl, rfl⟩, fun _ => rfl, fun _ => ⟨rfl, rfl⟩, fun w c b hmaps => ?_⟩
      have found := hmaps.1
      rw [hnone] at found
      cases found
    · rw [State.takeBearer_of_unmatched hmaps hw] at next
      have noWindow : s.windows.find? (Window.maps p (senderCircuitOf place)) ≠ none := by rw [hmaps.1]; nofun
      by_cases hstage : s.stage = .operating
      · rw [if_pos hstage] at next
        obtain ⟨lists, kinds⟩ := s.trunk.mismatch_rest (s.unboundCell p).ctx c ph
        refine ⟨_, next, own, others, rfl, lists, kinds, fun h => absurd h noWindow, fun w' c' b hmaps' hc hb => ?_⟩
        obtain ⟨-, rfl⟩ := hmaps.unique hmaps'
        refine ⟨fun ⟨_, hs, hne, hk⟩ => ?_, fun h => ?_⟩
        · show s.trunk.entered _ (s.trunk.mismatch _ c' ph)
          rw [Trunk.mismatch_of_copper hs hne]
          exact (s.trunk.report_passes _ none none .clear hc hb hk).1
        · show s.trunk.sameReports (s.trunk.mismatch _ c' ph)
          by_cases hfree : (s.trunk.circuit c').state ≠ .copper ∨ ph = .release
          · rw [Trunk.mismatch_of_not hfree]
            exact ⟨rfl, rfl⟩
          · obtain ⟨hcopper, hne⟩ := not_or.mp hfree
            have last : (s.circuit c').lastReported = some .mismatch := by
              rcases h with h | h | h | h
              · exact absurd hstage h
              · exact absurd h hcopper
              · exact absurd h hne
              · exact h
            rw [Trunk.mismatch_of_copper (not_not.mp hcopper) hne, Trunk.reportPlain, Trunk.report_of_last last]
            exact ⟨rfl, rfl⟩
      · rw [if_neg hstage] at next
        exact ⟨_, next, own, others, rfl, ⟨rfl, rfl, rfl⟩, fun _ => rfl, fun h => absurd h noWindow,
          fun _ _ _ _ _ _ => ⟨fun h => absurd h.1 hstage, fun _ => ⟨rfl, rfl⟩⟩⟩

end Sys2Proof.Machine
end

section
/-! The rules of the transitions: what each changes in the record of its circuit, in the lists and in the reports. -/

namespace Sys2Proof.Machine

variable {s : State} {t u v : Trunk} {x : Ctx} {c : Nat} {r r' : Circuit}

/-! ## Removals that serve no one -/

theorem Trunk.serve_of_paused (h : x.paused = true) (t : Trunk) : t.serve x = t := by
  unfold Trunk.serve
  cases t.waitQueue.length with
  | zero => rfl
  | succ n =>
    unfold Trunk.serveRoom
    split
    · rfl
    · exact if_neg (by rw [h, Bool.not_true, Bool.and_false]; decide)

theorem Trunk.serve_of_empty (h : t.waitQueue = []) (x : Ctx) : t.serve x = t := by
  unfold Trunk.serve
  rw [h]
  rfl

/-- The removal of circuit `c`'s record starts no serving (R98). -/
def Trunk.servesNone (x : Ctx) (c : Nat) (t : Trunk) : Prop := x.paused = true ∨ t.waitQueue = [] ∨ t.recordOf c = none

theorem Trunk.recordOf_eq_none : t.recordOf c = none ↔ ∀ f ∈ t.fallback, f.circuit ≠ c := by
  simp [Trunk.recordOf]

theorem State.servesNone.trunk (h : s.servesNone c) : s.trunk.servesNone s.ctx c :=
  h.imp_right (Or.imp_right Trunk.recordOf_eq_none.mpr)

theorem Trunk.servesNone.of_lists (h : t.servesNone x c) (g : t.sameLists u) : u.servesNone x c := by
  obtain ⟨hfallback, hqueue, -⟩ := g
  unfold Trunk.servesNone Trunk.recordOf
  rw [hfallback, hqueue]
  exact h

theorem Trunk.servesNone.ite (h : t.servesNone x c) (hq : t.waitQueue = [] → u.waitQueue = []) :
    (if (t.recordOf c).isSome then u.serve x else u) = u := by
  rcases h with h | h | h
  · rw [Trunk.serve_of_paused h, ite_self]
  · rw [Trunk.serve_of_empty (hq h), ite_self]
  · rw [h]
    rfl

/-! ## The lists without a circuit -/

theorem Trunk.removeRecord_fallback (c : Nat) (t : Trunk) : (t.removeRecord c).fallback = withoutRecord c t.fallback := by
  simp only [Trunk.removeRecord, withoutRecord, ne_eq, decide_not]

theorem Trunk.leaveQueue_waitQueue (c : Nat) (t : Trunk) :
    (t.leaveQueue c).waitQueue = t.waitQueue.filter (fun d => decide (d ≠ c)) := by
  simp only [Trunk.leaveQueue, ne_eq, decide_not]

/-! ## The return to COPPER -/

/-- What a return to COPPER leaves, with the last splice kind and the flags left to the caller (R16, R20). -/
theorem Circuit.backOnCopper_toCopper (r : Circuit) : r.backOnCopper r.toCopper :=
  ⟨rfl, rfl, rfl, rfl, rfl, rfl, rfl, rfl, rfl, Bool.and_false _, rfl, rfl, rfl, rfl, rfl, rfl, rfl, rfl, rfl, rfl, rfl, rfl,
    rfl, rfl⟩

/-- The last reported kind is no part of what `backOnCopper` says. -/
theorem Circuit.backOnCopper.reported (h : r.backOnCopper r') (l : Option ReportKind) :
    r.backOnCopper { r' with lastReported := l } := h

theorem Circuit.backOnCopper_reversed (k : ReverseKind) (fl : SpliceFlags) (r : Circuit) :
    r.backOnCopper (r.markReverse k fl).toCopper :=
  ⟨rfl, rfl, rfl, rfl, rfl, rfl, rfl, rfl, rfl, Bool.and_false _, rfl, rfl, rfl, rfl, rfl, rfl, rfl, rfl, rfl, rfl, rfl, rfl,
    rfl, rfl⟩

theorem Trunk.abandonCore_circuit (hc : c < 256) (t : Trunk) : (t.abandonCore c).circuit c = (t.circuit c).toCopper :=
  Trunk.circuit_modify_same _ _ hc

/-- An abandon of circuit `c`: the record of the circuit, its places and the reports. -/
structure Trunk.Abandoned (c : Nat) (t u : Trunk) : Prop where
  others : t.sameOthers c u
  fallback : u.fallback = withoutRecord c t.fallback
  waitQueue : u.waitQueue = t.waitQueue.filter (fun d => decide (d ≠ c))
  calendar : u.calendar = t.calendar

theorem Trunk.abandonCore_abandoned (c : Nat) (t : Trunk) : t.Abandoned c (t.abandonCore c) where
  others _ hd := Trunk.circuit_modify_ne _ _ hd
  fallback := t.removeRecord_fallback c
  waitQueue := (t.removeRecord c).leaveQueue_waitQueue c
  calendar := rfl

theorem Trunk.Abandoned.reported (h : t.Abandoned c u) (others : u.sameOthers c v) (lists : u.sameLists v) : t.Abandoned c v where
  others := h.others.trans others
  fallback := lists.1.trans h.fallback
  waitQueue := lists.2.1.trans h.waitQueue
  calendar := lists.2.2.trans h.calendar

theorem Trunk.abandonCore_waitQueue (h : t.waitQueue = []) : (t.abandonCore c).waitQueue = [] := by
  rw [(t.abandonCore_abandoned c).waitQueue, h]
  rfl

/-- An abandon without a report that serves no one. -/
theorem Trunk.abandonWith_none (h : t.servesNone x c) : t.abandonWith x c none = t.abandonCore c :=
  h.ite Trunk.abandonCore_waitQueue

/-- An abandon with a report that serves no one. -/
theorem Trunk.abandonWith_some (h : t.servesNone x c) (k : ReportKind) :
    t.abandonWith x c (some k) = (t.abandonCore c).reportPlain x c k :=
  h.ite fun hq => by
    rw [Trunk.reportPlain, (Trunk.report_frame x _ c k none none .clear).2.1.2.1]
    exact Trunk.abandonCore_waitQueue hq

/-- The report of a change of state, which has cleared the last reported kind (R6, R154). -/
theorem Trunk.report_of_entry (x : Ctx) (t : Trunk) {k : ReportKind} (v : Option ReportVariant) (d : Option Nat)
    (fl : SpliceFlags) {b : Binding} (hc : c < 256) (hb : (t.circuit c).binding = some b)
    (hk : (t.circuit c).lastReported = none) :
    t.entered (aboutCircuit x.cycles c b k v d fl) (t.report x c k v d fl) ∧ t.sameLists (t.report x c k v d fl) ∧
      t.sameOthers c (t.report x c k v d fl) ∧
      (t.report x c k v d fl).circuit c = { t.circuit c with lastReported := Trunk.kindAfter k t } := by
  obtain ⟨entered, lists, others, own⟩ := t.report_passes x v d fl hc hb (k := k) (by rw [hk]; nofun)
  refine ⟨entered, lists, others, own.trans ?_⟩
  rw [hk]
  rfl

/-- The rest of the trunk is the same for what a report says. -/
theorem Trunk.entered.of_reports {rep : Report} (h : u.entered rep v) (hr : u.reports = t.reports)
    (ho : u.reportOverflow = t.reportOverflow) : t.entered rep v := by
  unfold Trunk.entered at h ⊢
  rw [hr, ho] at h
  exact h

theorem Trunk.kindAfter_of_reports {k : ReportKind} (h : u.reports = t.reports) : Trunk.kindAfter k u = Trunk.kindAfter k t := by
  unfold Trunk.kindAfter
  rw [h]

/-- An abandon and its report, before what the removal of the record serves. -/
theorem Trunk.abandonCore_reported (x : Ctx) (k : ReportKind) {b : Binding} (hc : c < 256)
    (hb : (t.circuit c).binding = some b) :
    t.Abandoned c ((t.abandonCore c).reportPlain x c k) ∧
      ((t.abandonCore c).reportPlain x c k).circuit c =
        { (t.circuit c).toCopper with lastReported := Trunk.kindAfter k t } ∧
      t.entered (aboutCircuit x.cycles c b k none none ⟨false, false, false⟩) ((t.abandonCore c).reportPlain x c k) := by
  have core := t.abandonCore_abandoned c
  have own := Trunk.abandonCore_circuit hc t
  obtain ⟨entered, lists, others, said⟩ := (t.abandonCore c).report_of_entry x (k := k) none none .clear hc
    (by rw [own]; exact hb) (by rw [own]; rfl)
  refine ⟨core.reported others lists, said.trans ?_, entered⟩
  rw [own]
  rfl

/-- An abandon with its report. -/
theorem Trunk.abandonWith_reported (h : t.servesNone x c) (k : ReportKind) {b : Binding} (hc : c < 256)
    (hb : (t.circuit c).binding = some b) :
    t.Abandoned c (t.abandonWith x c (some k)) ∧
      (t.abandonWith x c (some k)).circuit c = { (t.circuit c).toCopper with lastReported := Trunk.kindAfter k t } ∧
      t.entered (aboutCircuit x.cycles c b k none none ⟨false, false, false⟩) (t.abandonWith x c (some k)) := by
  rw [Trunk.abandonWith_some h]
  exact Trunk.abandonCore_reported x k hc hb

/-! ## Reverse splices -/

/-- The judgement of a reverse splice decided in the frame of `x` (R86, R87). -/
def Trunk.verdict (x : Ctx) (c : Nat) (t : Trunk) : SpliceFlags × Option Nat :=
  (t.circuit c).judgeReverse x.settings (x.frame + 1)

/-- A reverse splice before its report. -/
def Trunk.reversed (x : Ctx) (c : Nat) (k : ReverseKind) (t : Trunk) : Trunk :=
  (t.removeRecord c).modify c fun r => (r.markReverse k (t.verdict x c).1).toCopper

/-- A reverse splice and its report, before what the removal of the record serves. -/
def Trunk.reversedReported (x : Ctx) (c : Nat) (k : ReverseKind) (t : Trunk) : Trunk :=
  (t.reversed x c k).report x c .reverted (some (.reverse k)) (t.verdict x c).2 (t.verdict x c).1

/-- A reverse splice that serves no one. -/
theorem Trunk.reverseSplice_eq (h : t.servesNone x c) (k : ReverseKind) : t.reverseSplice x c k = t.reversedReported x c k :=
  h.ite fun hq => (Trunk.report_frame x _ c _ _ _ _).2.1.2.1.trans hq

theorem Trunk.reversed_circuit (hc : c < 256) (k : ReverseKind) (t : Trunk) :
    (t.reversed x c k).circuit c = ((t.circuit c).markReverse k (t.verdict x c).1).toCopper := Trunk.circuit_modify_same _ _ hc

/-- What a reverse splice of circuit `c` leaves of the trunk. -/
structure Trunk.Reversed (c : Nat) (t u : Trunk) : Prop where
  others : t.sameOthers c u
  fallback : u.fallback = withoutRecord c t.fallback
  waitQueue : u.waitQueue = t.waitQueue
  calendar : u.calendar = t.calendar

theorem Trunk.reversedReported_reversed (x : Ctx) (c : Nat) (k : ReverseKind) (t : Trunk) :
    t.Reversed c (t.reversedReported x c k) := by
  obtain ⟨others, lists, -⟩ := Trunk.report_frame x (t.reversed x c k) c .reverted (some (.reverse k)) (t.verdict x c).2
    (t.verdict x c).1
  exact ⟨fun d hd => (others d hd).trans (Trunk.circuit_modify_ne _ _ hd), lists.1.trans (t.removeRecord_fallback c), lists.2.1,
    lists.2.2⟩

theorem Trunk.reversedReported_reported (x : Ctx) (k : ReverseKind) {b : Binding} (hc : c < 256)
    (hb : (t.circuit c).binding = some b) :
    (t.reversedReported x c k).circuit c =
        { ((t.circuit c).markReverse k (t.verdict x c).1).toCopper with lastReported := Trunk.kindAfter .reverted t } ∧
      t.entered (aboutCircuit x.cycles c b .reverted (some (.reverse k)) (t.verdict x c).2 (t.verdict x c).1)
        (t.reversedReported x c k) := by
  have own := Trunk.reversed_circuit (x := x) hc k t
  obtain ⟨entered, lists, others, said⟩ := (t.reversed x c k).report_of_entry x (k := .reverted) (some (.reverse k))
    (t.verdict x c).2 (t.verdict x c).1 hc (by rw [own]; exact hb) (by rw [own]; rfl)
  refine ⟨said.trans ?_, entered⟩
  rw [own]
  rfl

/-- A reverse splice with its report. -/
theorem Trunk.reverseSplice_reported (h : t.servesNone x c) (k : ReverseKind) {b : Binding} (hc : c < 256)
    (hb : (t.circuit c).binding = some b) :
    t.Reversed c (t.reverseSplice x c k) ∧
      (t.reverseSplice x c k).circuit c =
        { ((t.circuit c).markReverse k (t.verdict x c).1).toCopper with lastReported := Trunk.kindAfter .reverted t } ∧
      t.entered (aboutCircuit x.cycles c b .reverted (some (.reverse k)) (t.verdict x c).2 (t.verdict x c).1)
        (t.reverseSplice x c k) := by
  rw [Trunk.reverseSplice_eq h]
  exact ⟨t.reversedReported_reversed x c k, Trunk.reversedReported_reported x k hc hb⟩

/-! ## HELD and DOWN -/

/-- The circuit has left the calendar; the rows of the others are as they were (R109). -/
def Trunk.leftCalendar (c : Nat) (t u : Trunk) : Prop :=
  (∀ k, (t.circuit c).calendarRow = some k → u.row k = (t.row k).filter (fun d => decide (d ≠ c))) ∧
    ∀ k, (t.circuit c).calendarRow ≠ some k → u.row k = t.row k

theorem Trunk.leaveCalendar_rest (c : Nat) (t : Trunk) :
    t.sameOthers c (t.leaveCalendar c) ∧ (t.leaveCalendar c).fallback = t.fallback ∧
      (t.leaveCalendar c).waitQueue = t.waitQueue ∧ t.sameReports (t.leaveCalendar c) ∧ t.leftCalendar c (t.leaveCalendar c) := by
  unfold Trunk.leaveCalendar Trunk.leftCalendar
  cases hrow : (t.circuit c).calendarRow with
  | none => exact ⟨fun _ _ => rfl, rfl, rfl, ⟨rfl, rfl⟩, nofun, fun _ _ => rfl⟩
  | some k =>
    refine ⟨fun d hd => (Trunk.circuit_modify_ne _ _ hd).trans (Trunk.circuit_setRow _ _ _ _), rfl, rfl, ⟨rfl, rfl⟩, ?_, ?_⟩
    · rintro j ⟨⟩
      rw [Trunk.row_modify, Trunk.row_setRow_same]
      simp only [ne_eq, decide_not]
    · intro j hj
      rw [Trunk.row_modify, Trunk.row_setRow, if_neg]
      rintro rfl
      exact hj rfl

theorem Trunk.leaveCalendar_circuit (hc : c < 256) (t : Trunk) :
    (t.leaveCalendar c).circuit c = { t.circuit c with calendarRow := none } := by
  unfold Trunk.leaveCalendar
  split
  next hrow => rw [← hrow]
  next k _ => exact (Trunk.circuit_modify_same _ _ hc).trans (by rw [Trunk.circuit_setRow])

/-- An entry to DOWN, with its report (R26). -/
theorem Trunk.goDown_reported {b : Binding} (hc : c < 256) (hb : (t.circuit c).binding = some b) (x : Ctx) :
    t.sameOthers c (t.goDown x c) ∧ (t.goDown x c).fallback = t.fallback ∧ (t.goDown x c).waitQueue = t.waitQueue ∧
      t.leftCalendar c (t.goDown x c) ∧
      (t.goDown x c).circuit c =
        { ({ t.circuit c with calendarRow := none } : Circuit).toDown with lastReported := Trunk.kindAfter .down t } ∧
      t.entered (aboutCircuit x.cycles c b .down none none ⟨false, false, false⟩) (t.goDown x c) := by
  obtain ⟨others, fallback, queue, reports, left⟩ := t.leaveCalendar_rest c
  have own : ((t.leaveCalendar c).modify c Circuit.toDown).circuit c = ({ t.circuit c with calendarRow := none } : Circuit).toDown := by
    rw [Trunk.circuit_modify_same _ _ hc, Trunk.leaveCalendar_circuit hc]
  obtain ⟨entered, lists, others', said⟩ := ((t.leaveCalendar c).modify c Circuit.toDown).report_of_entry x (k := .down) none
    none .clear hc (by rw [own]; exact hb) (by rw [own]; rfl)
  have row (k : Nat) : (t.goDown x c).row k = (t.leaveCalendar c).row k := by
    unfold Trunk.row
    rw [show (t.goDown x c).calendar = _ from lists.2.2]
    rfl
  refine ⟨(others.trans (Trunk.modify_sameOthers c _ _)).trans others', lists.1.trans fallback, lists.2.1.trans queue,
    ⟨fun k hk => (row k).trans (left.1 k hk), fun k hk => (row k).trans (left.2 k hk)⟩, said.trans ?_,
    entered.of_reports reports.1 reports.2⟩
  rw [own]
  exact congrArg (fun l => { ({ t.circuit c with calendarRow := none } : Circuit).toDown with lastReported := l })
    (Trunk.kindAfter_of_reports reports.1)

/-- An entry to HELD, with its report (R23). -/
theorem Trunk.hold_reported {b : Binding} (hc : c < 256) (hb : (t.circuit c).binding = some b) (x : Ctx) :
    t.sameOthers c (t.hold x c) ∧ t.sameLists (t.hold x c) ∧
      (t.hold x c).circuit c =
        { (t.circuit c).toHeld x.settings.params with lastReported := Trunk.kindAfter .held t } ∧
      t.entered (aboutCircuit x.cycles c b .held none none ⟨false, false, false⟩) (t.hold x c) := by
  have own := Trunk.circuit_modify_same t (Circuit.toHeld x.settings.params) hc
  obtain ⟨entered, lists, others, said⟩ := (t.modify c (Circuit.toHeld x.settings.params)).report_of_entry x (k := .held) none
    none .clear hc (by rw [own]; exact hb) (by rw [own]; rfl)
  refine ⟨(Trunk.modify_sameOthers c _ t).trans others, lists, said.trans ?_, entered⟩
  rw [own]
  rfl

/-! ## The re-bridge -/

/-- A re-bridge from COMMITTED or HELD, with its report (R25). -/
theorem Trunk.reBridge_reported {b : Binding} (hc : c < 256) (hb : (t.circuit c).binding = some b) (x : Ctx) :
    t.sameOthers c (t.reBridge x c) ∧ t.sameLists (t.reBridge x c) ∧
      (t.reBridge x c).circuit c =
        { ((t.circuit c).markReverse .urgent (t.verdict x c).1).toBridging x.settings.params with
          lastReported := Trunk.kindAfter .reverted t } ∧
      t.entered (aboutCircuit x.cycles c b .reverted (some (.reverse .urgent)) (t.verdict x c).2 (t.verdict x c).1)
        (t.reBridge x c) := by
  have own := Trunk.circuit_modify_same t
    (fun r => (r.markReverse .urgent (t.verdict x c).1).toBridging x.settings.params) hc
  obtain ⟨entered, lists, others, said⟩ :=
    (t.modify c fun r => (r.markReverse .urgent (t.verdict x c).1).toBridging x.settings.params).report_of_entry x
      (k := .reverted) (some (.reverse .urgent)) (t.verdict x c).2 (t.verdict x c).1 hc (by rw [own]; exact hb) (by rw [own]; rfl)
  refine ⟨(Trunk.modify_sameOthers c _ t).trans others, lists, said.trans ?_, entered⟩
  rw [own]
  rfl

/-! ## The join -/

/-- The number up to `n` of the least value, the first of several. -/
def firstLeast (f : Nat → Nat) (n : Nat) : Nat :=
  (List.range (n + 1)).foldl (fun best k => if f k < f best then k else best) 0

theorem firstLeast_succ (f : Nat → Nat) (n : Nat) :
    firstLeast f (n + 1) = if f (n + 1) < f (firstLeast f n) then n + 1 else firstLeast f n := by
  unfold firstLeast
  rw [List.range_succ, List.foldl_append]
  rfl

theorem firstLeast_spec (f : Nat → Nat) (n : Nat) : firstLeast f n ≤ n ∧
    ∀ j, j ≤ n → f (firstLeast f n) < f j ∨ (f (firstLeast f n) = f j ∧ firstLeast f n ≤ j) := by
  induction n with
  | zero =>
    have first : firstLeast f 0 = 0 := by simp [firstLeast]
    rw [first]
    exact ⟨Nat.le_refl 0, fun j hj => .inr (by rw [Nat.le_zero.mp hj]; exact ⟨rfl, Nat.le_refl 0⟩)⟩
  | succ n ih =>
    obtain ⟨hm, hleast⟩ := ih
    rw [firstLeast_succ]
    split
    next hlt =>
      refine ⟨Nat.le_refl _, fun j hj => ?_⟩
      rcases Nat.lt_or_eq_of_le hj with hj | rfl
      · rcases hleast j (Nat.le_of_lt_succ hj) with h | h <;> exact .inl (by omega)
      · exact .inr ⟨rfl, Nat.le_refl _⟩
    next hge =>
      refine ⟨by omega, fun j hj => ?_⟩
      rcases Nat.lt_or_eq_of_le hj with hj | rfl
      · exact hleast j (Nat.le_of_lt_succ hj)
      · omega

theorem Trunk.emptiestRow_eq {k : Nat} (hk : k < 40) (h : ∀ j, j < 40 → (t.row k).length < (t.row j).length ∨
    ((t.row k).length = (t.row j).length ∧ k ≤ j)) : t.emptiestRow = k := by
  obtain ⟨hm, hleast⟩ := firstLeast_spec (fun j => (t.row j).length) 39
  have own : firstLeast (fun j => (t.row j).length) 39 = t.emptiestRow := rfl
  rw [own] at hm hleast
  have h1 := h t.emptiestRow (by omega)
  have h2 := hleast k (by omega)
  omega

theorem Trunk.join_of_room {k : Nat} (hrow : (t.circuit c).calendarRow = none) (hk : t.emptiestRow = k)
    (hroom : (t.row k).length < 6) :
    t.join c = some ((t.setRow k (t.row k ++ [c])).modify c (fun r => { r with calendarRow := some k })) := by
  unfold Trunk.join
  rw [hrow]
  dsimp only
  rw [hk]
  exact if_pos hroom

theorem Trunk.join_of_full (hrow : (t.circuit c).calendarRow = none) (h : ∀ k, k < 40 → 6 ≤ (t.row k).length) :
    t.join c = none := by
  unfold Trunk.join
  rw [hrow]
  exact if_neg (show ¬ (t.row t.emptiestRow).length < 6 from Nat.not_lt.mpr (h _ t.emptiestRow_lt))

end Sys2Proof.Machine
end

section
/-! The work on a delivered cell: the ring, the playout buffer, the judging list, and what the splice unit then decides. -/

namespace Sys2Proof.Machine

variable {s : State} {t u v : Trunk} {x : Ctx} {c : Nat} {r r' r'' : Circuit} {place : List Byte}

/-! ## The stores of a cell -/

theorem pushRing_of_room {ring : List Word} (h : ring.length < 16) (off : Word) : pushRing ring off = ring ++ [off] := if_pos h

theorem pushRing_of_full {ring : List Word} (h : 16 ≤ ring.length) (off : Word) : pushRing ring off = ring.drop 1 ++ [off] :=
  if_neg (show ¬ ring.length < 16 from Nat.not_lt.mpr h)

theorem pushRing_eq_drop {ring : List Word} (h : ring.length ≤ 16) (off : Word) :
    pushRing ring off = (ring ++ [off]).drop (ring.length - 15) := by
  rcases Nat.lt_or_eq_of_le h with h | h
  · rw [pushRing_of_room h, Nat.sub_eq_zero_of_le (Nat.le_of_lt_succ h), List.drop_zero]
  · rw [pushRing_of_full (Nat.le_of_eq h.symm), h, List.drop_append_of_le_length (by rw [h]; decide)]

/-- The buffer with the samples of the cell. -/
def Circuit.written (place : List Byte) (r : Circuit) : Table PlayoutEntry :=
  writeCell (codeOf place) r.playout (ssnOf place) (bytesFrom place 6 40)

theorem Circuit.write_bearerOf (place : List Byte) (ph : Phase) (c : Nat) (r : Circuit) :
    r.write (bearerOf place ph c) = { r with playout := r.written place } := by
  unfold Circuit.write Circuit.written
  rw [bearerOf_code, bearerOf_ssn]
  rfl

/-- A buffer with the forty samples of the cell written has them (R47). -/
theorem Circuit.wroteCell_of_playout (h : r'.playout = r.written place) :
    r.wroteCell place r' := by
  have length : (bytesFrom place 6 40).length = 40 := by simp [bytesFrom]
  refine ⟨fun i hi => ?_, fun u hu => ?_⟩
  · unfold Circuit.positionOf
    rw [h, Circuit.written]
    refine read_writeCell _ _ _ _ i _ (by rw [length]; decide) ?_
    simp [bytesFrom, hi, sampleOf]
  · unfold Circuit.positionOf
    rw [h, Circuit.written]
    exact read_writeCell_other _ _ _ _ _ fun i hi => hu i (by rwa [length] at hi)

/-- Nothing else can be read of a buffer whose tags were all absent. -/
theorem Circuit.wroteCell.playoutAt (h : r.wroteCell place r') (hr : ∀ w, (r.positionOf w).tag = none) (w : Word)
    (hw : ∀ i, i < 40 → w ≠ ssnOf place + BitVec.ofNat 16 i) : r'.playoutAt w = none := by
  unfold Circuit.playoutAt
  by_cases hit : ∃ i, i < 40 ∧ w.toNat % 512 = (ssnOf place + BitVec.ofNat 16 i).toNat % 512
  · obtain ⟨i, hi, hp⟩ := hit
    have same : r'.positionOf w = r'.positionOf (ssnOf place + BitVec.ofNat 16 i) := by
      unfold Circuit.positionOf
      rw [show place512 w = place512 (ssnOf place + BitVec.ofNat 16 i) from hp]
    dsimp only
    rw [same, h.1 i hi]
    exact if_neg fun hn => hw i hi (Option.some.inj hn).symm
  · have same := h.2 w fun i hi hp => hit ⟨i, hi, hp⟩
    dsimp only
    rw [same, hr w]
    exact if_neg nofun

theorem Table.read_mem_or {α : Type} (d : α) (tb : Table α) (k : Nat) :
    Table.read d tb k = d ∨ ∃ e ∈ tb, Table.read d tb k = e.2 := by
  induction tb with
  | nil => exact .inl rfl
  | cons e tb ih =>
    unfold Table.read
    split
    · exact .inr ⟨e, List.mem_cons_self, rfl⟩
    · exact ih.imp_right fun ⟨e', he', h⟩ => ⟨e', List.mem_cons_of_mem _ he', h⟩

/-- R46: after the tags are cleared no position has one. -/
theorem Circuit.clearTags_tag (r : Circuit) (w : Word) : (r.clearTags.positionOf w).tag = none := by
  unfold Circuit.positionOf
  rcases Table.read_mem_or PlayoutEntry.start r.clearTags.playout (place512 w) with h | ⟨e, he, h⟩
  · rw [h]
    rfl
  · rw [h]
    simp only [Circuit.clearTags, Table.mapEntries, List.mem_filterMap] at he
    obtain ⟨e', -, h⟩ := he
    split at h
    · cases h
    · obtain rfl := Option.some.inj h
      rfl

/-! ## The judging list -/

/-- The judging list after the window of SSN `ssn` is offered to it in frame `f` at an Obase that may be absent. -/
def judgingAfter (f ssn : Word) (obase : Option Word) (js : List JudgeEntry) : List JudgeEntry :=
  match obase with
  | some ob => windowEntered f ssn ob js
  | none => js

theorem Circuit.takeWindow_of_judges (h : r.judges = true) (f ssn : Word) :
    r.takeWindow f ssn = { r with align := { r.align with judging := judgingAfter f ssn r.align.obase r.align.judging } } := by
  rw [Circuit.takeWindow_eq]
  cases r.align.obase with
  | none => rfl
  | some ob => exact if_pos h

theorem Circuit.takeWindow_of_not_judges (h : r.judges = false) (f ssn : Word) : r.takeWindow f ssn = r := by
  rw [Circuit.takeWindow_eq]
  cases r.align.obase with
  | none => rfl
  | some ob => exact if_neg (by rw [h]; decide)

/-! ## The work before the splice -/

/-- Obase after a cell of arrival offset `off` (R58). -/
def Circuit.obaseAfter (off : Word) (r : Circuit) : Option Word :=
  match r.align.obase with
  | some ob => some ob
  | none => if r.state = .bridging then some off else none

/-- The work on a cell before the splice (Table 3.1). -/
def Circuit.bridgeWork (f : Word) (place : List Byte) (r : Circuit) : Circuit :=
  { r with
    ring := pushRing r.ring (f - ssnOf place)
    playout := r.written place
    align := { r.align with
      obase := r.obaseAfter (f - ssnOf place)
      judging := judgingAfter f (ssnOf place) (r.obaseAfter (f - ssnOf place)) r.align.judging } }

theorem Circuit.takeObase_eq (off : Word) (r : Circuit) :
    r.takeObase off = { r with align := { r.align with obase := r.obaseAfter off } } := by
  have same (v : Option Word) (hv : r.align.obase = v) : r = { r with align := { r.align with obase := v } } := by rw [← hv]
  unfold Circuit.takeObase Circuit.obaseAfter
  cases hob : r.align.obase with
  | some ob => exact same _ hob
  | none =>
    by_cases hs : r.state = .bridging
    · simp only [hs, if_true]
    · simp only [hs, if_false]
      exact same _ hob

theorem Circuit.judges_of_beforeSplice (h : r.state.beforeSplice = true) : r.judges = true := by
  unfold Circuit.judges
  rw [h]
  rfl

theorem Circuit.bridgeWork_eq (f : Word) (ph : Phase) (c : Nat) (h : r.state.beforeSplice = true) :
    ((((r.push (f - ssnOf place)).write (bearerOf place ph c)).takeObase (f - ssnOf place)).takeWindow f (ssnOf place)) =
      r.bridgeWork f place := by
  rw [Circuit.write_bearerOf, Circuit.takeObase_eq]
  exact Circuit.takeWindow_of_judges (Circuit.judges_of_beforeSplice (by exact h)) f _

theorem Trunk.workCell_beforeSplice (h : (t.circuit c).state.beforeSplice = true) (x : Ctx) (was : CircuitState) (ph : Phase) :
    t.workCell x c was (bearerOf place ph c) = (t.modify c (Circuit.bridgeWork x.frame place)).arrive x c := by
  have modified : t.modify c (fun r => (((r.push (x.frame - ssnOf place)).write (bearerOf place ph c)).takeObase
      (x.frame - ssnOf place)).takeWindow x.frame (ssnOf place)) = t.modify c (Circuit.bridgeWork x.frame place) :=
    congrArg (t.setCircuit c) (Circuit.bridgeWork_eq x.frame ph c h)
  unfold Trunk.workCell
  dsimp only
  rw [if_pos h, bearerOf_ssn, modified]

/-- A cell brings nothing to a circuit that holds no bridge and plays no fibre. -/
theorem Trunk.workCell_idle (hb : (t.circuit c).state.beforeSplice = false) (hf : (t.circuit c).state.onFibre = false)
    (hh : (t.circuit c).state ≠ .held) (x : Ctx) (was : CircuitState) (cell : BearerCell) : t.workCell x c was cell = t := by
  unfold Trunk.workCell
  dsimp only
  rw [if_neg (by rw [hb]; decide), if_neg]
  rw [hf, Bool.false_or, beq_iff_eq]
  exact hh

/-! ## The work on fibre and in HELD -/

/-- The playout buffer and the judging list after a cell that is not early. -/
theorem Trunk.workCell_stream (hon : (t.circuit c).state.onFibre = true ∨ (t.circuit c).state = .held) (cell : BearerCell)
    (hl : isEarly ((t.circuit c).lead (x.frame - cell.ssn)) = false) (was : CircuitState) :
    t.workCell x c was cell = t.modify c fun r =>
      ((r.push (x.frame - cell.ssn)).writeJudged (x.frame - cell.ssn) cell).takeWindowFrom was x.frame cell.ssn := by
  unfold Trunk.workCell
  dsimp only
  rw [if_neg (by rw [CircuitState.beforeSplice_of_stream hon]; decide), if_pos]
  · exact if_neg (by rw [hl]; decide)
  · rw [Bool.or_eq_true, beq_iff_eq]
    exact hon

theorem Circuit.isEarly_lead_eq_false {o off : Word} (ho : r.splice.playOffset = some o) (h : (o - off).toInt ≤ 472) :
    isEarly (r.lead off) = false := by
  unfold Circuit.lead
  rw [ho]
  show decide (473 ≤ (o - off).toInt) = false
  exact decide_eq_false (by omega)

/-- A cell that is late, or in time, is written, and a late one is counted (R47, R50). -/
theorem Circuit.writeJudged_of_inTime {o off : Word} (ho : r.splice.playOffset = some o) (h : (o - off).toInt ≤ 472)
    (cell : BearerCell) :
    r.writeJudged off cell = { r with
      playout := (r.write cell).playout
      counters := if (o - off).toInt ≤ -1 then { r.counters with late := min (r.counters.late + 1) 65535 } else r.counters } := by
  unfold Circuit.writeJudged
  rw [if_neg (by rw [Circuit.isEarly_lead_eq_false ho h]; decide)]
  have late : isLate (r.lead off) = decide ((o - off).toInt ≤ -1) := by
    unfold Circuit.lead
    rw [ho]
    rfl
  rw [late]
  by_cases hl : (o - off).toInt ≤ -1
  · rw [if_pos hl, decide_eq_true hl]
    rfl
  · rw [if_neg hl, decide_eq_false hl]
    rfl

theorem Circuit.writeJudged_of_early {o off : Word} (ho : r.splice.playOffset = some o) (h : 473 ≤ (o - off).toInt)
    (cell : BearerCell) :
    r.writeJudged off cell = { r with counters := { r.counters with early := min (r.counters.early + 1) 65535 } } :=
  if_pos (Circuit.isEarly_lead ho h)

/-- From `r` to `r'` a cell of arrival offset `off` has been worked on at O′ = `o`, in frame `f` (R45, R47 to R50). -/
structure Circuit.Worked (o f : Word) (place : List Byte) (r r' : Circuit) : Prop where
  rest : r' = { r with
    ring := pushRing r.ring (f - ssnOf place)
    counters := r'.counters
    playout := r'.playout
    align := { r.align with judging := r'.align.judging } }
  early : 473 ≤ (o - (f - ssnOf place)).toInt → r'.playout = r.playout ∧ r'.align.judging = r.align.judging ∧
    r'.counters = { r.counters with early := min (r.counters.early + 1) 65535 }
  written : (o - (f - ssnOf place)).toInt ≤ 472 → r.wroteCell place r' ∧
    r'.counters = (if (o - (f - ssnOf place)).toInt ≤ -1 then { r.counters with late := min (r.counters.late + 1) 65535 }
      else r.counters)
  unjudged : r.judges = false ∨ r.align.obase = none → r'.align.judging = r.align.judging
  judged : ∀ ob, r.align.obase = some ob → r'.align.judging = r.align.judging ∨
    r'.align.judging = windowEntered f (ssnOf place) ob r.align.judging

theorem Circuit.worked_of_early {o f : Word} (ho : r.splice.playOffset = some o) (h : 473 ≤ (o - (f - ssnOf place)).toInt)
    (ph : Phase) (c : Nat) : r.Worked o f place ((r.push (f - ssnOf place)).writeJudged (f - ssnOf place) (bearerOf place ph c)) := by
  rw [Circuit.writeJudged_of_early (r := r.push (f - ssnOf place)) ho h]
  exact ⟨rfl, fun _ => ⟨rfl, rfl, rfl⟩, fun hn => absurd h (by omega), fun _ => rfl, fun _ _ => .inl rfl⟩

/-- The judging list after a cell that is in time: the window of a circuit that was not in HELD is offered. -/
def Circuit.judgingFrom (was : CircuitState) (f : Word) (place : List Byte) (r : Circuit) : List JudgeEntry :=
  if (was = .held ∧ Config.returningCellIsWindow = false) ∨ r.judges = false then r.align.judging
  else judgingAfter f (ssnOf place) r.align.obase r.align.judging

theorem Circuit.takeWindowFrom_eq (was : CircuitState) (f : Word) (place : List Byte) (r : Circuit) :
    r.takeWindowFrom was f (ssnOf place) = { r with align := { r.align with judging := r.judgingFrom was f place } } := by
  unfold Circuit.takeWindowFrom Circuit.judgingFrom
  by_cases hw : was = .held ∧ Config.returningCellIsWindow = false
  · rw [if_pos hw, if_pos (.inl hw)]
  · rw [if_neg hw]
    cases hj : r.judges with
    | false => rw [if_pos (.inr rfl), Circuit.takeWindow_of_not_judges hj]
    | true => rw [if_neg (not_or.mpr ⟨hw, nofun⟩), Circuit.takeWindow_of_judges hj]

theorem Circuit.worked_of_inTime {o f : Word} (ho : r.splice.playOffset = some o) (h : (o - (f - ssnOf place)).toInt ≤ 472)
    (was : CircuitState) (ph : Phase) (c : Nat) :
    r.Worked o f place (((r.push (f - ssnOf place)).writeJudged (f - ssnOf place) (bearerOf place ph c)).takeWindowFrom was f
      (ssnOf place)) := by
  rw [Circuit.writeJudged_of_inTime (r := r.push (f - ssnOf place)) ho h, Circuit.write_bearerOf, Circuit.takeWindowFrom_eq]
  refine ⟨rfl, fun hn => absurd hn (by omega), fun _ => ⟨Circuit.wroteCell_of_playout rfl, rfl⟩, fun hj => ?_, fun ob hob => ?_⟩
  · show (if (was = .held ∧ Config.returningCellIsWindow = false) ∨ r.judges = false then r.align.judging
      else judgingAfter f (ssnOf place) r.align.obase r.align.judging) = _
    rcases hj with hj | hj
    · exact if_pos (.inr hj)
    · rw [hj]
      split <;> rfl
  · show (if (was = .held ∧ Config.returningCellIsWindow = false) ∨ r.judges = false then r.align.judging
      else judgingAfter f (ssnOf place) r.align.obase r.align.judging) = _ ∨ (if
        (was = .held ∧ Config.returningCellIsWindow = false) ∨ r.judges = false then r.align.judging
      else judgingAfter f (ssnOf place) r.align.obase r.align.judging) = _
    rw [hob]
    split
    · exact .inl rfl
    · exact .inr rfl

/-- The work on a cell on fibre or in HELD is within the record of its circuit. -/
theorem Trunk.workCell_worked {o : Word} (hc : c < 256) (hon : (t.circuit c).state.onFibre = true ∨ (t.circuit c).state = .held)
    (ho : (t.circuit c).splice.playOffset = some o) (x : Ctx) (was : CircuitState) (ph : Phase) :
    t.onlyRecord c (t.workCell x c was (bearerOf place ph c)) ∧
      (t.circuit c).Worked o x.frame place ((t.workCell x c was (bearerOf place ph c)).circuit c) ∧
      (was ≠ .held → (t.circuit c).judges = true → (o - (x.frame - ssnOf place)).toInt ≤ 472 →
        ∀ ob, (t.circuit c).align.obase = some ob →
          ((t.workCell x c was (bearerOf place ph c)).circuit c).align.judging =
            windowEntered x.frame (ssnOf place) ob (t.circuit c).align.judging) := by
  have within (f : Circuit → Circuit) : t.onlyRecord c (t.modify c f) :=
    ⟨Trunk.modify_sameOthers c f t, ⟨rfl, rfl, rfl⟩, rfl, rfl⟩
  by_cases h : 473 ≤ (o - (x.frame - ssnOf place)).toInt
  · have early := Trunk.workCell_early x was (bearerOf place ph c) t hon (by
      rw [bearerOf_ssn]
      exact Circuit.isEarly_lead ho h)
    rw [bearerOf_ssn] at early
    rw [early, Trunk.circuit_modify_same _ _ hc]
    exact ⟨within _, Circuit.worked_of_early ho h ph c, fun _ _ hn => absurd h (by omega)⟩
  · have inTime : (o - (x.frame - ssnOf place)).toInt ≤ 472 := by omega
    have stream := Trunk.workCell_stream hon (bearerOf place ph c) (x := x) (by
      rw [bearerOf_ssn]
      exact Circuit.isEarly_lead_eq_false ho inTime) was
    rw [bearerOf_ssn] at stream
    rw [stream, Trunk.circuit_modify_same _ _ hc]
    refine ⟨within _, Circuit.worked_of_inTime ho inTime was ph c, fun hw hj _ ob hob => ?_⟩
    rw [Circuit.writeJudged_of_inTime (r := (t.circuit c).push (x.frame - ssnOf place)) ho inTime, Circuit.write_bearerOf,
      Circuit.takeWindowFrom_eq]
    show (if (was = .held ∧ Config.returningCellIsWindow = false) ∨ (t.circuit c).judges = false then _
      else judgingAfter x.frame (ssnOf place) (t.circuit c).align.obase (t.circuit c).align.judging) = _
    rw [if_neg, hob]
    · rfl
    · rintro (hh | hh)
      · exact hw hh.1
      · rw [hj] at hh
        cases hh

end Sys2Proof.Machine
end

section
/-! Cells delivered to a circuit on copper, and in DOWN (Table 1.3, R10, R25). -/

namespace Sys2Proof.Machine

variable {s : State} {t u : Trunk} {x : Ctx} {c : Nat} {r r' : Circuit} {place : List Byte} {ph : Phase}

/-! ## The cell handed to its circuit -/

/-- The record with the cell heard (R42). -/
def Circuit.heard (place : List Byte) (r : Circuit) : Circuit :=
  { r with
    counters := { r.counters with received := min (r.counters.received + 1) 65535 }
    silence := 0
    fibreCode := codeOf place }

/-- The record with the phase stored (R43). -/
def Circuit.storePhase (ph : Phase) (r : Circuit) : Circuit := { r with peerPhase := some ph }

theorem Circuit.receive_bearerOf (place : List Byte) (ph : Phase) (c : Nat) (r : Circuit) :
    r.receive (bearerOf place ph c) = r.heard place := by
  unfold Circuit.receive Circuit.heard
  rw [bearerOf_code]
  rfl

/-- The trunk with the cell heard by circuit `c`. -/
def Trunk.hear (c : Nat) (place : List Byte) (t : Trunk) : Trunk := t.modify c (Circuit.heard place)

theorem Trunk.hear_circuit (hc : c < 256) (t : Trunk) : (t.hear c place).circuit c = (t.circuit c).heard place :=
  Trunk.circuit_modify_same _ _ hc

theorem Trunk.hear_sameOthers (c : Nat) (t : Trunk) : t.sameOthers c (t.hear c place) := Trunk.modify_sameOthers c _ t

/-- The phase stored after its reaction (R7). -/
def Trunk.phased (x : Ctx) (c : Nat) (ph : Phase) (t : Trunk) : Trunk := (t.react x c ph).modify c (Circuit.storePhase ph)

theorem Trunk.phased_circuit (hc : c < 256) (x : Ctx) (ph : Phase) (t : Trunk) :
    (t.phased x c ph).circuit c = ((t.react x c ph).circuit c).storePhase ph := Trunk.circuit_modify_same _ _ hc

theorem Trunk.phased_sameOthers (h : t.sameOthers c (t.react x c ph)) : t.sameOthers c (t.phased x c ph) :=
  h.trans (Trunk.modify_sameOthers c _ _)

/-- The trunk after the cell is delivered to circuit `c` (R42 to R51). -/
def Trunk.afterCell (x : Ctx) (c : Nat) (place : List Byte) (ph : Phase) (t : Trunk) : Trunk :=
  ((t.hear c place).phased x c ph).workCell x c (t.circuit c).state (bearerOf place ph c)

theorem exec_bearerCell_afterCell {p : Nat} (h : s.delivers p place ph c) :
    exec (.bearerCell p place) s = .next { s with trunk := s.trunk.afterCell s.ctx c place ph } := by
  have ⟨_, hc, hquiet, _⟩ := h
  have heard : s.trunk.modify c (Circuit.receive (bearerOf place ph c)) = s.trunk.hear c place :=
    congrArg (s.trunk.setCircuit c) (Circuit.receive_bearerOf place ph c _)
  rw [exec_bearerCell_of_delivers h]
  unfold State.onTrunk
  dsimp only
  rw [Trunk.deliver_of_notSilent hquiet hc, heard, bearerOf_phase]
  rfl

/-! ## Phases that bring nothing -/

/-- A phase to which a circuit in COPPER or DOWN does not react (R10, R26). -/
def Circuit.ignores (x : Ctx) (ph : Phase) (r : Circuit) : Prop :=
  (r.state = .copper ∧ (ph = .release ∨ r.releaseCells ≠ 0 ∨ x.station ≠ .operating ∨
      ∃ b, r.binding = some b ∧ x.present b.peer = false)) ∨
    (r.state = .down ∧ ph ≠ .bridging ∧ ph ≠ .aligned)

theorem Trunk.follow_of_not {b : Binding} (hb : (t.circuit c).binding = some b)
    (h : ¬(x.station = .operating ∧ (t.circuit c).releaseCells = 0 ∧ x.present b.peer = true)) : t.follow x c = t := by
  unfold Trunk.follow
  simp only [hb, if_neg h]

theorem Trunk.follow_of_unbound (hb : (t.circuit c).binding = none) : t.follow x c = t := by
  unfold Trunk.follow
  simp only [hb]

theorem Trunk.react_copper (h : (t.circuit c).state = .copper) (hph : ph ≠ .release) : t.react x c ph = t.follow x c := by
  unfold Trunk.react
  rw [h]
  exact if_pos (ph.startsFollow_iff.mpr hph)

theorem Trunk.react_ignores (h : (t.circuit c).ignores x ph) : t.react x c ph = t := by
  rcases h with ⟨hs, h⟩ | ⟨hs, hb, ha⟩
  · by_cases hph : ph = .release
    · unfold Trunk.react
      rw [hs, hph]
      rfl
    · rw [Trunk.react_copper hs hph]
      cases hbind : (t.circuit c).binding with
      | none => exact Trunk.follow_of_unbound hbind
      | some b =>
        refine Trunk.follow_of_not hbind fun ⟨hstage, hcells, hpresent⟩ => ?_
        rcases h with h | h | h | ⟨b', hb', h⟩
        · exact hph h
        · exact h hcells
        · exact h hstage
        · rw [hbind] at hb'
          cases hb'
          rw [hpresent] at h
          cases h
  · unfold Trunk.react
    rw [hs]
    exact if_neg (by rw [Phase.startsBridge_of_ne hb ha]; decide)

theorem State.ctx_present_iff (s : State) (p : Nat) : s.ctx.present p = true ↔ (s.peer p).state = .present := by
  unfold Ctx.present State.peer
  exact beq_iff_eq

theorem State.ctx_present_eq_false (s : State) (p : Nat) : s.ctx.present p = false ↔ (s.peer p).state ≠ .present := by
  rw [← Bool.not_eq_true, State.ctx_present_iff]

/-- In COPPER and DOWN the phase ends the delivery (Table 3.1). -/
theorem Trunk.afterCell_unworked (hc : c < 256)
    (hs : (((t.hear c place).react x c ph).circuit c).state = .copper ∨
      (((t.hear c place).react x c ph).circuit c).state = .down) :
    t.afterCell x c place ph = (t.hear c place).phased x c ph := by
  have state : (((t.hear c place).phased x c ph).circuit c).state = (((t.hear c place).react x c ph).circuit c).state := by
    rw [Trunk.phased_circuit hc]
    rfl
  unfold Trunk.afterCell
  apply Trunk.workCell_idle <;> rw [state] <;> rcases hs with h | h <;> rw [h] <;> decide

/-- A cell that is not worked on is heard, and its phase is stored. -/
theorem Trunk.afterCell_idle (hc : c < 256) (hreact : (t.hear c place).react x c ph = t.hear c place)
    (hs : (t.circuit c).state = .copper ∨ (t.circuit c).state = .down) :
    t.onlyRecord c (t.afterCell x c place ph) ∧ (t.afterCell x c place ph).circuit c = ((t.circuit c).heard place).storePhase ph := by
  have own : ((t.hear c place).phased x c ph).circuit c = ((t.circuit c).heard place).storePhase ph := by
    rw [Trunk.phased_circuit hc, hreact, Trunk.hear_circuit hc]
  rw [Trunk.afterCell_unworked hc (by rw [hreact, Trunk.hear_circuit hc]; exact hs)]
  refine ⟨?_, own⟩
  unfold Trunk.phased
  rw [hreact]
  exact ⟨(t.hear_sameOthers c).trans (Trunk.modify_sameOthers c _ _), ⟨rfl, rfl, rfl⟩, rfl, rfl⟩

/-- Settles O20: the phase brings nothing in these states, and neither does the work on the cell. -/
theorem cellIgnoredOnCopper : Obligations.CellIgnoredOnCopper := by
  intro s p c place ph hd h
  have hc : c < 256 := hd.2.1
  have ignored : ((s.trunk.hear c place).circuit c).ignores s.ctx ph := by
    rw [Trunk.hear_circuit hc]
    refine h.imp_left fun ⟨hs, h⟩ => ⟨hs, ?_⟩
    refine h.imp_right (Or.imp_right (Or.imp_right ?_))
    rintro ⟨b, hb, hp⟩
    exact ⟨b, hb, (s.ctx_present_eq_false b.peer).mpr hp⟩
  obtain ⟨only, own⟩ := Trunk.afterCell_idle (t := s.trunk) hc (Trunk.react_ignores ignored) (h.imp And.left And.left)
  exact ⟨_, exec_bearerCell_afterCell hd, rfl, only, own⟩

/-! ## The follow, and the re-bridge from DOWN -/

/-- A phase that asks for a calendar place (R10, R25). -/
def Circuit.asksRow (x : Ctx) (b : Binding) (ph : Phase) (r : Circuit) : Prop :=
  (r.state = .copper ∧ r.releaseCells = 0 ∧ ph ≠ .release ∧ x.station = .operating ∧ x.present b.peer = true) ∨
    (r.state = .down ∧ (ph = .bridging ∨ ph = .aligned))

theorem Trunk.react_asksRow {b : Binding} (hb : (t.circuit c).binding = some b) (h : (t.circuit c).asksRow x b ph) :
    t.react x c ph = t.joinOrReport x c := by
  rcases h with ⟨hs, hcells, hph, hstage, hpresent⟩ | ⟨hs, h⟩
  · rw [Trunk.react_copper hs hph]
    unfold Trunk.follow
    simp only [hb]
    exact if_pos ⟨hstage, hcells, hpresent⟩
  · unfold Trunk.react
    rw [hs]
    exact if_pos (by rcases h with rfl | rfl <;> rfl)

/-- The join and the entry to BRIDGING in row `k`. -/
def Trunk.bridged (p : Params) (c k : Nat) (t : Trunk) : Trunk :=
  ((t.setRow k (t.row k ++ [c])).modify c (fun r => { r with calendarRow := some k })).modify c (Circuit.toBridging p)

theorem Trunk.bridged_circuit (hc : c < 256) (p : Params) (k : Nat) (t : Trunk) :
    (t.bridged p c k).circuit c = ({ t.circuit c with calendarRow := some k } : Circuit).toBridging p := by
  unfold Trunk.bridged
  rw [Trunk.circuit_modify_same _ _ hc, Trunk.circuit_modify_same _ _ hc, Trunk.circuit_setRow]

theorem Trunk.bridged_sameOthers (p : Params) (c k : Nat) (t : Trunk) : t.sameOthers c (t.bridged p c k) := by
  intro d hd
  unfold Trunk.bridged
  rw [Trunk.circuit_modify_ne _ _ hd, Trunk.circuit_modify_ne _ _ hd, Trunk.circuit_setRow]

theorem Trunk.bridged_row (p : Params) (c k : Nat) (t : Trunk) (j : Nat) :
    (t.bridged p c k).row j = if j = k then t.row k ++ [c] else t.row j := by
  unfold Trunk.bridged
  rw [Trunk.row_modify, Trunk.row_modify, Trunk.row_setRow]

theorem Trunk.joinOrReport_of_room {k : Nat} (hrow : (t.circuit c).calendarRow = none) (hk : t.emptiestRow = k)
    (hroom : (t.row k).length < 6) : t.joinOrReport x c = t.bridged x.settings.params c k := by
  unfold Trunk.joinOrReport
  rw [Trunk.join_of_room hrow hk hroom]
  rfl

theorem Trunk.joinOrReport_of_full (hrow : (t.circuit c).calendarRow = none) (h : ∀ k, k < 40 → 6 ≤ (t.row k).length) :
    t.joinOrReport x c = t.reportPlain x c .laneFull := by
  unfold Trunk.joinOrReport
  rw [Trunk.join_of_full hrow h]

/-- R12, R51: the first cell of a new BRIDGING fills no ring, so the idle test fails. -/
theorem Trunk.arrive_of_newRing (hs : (t.circuit c).state = .bridging) (hr : (t.circuit c).ring.length ≠ 16) :
    t.arrive x c = t := by
  unfold Trunk.arrive
  rw [hs]
  refine if_neg ?_
  unfold Circuit.idleTest
  rw [decide_eq_false (p := (t.circuit c).ring.length = Config.ringEntries) hr, Bool.and_false, Bool.false_and]
  decide

/-- The window of the first cell of a bridging waits for frame J, 263 frames on (R58, R60). -/
theorem windowEntered_first (f a : Word) : windowEntered f a (f - a) [] = [⟨a, f + 263⟩] := by
  have frame : a + (f - a) + 263 = f + 263 := by ring
  have ahead : f + 263 - f = (263 : Word) := by ring
  unfold windowEntered
  rw [frame, ahead, if_pos]
  · rfl
  · exact ⟨by decide, by decide, nofun, by decide⟩

/-- A circuit newly in BRIDGING takes its first cell. -/
theorem Trunk.workCell_first (hc : c < 256) (hs : (t.circuit c).state = .bridging) (hr : (t.circuit c).ring = []) (x : Ctx)
    (was : CircuitState) (ph : Phase) :
    t.workCell x c was (bearerOf place ph c) = t.modify c (Circuit.bridgeWork x.frame place) ∧
      (t.modify c (Circuit.bridgeWork x.frame place)).circuit c = (t.circuit c).bridgeWork x.frame place := by
  have own := Trunk.circuit_modify_same t (Circuit.bridgeWork x.frame place) hc
  refine ⟨?_, own⟩
  rw [Trunk.workCell_beforeSplice (by rw [hs]; rfl)]
  refine Trunk.arrive_of_newRing (by rw [own]; exact hs) ?_
  rw [own, Circuit.bridgeWork, hr]
  exact Nat.ne_of_beq_eq_false rfl

/-- What the first cell of a new BRIDGING leaves of the record (R8, R45, R47, R58, R60). -/
theorem Circuit.toBridging_bridgeWork (p : Params) (f : Word) (r : Circuit) :
    (((r.toBridging p).storePhase ph).bridgeWork f place).align =
      ⟨some (f - ssnOf place), .whole, 0, none, 0, 0, [⟨ssnOf place, f + 263⟩]⟩ := by
  rw [← windowEntered_first]
  rfl

theorem Circuit.toBridging_wroteCell (p : Params) (f : Word) (r : Circuit) :
    r.clearTags.wroteCell place (((r.toBridging p).storePhase ph).bridgeWork f place) := Circuit.wroteCell_of_playout rfl

/-- Settles O21: the calendar grants the place in its emptiest row, where the cell is the first of the bridging, or refuses
it when every row is full. -/
theorem followBridgesOrIsRefused : Obligations.FollowBridgesOrIsRefused := by
  refine ⟨fun s p c k place ph b hd hb h hrow hk hroom hleast => ?_, fun s p c place ph b hd hb hrow hfull h => ?_⟩
  · have hc : c < 256 := hd.2.1
    have heard := Trunk.hear_circuit (place := place) hc s.trunk
    have asks : ((s.trunk.hear c place).circuit c).asksRow s.ctx b ph := by
      rw [heard]
      exact h.imp_left fun ⟨hs, hcells, hph, hstage, hp⟩ => ⟨hs, hcells, hph, hstage, (s.ctx_present_iff b.peer).mpr hp⟩
    have react : (s.trunk.hear c place).react s.ctx c ph = (s.trunk.hear c place).bridged s.settings.params c k := by
      rw [Trunk.react_asksRow (by rw [heard]; exact hb) asks]
      exact Trunk.joinOrReport_of_room (by rw [heard]; exact hrow) (Trunk.emptiestRow_eq hk hleast) hroom
    have own : ((s.trunk.hear c place).phased s.ctx c ph).circuit c =
        (({ (s.circuit c).heard place with calendarRow := some k } : Circuit).toBridging s.settings.params).storePhase ph := by
      rw [Trunk.phased_circuit hc, react, Trunk.bridged_circuit hc, heard]
      rfl
    obtain ⟨work, final⟩ := Trunk.workCell_first (place := place) hc (by rw [own]; rfl) (by rw [own]; rfl) s.ctx
      (s.circuit c).state ph
    rw [own] at final
    have after : s.trunk.afterCell s.ctx c place ph =
        ((s.trunk.hear c place).phased s.ctx c ph).modify c (Circuit.bridgeWork s.frame place) := work
    have phased : (s.trunk.hear c place).phased s.ctx c ph =
        ((s.trunk.hear c place).bridged s.settings.params c k).modify c (Circuit.storePhase ph) := by
      unfold Trunk.phased
      rw [react]
    have rows (j : Nat) : (s.trunk.afterCell s.ctx c place ph).row j =
        if j = k then s.trunk.row k ++ [c] else s.trunk.row j := by
      rw [after, phased, Trunk.row_modify, Trunk.row_modify, Trunk.bridged_row]
      rfl
    have rest : (s.trunk.afterCell s.ctx c place ph).fallback = s.trunk.fallback ∧
        (s.trunk.afterCell s.ctx c place ph).waitQueue = s.trunk.waitQueue ∧
        s.trunk.sameReports (s.trunk.afterCell s.ctx c place ph) := by
      rw [after, phased]
      exact ⟨rfl, rfl, rfl, rfl⟩
    rw [exec_bearerCell_afterCell hd]
    refine ⟨_, rfl, rfl, ?_, (rows k).trans (if_pos rfl), fun j hj => (rows j).trans (if_neg hj), ?_⟩
    · show s.trunk.sameOthers c (s.trunk.afterCell s.ctx c place ph)
      rw [after, phased]
      exact (((s.trunk.hear_sameOthers c).trans (Trunk.bridged_sameOthers _ c k _)).trans
        (Trunk.modify_sameOthers c _ _)).trans (Trunk.modify_sameOthers c _ _)
    · have final' : ({ s with trunk := s.trunk.afterCell s.ctx c place ph } : State).circuit c = _ :=
        (congrArg (Trunk.circuit · c) after).trans final
      have align := Circuit.toBridging_bridgeWork (place := place) (ph := ph) s.settings.params s.frame
        ({ (s.circuit c).heard place with calendarRow := some k } : Circuit)
      have wrote := Circuit.toBridging_wroteCell (place := place) (ph := ph) s.settings.params s.frame
        ({ (s.circuit c).heard place with calendarRow := some k } : Circuit)
      rw [final']
      refine ⟨rest.1, rest.2.1, rest.2.2, rfl, rfl, rfl, rfl, congrArg AlignItems.obase align, rfl, rfl, rfl, rfl, rfl, rfl,
        congrArg AlignItems.judging align, rfl, rfl, rfl, rfl, rfl, rfl, rfl, Bool.and_false _, rfl, rfl, rfl, rfl, rfl, wrote.1,
        wrote.playoutAt (Circuit.clearTags_tag _)⟩
  · have hc : c < 256 := hd.2.1
    have heard := Trunk.hear_circuit (place := place) hc s.trunk
    have asks : ((s.trunk.hear c place).circuit c).asksRow s.ctx b ph := by
      rw [heard]
      exact h.imp_left fun ⟨hs, hcells, hph, hstage, hp⟩ => ⟨hs, hcells, hph, hstage, (s.ctx_present_iff b.peer).mpr hp⟩
    have react : (s.trunk.hear c place).react s.ctx c ph = (s.trunk.hear c place).reportPlain s.ctx c .laneFull := by
      rw [Trunk.react_asksRow (by rw [heard]; exact hb) asks]
      exact Trunk.joinOrReport_of_full (by rw [heard]; exact hrow) hfull
    have kept := (s.trunk.hear c place).report_frame s.ctx c .laneFull none none .clear
    obtain ⟨others, lists, l, own⟩ := kept
    have own' : ((s.trunk.hear c place).react s.ctx c ph).circuit c = { (s.circuit c).heard place with lastReported := l } := by
      rw [react]
      exact own.trans (by rw [heard]; rfl)
    have after := Trunk.afterCell_unworked (t := s.trunk) (x := s.ctx) (place := place) (ph := ph) hc (by
      rw [own']
      exact h.imp And.left And.left)
    have phased := Trunk.phased_circuit hc s.ctx ph (s.trunk.hear c place)
    rw [own'] at phased
    have stored : (s.trunk.hear c place).phased s.ctx c ph =
        ((s.trunk.hear c place).reportPlain s.ctx c .laneFull).modify c (Circuit.storePhase ph) := by
      unfold Trunk.phased
      rw [react]
    rw [exec_bearerCell_afterCell hd, after]
    have final : ({ s with trunk := (s.trunk.hear c place).phased s.ctx c ph } : State).circuit c = _ := phased
    refine ⟨_, rfl, rfl, ?_, ?_, ?_⟩
    · show s.trunk.sameOthers c ((s.trunk.hear c place).phased s.ctx c ph)
      rw [stored]
      exact ((s.trunk.hear_sameOthers c).trans others).trans (Trunk.modify_sameOthers c _ _)
    · show s.trunk.sameLists ((s.trunk.hear c place).phased s.ctx c ph)
      rw [stored]
      exact lists
    · rw [final]
      refine ⟨rfl, rfl, rfl, rfl, fun hk => ?_, fun hk => ?_⟩
      · show s.trunk.entered _ ((s.trunk.hear c place).phased s.ctx c ph)
        rw [stored]
        exact ((s.trunk.hear c place).report_passes s.ctx none none .clear hc (by rw [heard]; exact hb)
          (by rw [heard]; exact hk)).1
      · show s.trunk.sameReports ((s.trunk.hear c place).phased s.ctx c ph)
        rw [stored, Trunk.reportPlain, Trunk.report_of_last (by rw [heard]; exact hk)]
        exact ⟨rfl, rfl⟩

end Sys2Proof.Machine
end

section
/-! RELEASE and the phases that commit or bridge again (R16, R20, R22 to R26). -/

namespace Sys2Proof.Machine

variable {s : State} {t u : Trunk} {x : Ctx} {c : Nat} {r r' : Circuit} {place : List Byte} {ph : Phase}

/-! ## RELEASE -/

theorem Trunk.react_release_beforeSplice (h : (t.circuit c).state.beforeSplice = true) :
    t.react x c .release = t.abandonWith x c none := by
  unfold Trunk.react
  cases hs : (t.circuit c).state <;> rw [hs] at h
  case bridging | aligned | splicePending | spliceWait => rfl
  all_goals cases h

/-- A circuit that RELEASE reverses (R20, R24). -/
def Circuit.releaseReverses (r : Circuit) : Prop :=
  r.state = .spliced ∨ r.state = .revertWait ∨ ((r.state = .committed ∨ r.state = .held) ∧ r.legacyReleased = false)

theorem Trunk.react_release_committed (h : (t.circuit c).state = .committed ∨ (t.circuit c).state = .held) :
    t.react x c .release = t.releaseCommitted x c := by
  unfold Trunk.react
  rcases h with h | h <;> rw [h] <;> rfl

theorem Trunk.react_release_reverses (h : (t.circuit c).releaseReverses) :
    t.react x c .release = t.reverseSplice x c .urgent := by
  rcases h with h | h | ⟨hs, hf⟩
  · unfold Trunk.react
    rw [h]
    rfl
  · unfold Trunk.react
    rw [h]
    rfl
  · rw [Trunk.react_release_committed hs]
    exact if_neg (by rw [hf]; decide)

theorem Trunk.react_release_down (h : (t.circuit c).state = .committed ∨ (t.circuit c).state = .held)
    (hl : (t.circuit c).legacyReleased = true) : t.react x c .release = t.goDown x c := by
  rw [Trunk.react_release_committed h]
  exact if_pos hl

/-- The cell changes nothing that the judgement of a reverse splice reads. -/
theorem Circuit.judgeReverse_heard (st : Settings) (q : Word) (r : Circuit) :
    (r.heard place).judgeReverse st q = r.judgeReverse st q := rfl

theorem Trunk.servesNone.hear (h : t.servesNone x c) (place : List Byte) : (t.hear c place).servesNone x c := h

/-- Storing the phase leaves the lists, the reports and the other circuits. -/
theorem Trunk.phased_eq (h : t.react x c ph = u) : t.phased x c ph = u.modify c (Circuit.storePhase ph) := by
  unfold Trunk.phased
  rw [h]

/-- Settles O24: an abandon before the splice, an URGENT reverse splice while the copper leg stands, and an entry to DOWN
where it is withdrawn; the cell finds the circuit off fibre and is not worked on. -/
theorem releasePhaseByState : Obligations.ReleasePhaseByState := by
  refine ⟨fun s p c place hd hserve hs => ?_, fun s p c place b hd hb hserve hs => ?_, fun s p c place b hd hb hs hl => ?_⟩
  · have hc : c < 256 := hd.2.1
    have heard := Trunk.hear_circuit (place := place) hc s.trunk
    have react : (s.trunk.hear c place).react s.ctx c .release = (s.trunk.hear c place).abandonCore c := by
      rw [Trunk.react_release_beforeSplice (by rw [heard]; exact hs), Trunk.abandonWith_none (hserve.trunk.hear place)]
    have own := Trunk.abandonCore_circuit hc (s.trunk.hear c place)
    have after := Trunk.afterCell_unworked (t := s.trunk) (x := s.ctx) (place := place) (ph := .release) hc (by
      rw [react, own]
      exact .inl rfl)
    have record := Trunk.phased_circuit hc s.ctx .release (s.trunk.hear c place)
    rw [react, own, heard] at record
    have core := (s.trunk.hear c place).abandonCore_abandoned c
    rw [exec_bearerCell_afterCell hd, after]
    refine ⟨_, rfl, rfl, ?_⟩
    show s.trunk.sameOthers c ((s.trunk.hear c place).phased s.ctx c .release) ∧
      Circuit.backOnCopper _ (((s.trunk.hear c place).phased s.ctx c .release).circuit c) ∧
      (((s.trunk.hear c place).phased s.ctx c .release).circuit c).splice.lastKind = _ ∧
      (((s.trunk.hear c place).phased s.ctx c .release).circuit c).splice.flags = _ ∧
      (((s.trunk.hear c place).phased s.ctx c .release).circuit c).splice.switchPoint = _ ∧ _
    rw [record]
    rw [Trunk.phased_eq react]
    exact ⟨((s.trunk.hear_sameOthers c).trans core.others).trans (Trunk.modify_sameOthers c _ _),
      Circuit.backOnCopper_toCopper (((s.circuit c).heard place).storePhase .release), rfl, rfl, rfl, core.fallback,
      core.waitQueue, core.calendar, rfl, rfl⟩
  · have hc : c < 256 := hd.2.1
    have heard := Trunk.hear_circuit (place := place) hc s.trunk
    have react : (s.trunk.hear c place).react s.ctx c .release = (s.trunk.hear c place).reverseSplice s.ctx c .urgent :=
      Trunk.react_release_reverses (by rw [heard]; exact hs)
    obtain ⟨reversed, own, entered⟩ := Trunk.reverseSplice_reported (hserve.trunk.hear place) .urgent hc
      (by rw [heard]; exact hb)
    have verdict : (s.trunk.hear c place).verdict s.ctx c = (s.circuit c).judgeReverse s.settings (s.frame + 1) := by
      unfold Trunk.verdict
      rw [heard]
      rfl
    rw [verdict] at own entered
    have after := Trunk.afterCell_unworked (t := s.trunk) (x := s.ctx) (place := place) (ph := .release) hc (by
      rw [react, own]
      exact .inl rfl)
    have record := Trunk.phased_circuit hc s.ctx .release (s.trunk.hear c place)
    rw [react, own, heard] at record
    rw [exec_bearerCell_afterCell hd, after]
    refine ⟨_, rfl, rfl, ?_⟩
    show s.trunk.sameOthers c ((s.trunk.hear c place).phased s.ctx c .release) ∧
      ((s.trunk.hear c place).phased s.ctx c .release).fallback = _ ∧
      ((s.trunk.hear c place).phased s.ctx c .release).waitQueue = _ ∧
      ((s.trunk.hear c place).phased s.ctx c .release).calendar = _ ∧ _
    have final : ({ s with trunk := (s.trunk.hear c place).phased s.ctx c .release } : State).circuit c = _ := record
    rw [final, Trunk.phased_eq react]
    exact ⟨((s.trunk.hear_sameOthers c).trans reversed.others).trans (Trunk.modify_sameOthers c _ _), reversed.fallback,
      reversed.waitQueue, reversed.calendar, rfl, rfl, rfl, rfl, rfl, rfl, rfl, rfl, rfl, rfl, rfl, rfl, Bool.and_false _, rfl,
      rfl, rfl, rfl, entered⟩
  · have hc : c < 256 := hd.2.1
    have heard := Trunk.hear_circuit (place := place) hc s.trunk
    have react : (s.trunk.hear c place).react s.ctx c .release = (s.trunk.hear c place).goDown s.ctx c :=
      Trunk.react_release_down (by rw [heard]; exact hs) (by rw [heard]; exact hl)
    obtain ⟨others, fallback, queue, left, own, entered⟩ := Trunk.goDown_reported (t := s.trunk.hear c place) hc
      (by rw [heard]; exact hb) s.ctx
    have after := Trunk.afterCell_unworked (t := s.trunk) (x := s.ctx) (place := place) (ph := .release) hc (by
      rw [react, own]
      exact .inr rfl)
    have record := Trunk.phased_circuit hc s.ctx .release (s.trunk.hear c place)
    rw [react, own, heard] at record
    unfold Trunk.leftCalendar at left
    rw [heard] at left
    have kept : ({ (s.circuit c).heard place with calendarRow := none } : Circuit).toDown.legacyReleased = true := by
      show ((s.circuit c).legacyReleased && true) = true
      rw [hl]
      rfl
    rw [exec_bearerCell_afterCell hd, after]
    refine ⟨_, rfl, rfl, ?_⟩
    show s.trunk.sameOthers c ((s.trunk.hear c place).phased s.ctx c .release) ∧
      ((s.trunk.hear c place).phased s.ctx c .release).fallback = _ ∧
      ((s.trunk.hear c place).phased s.ctx c .release).waitQueue = _ ∧
      (∀ k, _ → ((s.trunk.hear c place).phased s.ctx c .release).row k = _) ∧
      (∀ k, _ → ((s.trunk.hear c place).phased s.ctx c .release).row k = _) ∧ _
    have final : ({ s with trunk := (s.trunk.hear c place).phased s.ctx c .release } : State).circuit c = _ := record
    rw [final, Trunk.phased_eq react]
    exact ⟨((s.trunk.hear_sameOthers c).trans others).trans (Trunk.modify_sameOthers c _ _), fallback, queue,
      left.1, left.2, rfl, rfl, kept, rfl, rfl, rfl, rfl, rfl, rfl, rfl, rfl, rfl, entered⟩

end Sys2Proof.Machine
end

section
/-! COMMITTED, SPLICED and the re-bridge heard in COMMITTED and HELD (R22, R23, R25). -/

namespace Sys2Proof.Machine

variable {s : State} {t u : Trunk} {x : Ctx} {c : Nat} {r r' r'' : Circuit} {place : List Byte} {ph : Phase}

/-- From `r` to `r'` only the ring, the counters, the playout buffer and the judging list may differ. -/
def Circuit.Stocked (r r' : Circuit) : Prop :=
  ∃ ring counters playout judging,
    r' = { r with ring := ring, counters := counters, playout := playout, align := { r.align with judging := judging } }

theorem Circuit.Stocked.refl (r : Circuit) : r.Stocked r := ⟨_, _, _, _, rfl⟩

theorem Circuit.Stocked.trans (h : r.Stocked r') (g : r'.Stocked r'') : r.Stocked r'' := by
  obtain ⟨_, _, _, _, rfl⟩ := h
  obtain ⟨_, _, _, _, rfl⟩ := g
  exact ⟨_, _, _, _, rfl⟩

theorem Circuit.stocked_push (off : Word) (r : Circuit) : r.Stocked (r.push off) := ⟨_, _, _, _, rfl⟩

theorem Circuit.stocked_writeJudged (off : Word) (cell : BearerCell) (r : Circuit) : r.Stocked (r.writeJudged off cell) := by
  unfold Circuit.writeJudged
  split
  · exact ⟨_, _, _, _, rfl⟩
  · split
    · exact ⟨_, _, _, _, rfl⟩
    · exact ⟨_, _, _, _, rfl⟩

theorem Circuit.stocked_takeWindowFrom (was : CircuitState) (f a : Word) (r : Circuit) : r.Stocked (r.takeWindowFrom was f a) := by
  unfold Circuit.takeWindowFrom
  split
  · exact .refl r
  · by_cases hj : r.judges = true
    · rw [Circuit.takeWindow_of_judges hj]
      exact ⟨_, _, _, _, rfl⟩
    · rw [Circuit.takeWindow_of_not_judges (Bool.eq_false_iff.mpr hj)]
      exact .refl r

/-- On fibre and in HELD the work on a cell stays within the stores of its circuit. -/
theorem Trunk.workCell_stocks (hc : c < 256) (hon : (t.circuit c).state.onFibre = true ∨ (t.circuit c).state = .held) (x : Ctx)
    (was : CircuitState) (cell : BearerCell) :
    t.onlyRecord c (t.workCell x c was cell) ∧ (t.circuit c).Stocked ((t.workCell x c was cell).circuit c) := by
  have within (f : Circuit → Circuit) : t.onlyRecord c (t.modify c f) :=
    ⟨Trunk.modify_sameOthers c f t, ⟨rfl, rfl, rfl⟩, rfl, rfl⟩
  cases he : isEarly ((t.circuit c).lead (x.frame - cell.ssn)) with
  | true =>
    rw [Trunk.workCell_early x was cell t hon he, Trunk.circuit_modify_same _ _ hc]
    exact ⟨within _, (Circuit.stocked_push _ _).trans (Circuit.stocked_writeJudged _ _ _)⟩
  | false =>
    rw [Trunk.workCell_stream hon cell he, Trunk.circuit_modify_same _ _ hc]
    exact ⟨within _, ((Circuit.stocked_push _ _).trans (Circuit.stocked_writeJudged _ _ _)).trans
      (Circuit.stocked_takeWindowFrom _ _ _ _)⟩

/-- The report stands where no further one follows. -/
theorem Trunk.entered.sameAfter {rep : Report} {v : Trunk} (h : t.entered rep u) (g : u.sameReports v) : t.entered rep v := by
  obtain ⟨hreports, hover⟩ := g
  unfold Trunk.entered
  rw [hreports, hover]
  exact h

/-! ## The legacy release -/

/-- The flag after a legacy release is offered to circuit `c` (R22). -/
theorem Trunk.legacyRelease_record (hc : c < 256) (x : Ctx) (t : Trunk) (hs : (t.circuit c).state = .committed) :
    ∃ l, (t.legacyRelease x c).circuit c = { t.circuit c with
      legacyReleased := (t.circuit c).legacyReleased || decide ((t.circuit c).peerPhase = some .committed)
      lastReported := l } := by
  have same (v : Bool) (hv : (t.circuit c).legacyReleased = v) : t.circuit c = { t.circuit c with legacyReleased := v } := by
    rw [← hv]
  unfold Trunk.legacyRelease
  dsimp only
  split
  next h =>
    obtain ⟨-, hphase, -⟩ := h
    obtain ⟨-, -, l, own⟩ := (t.modify c fun r => { r with legacyReleased := true }).report_frame x c .legacyReleased none none
      .clear
    refine ⟨l, own.trans ?_⟩
    rw [Trunk.circuit_modify_same _ _ hc, decide_eq_true hphase, Bool.or_true]
  next h =>
    refine ⟨(t.circuit c).lastReported, (same _ ?_)⟩
    cases hr : (t.circuit c).legacyReleased with
    | true => rfl
    | false =>
      rw [decide_eq_false fun hp => h ⟨hs, hp, hr⟩]
      rfl

theorem Trunk.legacyRelease_frame (x : Ctx) (hc : c < 256) (t : Trunk) :
    t.sameOthers c (t.legacyRelease x c) ∧ t.sameLists (t.legacyRelease x c) := by
  obtain ⟨others, lists, -⟩ := Trunk.Relabels.legacyRelease x hc t
  exact ⟨others, lists⟩

/-- The return from HELD, with the release that the stored phase or the cell's brings (R22, R23). -/
theorem Trunk.heldReturn_record (hc : c < 256) (x : Ctx) (ph : Phase) (t : Trunk) :
    ∃ l, (t.heldReturn x c ph).circuit c = { (t.circuit c).enter .committed with
      peerPhase := some ph
      legacyReleased := (t.circuit c).legacyReleased || decide (ph = .committed) ||
        decide ((t.circuit c).peerPhase = some .committed)
      lastReported := l } := by
  have entered := Trunk.circuit_modify_same t (Circuit.enter .committed) hc
  obtain ⟨l1, first⟩ := Trunk.legacyRelease_record hc x (t.modify c (Circuit.enter .committed)) (by rw [entered]; rfl)
  rw [entered] at first
  have stored := Trunk.circuit_modify_same ((t.modify c (Circuit.enter .committed)).legacyRelease x c)
    (fun r => { r with peerPhase := some ph }) hc
  rw [first] at stored
  obtain ⟨l2, second⟩ := Trunk.legacyRelease_record hc x
    (((t.modify c (Circuit.enter .committed)).legacyRelease x c).modify c fun r => { r with peerPhase := some ph })
    (by rw [stored]; rfl)
  refine ⟨l2, second.trans ?_⟩
  rw [stored]
  have flag : ((((t.circuit c).legacyReleased && true) || decide ((t.circuit c).peerPhase = some .committed)) ||
      decide (some ph = some .committed)) = ((t.circuit c).legacyReleased || decide (ph = .committed) ||
        decide ((t.circuit c).peerPhase = some .committed)) := by
    rw [Bool.and_true, Bool.or_right_comm, decide_eq_decide.mpr Option.some_inj]
  exact congrArg (fun v => { (t.circuit c).enter .committed with peerPhase := some ph, legacyReleased := v, lastReported := l2 })
    flag

/-! ## The phases -/

theorem Trunk.react_held_returns (h : (t.circuit c).state = .held) (hph : ph = .spliced ∨ ph = .committed) :
    t.react x c ph = t.heldReturn x c ph := by
  unfold Trunk.react
  rw [h]
  rcases hph with rfl | rfl <;> rfl

theorem Trunk.react_committed_releases (h : (t.circuit c).state = .committed) :
    t.react x c .committed = (t.modify c (fun r => { r with peerPhase := some .committed })).legacyRelease x c := by
  unfold Trunk.react
  rw [h]
  rfl

theorem Trunk.react_reBridges (h : (t.circuit c).state = .committed ∨ (t.circuit c).state = .held)
    (hph : ph = .bridging ∨ ph = .aligned) : t.react x c ph = t.reBridge x c := by
  unfold Trunk.react
  rcases h with h | h <;> rw [h] <;> exact if_pos (by rcases hph with rfl | rfl <;> rfl)

/-- Where the phase leaves the circuit on fibre, the delivery stays within what the phase has changed and the stores. -/
theorem Trunk.afterCell_stocks (hc : c < 256) (hs : (((t.hear c place).react x c ph).circuit c).state = .committed) :
    ((t.hear c place).react x c ph).onlyRecord c (t.afterCell x c place ph) ∧
      (((t.hear c place).react x c ph).circuit c |>.storePhase ph).Stocked ((t.afterCell x c place ph).circuit c) := by
  have phased := Trunk.phased_circuit hc x ph (t.hear c place)
  obtain ⟨⟨others, lists, reports⟩, own⟩ := Trunk.workCell_stocks (t := (t.hear c place).phased x c ph) hc
    (by rw [phased]; exact .inl (by rw [Circuit.storePhase, hs]; rfl)) x (t.circuit c).state (bearerOf place ph c)
  rw [phased] at own
  exact ⟨⟨(Trunk.modify_sameOthers c _ _).trans others, lists, reports⟩, own⟩

/-- Settles O25: the flag and its report at COMMITTED, the return of a HELD circuit at its unchanged offsets, and the
re-bridge, whose cell is the first of the new bridging. -/
theorem phasesOnCommittedAndHeld : Obligations.PhasesOnCommittedAndHeld := by
  refine ⟨fun s p c place b ph hd hb => ⟨fun hs hph hflag hlast => ?_, fun hs hph => ?_⟩, fun s p c place b ph hd hb hs hph => ?_⟩
  · subst hph
    have hc : c < 256 := hd.2.1
    have heard := Trunk.hear_circuit (place := place) hc s.trunk
    let t := (s.trunk.hear c place).modify c (fun r => { r with peerPhase := some .committed })
    have own : t.circuit c = { (s.circuit c).heard place with peerPhase := some .committed } := by
      rw [Trunk.circuit_modify_same _ _ hc, heard]
      rfl
    have react : (s.trunk.hear c place).react s.ctx c .committed =
        (t.modify c fun r => { r with legacyReleased := true }).reportPlain s.ctx c .legacyReleased := by
      rw [Trunk.react_committed_releases (by rw [heard]; exact hs)]
      exact if_pos (by rw [own]; exact ⟨hs, rfl, hflag⟩)
    have flagged := Trunk.circuit_modify_same t (fun r => { r with legacyReleased := true }) hc
    rw [own] at flagged
    obtain ⟨entered, lists, others, said⟩ := (t.modify c fun r => { r with legacyReleased := true }).report_passes s.ctx
      (k := .legacyReleased) none none .clear hc (by rw [flagged]; exact hb) (by rw [flagged]; exact hlast)
    rw [flagged] at said
    have record : ((s.trunk.hear c place).react s.ctx c .committed).circuit c = _ := (congrArg (Trunk.circuit · c) react).trans said
    obtain ⟨⟨wothers, wlists, wreports⟩, stocked⟩ := Trunk.afterCell_stocks (t := s.trunk) hc (by rw [record]; exact hs)
    rw [record] at stocked
    rw [react] at wothers wlists wreports
    rw [exec_bearerCell_afterCell hd]
    refine ⟨_, rfl, rfl, ((((s.trunk.hear_sameOthers c).trans (Trunk.modify_sameOthers c _ _)).trans
      (Trunk.modify_sameOthers c _ _)).trans others).trans wothers, lists.trans wlists, ?_⟩
    obtain ⟨_, _, _, _, final⟩ := stocked
    have final' : ({ s with trunk := s.trunk.afterCell s.ctx c place .committed } : State).circuit c = _ := final
    rw [final']
    exact ⟨hs, rfl, rfl, rfl, rfl, entered.sameAfter wreports⟩
  · have hc : c < 256 := hd.2.1
    have heard := Trunk.hear_circuit (place := place) hc s.trunk
    have react : (s.trunk.hear c place).react s.ctx c ph = (s.trunk.hear c place).heldReturn s.ctx c ph :=
      Trunk.react_held_returns (by rw [heard]; exact hs) hph
    obtain ⟨l, own⟩ := Trunk.heldReturn_record hc s.ctx ph (s.trunk.hear c place)
    obtain ⟨others, lists, -⟩ := Trunk.Relabels.heldReturn s.ctx hc ph (s.trunk.hear c place)
    rw [← react, heard] at own
    rw [← react] at others lists
    obtain ⟨⟨wothers, wlists, -⟩, stocked⟩ := Trunk.afterCell_stocks (t := s.trunk) hc (by rw [own]; rfl)
    rw [own] at stocked
    obtain ⟨_, _, _, _, final⟩ := stocked
    have final' : ({ s with trunk := s.trunk.afterCell s.ctx c place ph } : State).circuit c = _ := final
    rw [exec_bearerCell_afterCell hd]
    refine ⟨_, rfl, rfl, (((s.trunk.hear_sameOthers c).trans (Trunk.modify_sameOthers c _ _)).trans others).trans wothers,
      lists.trans wlists, ?_⟩
    rw [final']
    exact ⟨rfl, rfl, rfl, rfl, rfl, rfl, rfl, rfl⟩
  · have hc : c < 256 := hd.2.1
    have heard := Trunk.hear_circuit (place := place) hc s.trunk
    have react : (s.trunk.hear c place).react s.ctx c ph = (s.trunk.hear c place).reBridge s.ctx c :=
      Trunk.react_reBridges (by rw [heard]; exact hs) hph
    obtain ⟨others, lists, own, entered⟩ := Trunk.reBridge_reported (t := s.trunk.hear c place) hc (by rw [heard]; exact hb) s.ctx
    have verdict : (s.trunk.hear c place).verdict s.ctx c = (s.circuit c).judgeReverse s.settings (s.frame + 1) := by
      unfold Trunk.verdict
      rw [heard]
      rfl
    rw [verdict] at own entered
    rw [heard] at own
    rw [← react] at own entered others lists
    have record := Trunk.phased_circuit hc s.ctx ph (s.trunk.hear c place)
    rw [own] at record
    obtain ⟨work, final⟩ := Trunk.workCell_first (place := place) (t := (s.trunk.hear c place).phased s.ctx c ph) hc
      (by rw [record]; rfl) (by rw [record]; rfl) s.ctx (s.circuit c).state ph
    rw [record] at final
    have after : s.trunk.afterCell s.ctx c place ph =
        ((s.trunk.hear c place).phased s.ctx c ph).modify c (Circuit.bridgeWork s.frame place) := work
    have final' : ({ s with trunk := s.trunk.afterCell s.ctx c place ph } : State).circuit c = _ :=
      (congrArg (Trunk.circuit · c) after).trans final
    have rest : s.trunk.sameOthers c (s.trunk.afterCell s.ctx c place ph) ∧
        s.trunk.sameLists (s.trunk.afterCell s.ctx c place ph) ∧
        s.trunk.entered (aboutCircuit s.cycleCount c b .reverted (some (.reverse .urgent))
          ((s.circuit c).judgeReverse s.settings (s.frame + 1)).2
          ((s.circuit c).judgeReverse s.settings (s.frame + 1)).1) (s.trunk.afterCell s.ctx c place ph) := by
      rw [after]
      exact ⟨(((s.trunk.hear_sameOthers c).trans others).trans (Trunk.modify_sameOthers c _ _)).trans
        (Trunk.modify_sameOthers c _ _), lists, entered⟩
    have align := Circuit.toBridging_bridgeWork (place := place) (ph := ph) s.settings.params s.frame
      (((s.circuit c).heard place).markReverse .urgent ((s.circuit c).judgeReverse s.settings (s.frame + 1)).1)
    have wrote := Circuit.toBridging_wroteCell (place := place) (ph := ph) s.settings.params s.frame
      (((s.circuit c).heard place).markReverse .urgent ((s.circuit c).judgeReverse s.settings (s.frame + 1)).1)
    rw [exec_bearerCell_afterCell hd]
    refine ⟨_, rfl, rfl, rest.1, rest.2.1, ?_⟩
    rw [final']
    exact ⟨rfl, rfl, Bool.and_false _, rfl, rfl, rfl, congrArg AlignItems.obase align, rfl, rfl, rfl, rfl, rfl, rfl, rfl, rfl,
      wrote.playoutAt (Circuit.clearTags_tag _), rest.2.2⟩

end Sys2Proof.Machine
end

section
/-! The work on a cell in the states that hold fibre samples or a bridge, and what the arrival then brings at the splice unit
(R42 to R51, R60). -/

namespace Sys2Proof.Machine

variable {s : State} {t u v : Trunk} {x : Ctx} {c : Nat} {r r' r'' : Circuit} {place : List Byte} {ph : Phase}

/-! ## What the splice unit and the servings leave alone -/

/-- From `r` to `r'` only the state, what the splice unit keeps of the circuit, the timer, the flags, the last reported kind,
O and the idle-qualify count may differ. -/
def Circuit.Steered (r r' : Circuit) : Prop :=
  ∃ st splice timer deferred released kind offset idle,
    r' = { r with
      state := st, splice := splice, stateTimer := timer, deferredRevert := deferred, legacyReleased := released,
      lastReported := kind, align := { r.align with offset := offset, idleQualify := idle } }

theorem Circuit.Steered.refl (r : Circuit) : r.Steered r := ⟨_, _, _, _, _, _, _, _, rfl⟩

theorem Circuit.Steered.trans (h : r.Steered r') (g : r'.Steered r'') : r.Steered r'' := by
  obtain ⟨_, _, _, _, _, _, _, _, rfl⟩ := h
  obtain ⟨_, _, _, _, _, _, _, _, rfl⟩ := g
  exact ⟨_, _, _, _, _, _, _, _, rfl⟩

theorem Circuit.steered_enter (r : Circuit) {st : CircuitState} (hc : st ≠ .copper) (hh : st ≠ .held) (hd : st ≠ .down) :
    r.Steered (r.enter st) := by
  cases st
  case copper => exact absurd rfl hc
  case held => exact absurd rfl hh
  case down => exact absurd rfl hd
  all_goals exact ⟨_, _, _, _, _, _, _, _, rfl⟩

theorem Circuit.steered_spliceAt (p : Word) (k : SpliceKind) (o : Word) (d : Nat) (gap : Bool) (r : Circuit) :
    r.Steered (r.spliceAt p k o d gap) := by
  unfold Circuit.spliceAt
  cases k <;> exact ⟨_, _, _, _, _, _, _, _, rfl⟩

theorem Circuit.steered_spliceBlind (g : Nat) (k : SpliceKind) (r : Circuit) : r.Steered (r.spliceBlind g k) :=
  ⟨_, _, _, _, _, _, _, _, rfl⟩

/-- The calendar is the same, and every circuit has been steered. -/
def Trunk.Steers (t u : Trunk) : Prop := u.calendar = t.calendar ∧ ∀ d, (t.circuit d).Steered (u.circuit d)

theorem Trunk.Steers.refl (t : Trunk) : t.Steers t := ⟨rfl, fun _ => .refl _⟩

theorem Trunk.Steers.trans (h : t.Steers u) (g : u.Steers v) : t.Steers v :=
  ⟨g.1.trans h.1, fun d => (h.2 d).trans (g.2 d)⟩

theorem Trunk.Steers.of_eq (hcal : u.calendar = t.calendar) (h : ∀ d, u.circuit d = t.circuit d) : t.Steers u :=
  ⟨hcal, fun d => by rw [h d]; exact .refl _⟩

theorem Trunk.Steers.modify {f : Circuit → Circuit} (hf : (t.circuit c).Steered (f (t.circuit c))) : t.Steers (t.modify c f) := by
  refine ⟨rfl, fun d => ?_⟩
  rw [Trunk.circuit_modify]
  split
  next h =>
    rw [h.1]
    exact hf
  next => exact .refl _

theorem Trunk.Steers.report (x : Ctx) (c : Nat) (k : ReportKind) (vr : Option ReportVariant) (d : Option Nat) (fl : SpliceFlags)
    (t : Trunk) : t.Steers (t.report x c k vr d fl) := by
  obtain ⟨others, lists, l, own⟩ := t.report_frame x c k vr d fl
  refine ⟨lists.2.2, fun e => ?_⟩
  by_cases he : e = c
  · rw [he, own]
    exact ⟨_, _, _, _, _, _, _, _, rfl⟩
  · rw [others e he]
    exact .refl _

theorem Trunk.Steers.splice (x : Ctx) (c : Nat) (k : SpliceKind) (d : Nat) (gap : Bool) (t : Trunk) :
    t.Steers (t.splice x c k d gap) := by
  unfold Trunk.splice
  refine ((Trunk.Steers.modify ?_).trans
    (.of_eq (Trunk.recordLive_calendar x c _) (Trunk.circuit_recordLive x c _))).trans (.report x c _ _ _ _ _)
  split
  · exact Circuit.steered_spliceAt _ _ _ _ _ _
  · exact Circuit.steered_spliceBlind _ _ _

theorem Trunk.Steers.legacyRelease (x : Ctx) (c : Nat) (t : Trunk) : t.Steers (t.legacyRelease x c) := by
  unfold Trunk.legacyRelease
  dsimp only
  split
  · exact (Trunk.Steers.modify ⟨_, _, _, _, _, _, _, _, rfl⟩).trans (.report x c _ _ _ _ _)
  · exact .refl t

theorem Trunk.Steers.forcedCommit (x : Ctx) (w c : Nat) (t : Trunk) : t.Steers (t.forcedCommit x w c) :=
  (((Trunk.Steers.of_eq (t := t) (u := t.removeRecord w) rfl fun _ => rfl).trans
    (.modify ⟨_, _, _, _, _, _, _, _, rfl⟩)).trans (.report x w _ _ _ _ _)).trans (.legacyRelease x w _)

theorem Trunk.Steers.request {g : Trunk} (h : t.request x c = some g) : t.Steers g := by
  unfold Trunk.request at h
  split at h
  · cases h
  · split at h
    · cases h
      exact .refl t
    · split at h
      · cases h
        exact .forcedCommit x _ c t
      · cases h

theorem Trunk.Steers.grant (x : Ctx) (c d : Nat) (t : Trunk) : t.Steers (t.grant x c d) := by
  unfold Trunk.grant
  split
  · exact .splice x c _ _ _ t
  · have pending : t.Steers (t.addPending c) := by
      unfold Trunk.addPending Trunk.appendRecord
      split
      · exact .of_eq rfl fun _ => rfl
      · exact .refl t
    exact pending.trans (.modify ⟨_, _, _, _, _, _, _, _, rfl⟩)

theorem Trunk.Steers.delayExcess (x : Ctx) (c d : Nat) (t : Trunk) : t.Steers (t.delayExcess x c d) :=
  (Trunk.Steers.modify ⟨_, _, _, _, _, _, _, _, rfl⟩).trans (.report x c _ _ _ _ _)

theorem Trunk.Steers.unserved (c : Nat) (t : Trunk) : t.Steers (t.unserved c) :=
  .modify (Circuit.steered_enter _ nofun nofun nofun)

theorem Trunk.Steers.dequeue (q : List Nat) (t : Trunk) : t.Steers { t with waitQueue := q } := .of_eq rfl fun _ => rfl

theorem Trunk.Steers.serveRoll (x : Ctx) (n : Nat) : ∀ t : Trunk, t.Steers (Trunk.serveRoll x n t) := by
  induction n with
  | zero => exact fun t => .refl t
  | succ n ih =>
    intro t
    unfold Trunk.serveRoll
    split
    next h rest w _ _ =>
      have first := Trunk.Steers.dequeue rest t
      dsimp only
      split
      · exact (first.trans (.unserved h _)).trans (ih _)
      next d _ =>
        split
        · exact (first.trans (.delayExcess x h d _)).trans (ih _)
        · have granted := (first.trans (.forcedCommit x w h _)).trans (.grant x h d _)
          split
          · exact granted.trans (ih _)
          · exact granted
    next => exact .refl t

theorem Trunk.Steers.serveRoom (x : Ctx) (n : Nat) : ∀ t : Trunk, t.Steers (Trunk.serveRoom x n t) := by
  induction n with
  | zero => exact fun t => .refl t
  | succ n ih =>
    intro t
    unfold Trunk.serveRoom
    split
    next => exact .refl t
    next h rest _ =>
      have first := Trunk.Steers.dequeue rest t
      split
      · dsimp only
        split
        · exact (first.trans (.unserved h _)).trans (ih _)
        next d _ =>
          split
          · exact (first.trans (.delayExcess x h d _)).trans (ih _)
          · have granted := first.trans (.grant x h d _)
            split
            · exact granted.trans (.serveRoll x n _)
            · exact granted.trans (ih _)
      · exact .refl t

theorem Trunk.Steers.serve (x : Ctx) (t : Trunk) : t.Steers (t.serve x) := .serveRoom x _ t

theorem Trunk.Steers.serveLive (x : Ctx) (t : Trunk) : t.Steers (t.serveLive x) := by
  unfold Trunk.serveLive
  split
  · exact .serveRoll x _ t
  · exact .refl t

theorem Trunk.Steers.spliceAndServe (x : Ctx) (c : Nat) (k : SpliceKind) (d : Nat) (gap : Bool) (t : Trunk) :
    t.Steers (t.spliceAndServe x c k d gap) := (Trunk.Steers.splice x c k d gap t).trans (.serveLive x _)

theorem Trunk.Steers.arriveBridging (x : Ctx) (c : Nat) (t : Trunk) : t.Steers (t.arriveBridging x c) := by
  unfold Trunk.arriveBridging
  split
  · split
    next g hg => exact (Trunk.Steers.request hg).trans (.spliceAndServe x c _ _ _ g)
    next => exact .refl t
  · exact .refl t

theorem Trunk.Steers.arriveAligned (x : Ctx) (c : Nat) (t : Trunk) : t.Steers (t.arriveAligned x c) := by
  unfold Trunk.arriveAligned
  dsimp only
  split
  · split
    next => exact .refl t
    next d _ =>
      split
      · exact .report x c _ _ _ _ t
      · split
        next g hg => exact ((Trunk.Steers.request hg).trans (.grant x c d g)).trans (.serveLive x _)
        next => exact (Trunk.Steers.dequeue _ t).trans (.modify (Circuit.steered_enter _ nofun nofun nofun))
  · exact .refl t

theorem Trunk.Steers.arriveWaiting (x : Ctx) (c : Nat) (t : Trunk) : t.Steers (t.arriveWaiting x c) := by
  unfold Trunk.arriveWaiting
  dsimp only
  split
  next => exact .refl t
  next d _ =>
    split
    · exact ((Trunk.Steers.of_eq (t := t) (u := t.removeRecord c) rfl fun _ => rfl).trans (.delayExcess x c d _)).trans
        (.serve x _)
    · split
      · exact .spliceAndServe x c _ _ _ t
      · have known : t.Steers (t.modify c fun r => { r with splice := { r.splice with deficit := some d } }) :=
          .modify ⟨_, _, _, _, _, _, _, _, rfl⟩
        split
        · exact known.trans (.spliceAndServe x c _ _ _ _)
        · exact known

/-- R51: an arrival at the splice unit, with every serving it starts, leaves the calendar and the stores of every circuit. -/
theorem Trunk.Steers.arrive (x : Ctx) (c : Nat) (t : Trunk) : t.Steers (t.arrive x c) := by
  unfold Trunk.arrive
  split
  · exact .arriveBridging x c t
  · exact .arriveAligned x c t
  · exact .arriveWaiting x c t
  · exact .refl t

end Sys2Proof.Machine
end

section
/-! R42 to R51: delivered cells, by the state of the circuit. -/

namespace Sys2Proof.Machine

variable {s : State} {t u v : Trunk} {x : Ctx} {c : Nat} {r r' r'' : Circuit} {place : List Byte} {ph : Phase}

/-! ## Cells that leave the circuit on fibre or in HELD -/

/-- A cell delivered to a circuit that its phase leaves on fibre or in HELD: all that the delivery does beside the phase is
the work of R45 and R47 to R50 in the record. -/
theorem Trunk.afterCell_worked (hc : c < 256) (x : Ctx) {o : Word} (hr : ((t.hear c place).react x c ph).circuit c = r)
    (hon : r.state.onFibre = true ∨ r.state = .held) (ho : r.splice.playOffset = some o) :
    ((t.hear c place).react x c ph).onlyRecord c (t.afterCell x c place ph) ∧
      (r.storePhase ph).Worked o x.frame place ((t.afterCell x c place ph).circuit c) ∧
      ((t.circuit c).state ≠ .held → r.judges = true → (o - (x.frame - ssnOf place)).toInt ≤ 472 →
        ∀ ob, r.align.obase = some ob →
          ((t.afterCell x c place ph).circuit c).align.judging = windowEntered x.frame (ssnOf place) ob r.align.judging) := by
  have phased := Trunk.phased_circuit hc x ph (t.hear c place)
  rw [hr] at phased
  obtain ⟨⟨others, lists, reports⟩, worked, judged⟩ := Trunk.workCell_worked (t := (t.hear c place).phased x c ph) (o := o)
    (place := place) hc (by rw [phased]; exact hon) (by rw [phased]; exact ho) x (t.circuit c).state ph
  rw [phased] at worked judged
  exact ⟨⟨(Trunk.modify_sameOthers c _ _).trans others, lists, reports⟩, worked, judged⟩

/-- The counters after a cell that is late, or in time (R50). -/
theorem Circuit.Worked.late {o f : Word} (h : r.Worked o f place r') (hl : (o - (f - ssnOf place)).toInt ≤ -1) :
    r'.counters = { r.counters with late := min (r.counters.late + 1) 65535 } := by
  rw [(h.written (by omega)).2, if_pos hl]

theorem Circuit.Worked.inTime {o f : Word} (h : r.Worked o f place r') (h0 : 0 ≤ (o - (f - ssnOf place)).toInt)
    (h472 : (o - (f - ssnOf place)).toInt ≤ 472) : r'.counters = r.counters := by
  rw [(h.written h472).2, if_neg (by omega)]

/-- The items of the alignment unit but the judging list stay (R49, R60). -/
theorem Circuit.Worked.align {o f : Word} (h : r.Worked o f place r') {js : List JudgeEntry} (hj : r'.align.judging = js) :
    r'.align = { r.align with judging := js } := by
  rw [h.rest]
  exact congrArg (fun l => { r.align with judging := l }) hj

theorem Circuit.judges_of_released (hs : r.state.onFibre = true ∨ r.state = .held)
    (h : r.state = .held ∨ r.align.offset = none ∨ r.legacyReleased = true) : r.judges = false := by
  unfold Circuit.judges
  rw [CircuitState.beforeSplice_of_stream hs]
  rcases h with h | h | h <;> rw [h]
  · rfl
  · rw [Option.isSome_none, Bool.and_false]
    rfl
  · rw [Bool.not_true, Bool.and_false]
    rfl

theorem Circuit.judges_of_fibre (hs : r.state.onFibre = true) (ho : r.align.offset ≠ none) (hl : r.legacyReleased = false) :
    r.judges = true := by
  unfold Circuit.judges
  rw [hs, hl, Option.isSome_iff_ne_none.mpr ho]
  exact Bool.or_true _

/-- The first statement of O22: a phase that is only stored. -/
theorem deliveredCells_stored {p : Nat} {o : Word} (hd : s.delivers p place ph c)
    (ho : (s.circuit c).splice.playOffset = some o) (hring : (s.circuit c).ring.length ≤ 16)
    (hon : (s.circuit c).state.onFibre = true ∨ (s.circuit c).state = .held) (hrel : ph ≠ .release)
    (hs : (s.circuit c).state.onlyStores ph) :
    ∃ r', s.trunk.onlyRecord c (s.trunk.afterCell s.ctx c place ph) ∧
      (s.trunk.afterCell s.ctx c place ph).circuit c = r' ∧
      (((s.circuit c).heard place).storePhase ph).Worked o s.frame place r' ∧
      r' = { s.circuit c with
        silence := 0
        fibreCode := codeOf place
        peerPhase := some ph
        ring := ((s.circuit c).ring ++ [s.frame - ssnOf place]).drop ((s.circuit c).ring.length - 15)
        counters := r'.counters
        playout := r'.playout
        align := r'.align } ∧
      ((s.circuit c).state ≠ .held → (s.circuit c).judges = true → (o - (s.frame - ssnOf place)).toInt ≤ 472 →
        ∀ ob, (s.circuit c).align.obase = some ob →
          r'.align.judging = windowEntered s.frame (ssnOf place) ob (s.circuit c).align.judging) := by
  have hc : c < 256 := hd.2.1
  have heard := Trunk.hear_circuit (place := place) hc s.trunk
  have react : (s.trunk.hear c place).react s.ctx c ph = s.trunk.hear c place :=
    Trunk.react_onlyStores s.ctx c _ hrel (by rw [heard]; exact hs)
  obtain ⟨⟨others, lists, reports⟩, worked, judged⟩ := Trunk.afterCell_worked (t := s.trunk) (place := place) (ph := ph) hc s.ctx
    (o := o) ((congrArg (Trunk.circuit · c) react).trans heard) hon ho
  rw [react] at others lists reports
  refine ⟨_, ⟨(s.trunk.hear_sameOthers c).trans others, lists, reports⟩, rfl, worked, ?_, judged⟩
  rw [← pushRing_eq_drop hring]
  exact worked.rest.trans (by rw [worked.align rfl]; rfl)

/-! ## Cells that leave the circuit COMMITTED -/

/-- The record that COMMITTED heard in COMMITTED, or SPLICED or COMMITTED heard in HELD, leaves (R22, R23). -/
def Circuit.returned (ph : Phase) (released : Bool) (idle : Nat) (kind : Option ReportKind) (ripe : Bool) (r : Circuit) : Circuit :=
  { r with
    state := .committed
    stateTimer := if r.state = .held then 0 else r.stateTimer
    legacyReleased := released
    lastReported := kind
    peerPhase := some ph
    align := { r.align with idleQualify := idle }
    splice := { r.splice with ripe := ripe } }

theorem Trunk.react_returns (hc : c < 256) {released : Bool} {idle : Nat}
    (h : ((t.circuit c).state = .committed ∧ ph = .committed ∧ released = true ∧ idle = (t.circuit c).align.idleQualify) ∨
      ((t.circuit c).state = .held ∧ (ph = .spliced ∨ ph = .committed) ∧ idle = 0 ∧
        released = ((t.circuit c).legacyReleased || decide (ph = .committed) ||
          decide ((t.circuit c).peerPhase = some .committed)))) :
    t.sameOthers c (t.react x c ph) ∧ t.sameLists (t.react x c ph) ∧
      ∃ kind ripe, (t.react x c ph).circuit c = (t.circuit c).returned ph released idle kind ripe := by
  rcases h with ⟨hs, rfl, rfl, rfl⟩ | ⟨hs, hph, rfl, rfl⟩
  · rw [Trunk.react_committed_releases hs]
    have stored := Trunk.circuit_modify_same t (fun r => { r with peerPhase := some .committed }) hc
    obtain ⟨others, lists⟩ := Trunk.legacyRelease_frame x hc (t.modify c fun r => { r with peerPhase := some .committed })
    obtain ⟨l, own⟩ := Trunk.legacyRelease_record hc x (t.modify c fun r => { r with peerPhase := some .committed })
      (by rw [stored]; exact hs)
    refine ⟨(Trunk.modify_sameOthers c _ t).trans others, lists, l, (t.circuit c).splice.ripe, own.trans ?_⟩
    rw [stored]
    unfold Circuit.returned
    rw [if_neg (by rw [hs]; nofun), decide_eq_true rfl, Bool.or_true]
    exact congrArg (fun st => { t.circuit c with
      state := st, legacyReleased := true, lastReported := l, peerPhase := some .committed }) hs
  · rw [Trunk.react_held_returns hs hph]
    obtain ⟨others, lists, -⟩ := Trunk.Relabels.heldReturn x hc ph t
    obtain ⟨l, own⟩ := Trunk.heldReturn_record hc x ph t
    refine ⟨(Trunk.modify_sameOthers c _ t).trans others, lists, l, false, own.trans ?_⟩
    unfold Circuit.returned
    rw [if_pos hs]
    rfl

/-! ## Cells before the splice -/

theorem Trunk.react_beforeSplice (h : (t.circuit c).state.beforeSplice = true) (hph : ph ≠ .release) : t.react x c ph = t := by
  unfold Trunk.react
  cases hs : (t.circuit c).state <;> rw [hs] at h
  case bridging | aligned | splicePending | spliceWait => exact if_neg hph
  all_goals cases h

/-- Before the splice a cell is heard, its phase stored and the work of Table 3.1 done; the arrival follows. -/
def Trunk.stocked (x : Ctx) (c : Nat) (place : List Byte) (ph : Phase) (t : Trunk) : Trunk :=
  ((t.hear c place).modify c (Circuit.storePhase ph)).modify c (Circuit.bridgeWork x.frame place)

theorem Trunk.stocked_circuit (hc : c < 256) (x : Ctx) (t : Trunk) :
    (t.stocked x c place ph).circuit c = (((t.circuit c).heard place).storePhase ph).bridgeWork x.frame place := by
  unfold Trunk.stocked
  rw [Trunk.circuit_modify_same _ _ hc, Trunk.circuit_modify_same _ _ hc, Trunk.hear_circuit hc]

theorem Trunk.stocked_only (x : Ctx) (c : Nat) (place : List Byte) (ph : Phase) (t : Trunk) :
    t.onlyRecord c (t.stocked x c place ph) :=
  ⟨((t.hear_sameOthers c).trans (Trunk.modify_sameOthers c _ _)).trans (Trunk.modify_sameOthers c _ _), ⟨rfl, rfl, rfl⟩, rfl, rfl⟩

theorem Trunk.afterCell_beforeSplice (hc : c < 256) (hs : (t.circuit c).state.beforeSplice = true) (hph : ph ≠ .release) (x : Ctx) :
    t.afterCell x c place ph = (t.stocked x c place ph).arrive x c := by
  have heard := Trunk.hear_circuit (place := place) hc t
  have react : (t.hear c place).react x c ph = t.hear c place := Trunk.react_beforeSplice (by rw [heard]; exact hs) hph
  have phased : (t.hear c place).phased x c ph = (t.hear c place).modify c (Circuit.storePhase ph) := Trunk.phased_eq react
  unfold Trunk.afterCell
  rw [phased, Trunk.workCell_beforeSplice]
  · rfl
  · rw [Trunk.circuit_modify_same _ _ hc, heard]
    exact hs

/-- After the first cell of a bridging Obase stays (R58). -/
theorem Circuit.bridgeWork_of_not_bridging {f : Word} (h : r.state ≠ .bridging) :
    r.bridgeWork f place = { r with
      ring := pushRing r.ring (f - ssnOf place)
      playout := r.written place
      align := { r.align with judging := judgingAfter f (ssnOf place) r.align.obase r.align.judging } } := by
  have obase : r.obaseAfter (f - ssnOf place) = r.align.obase := by
    unfold Circuit.obaseAfter
    cases r.align.obase with
    | some ob => rfl
    | none => exact if_neg h
  unfold Circuit.bridgeWork
  rw [obase]

/-- R12, R13, R51, R74: the arrivals that bring nothing. -/
theorem Trunk.arrive_unevaluated (h : (t.circuit c).state = .splicePending ∨
    ((t.circuit c).state = .aligned ∧ ((t.circuit c).ring.length ≠ 16 ∨ x.paused = true))) : t.arrive x c = t := by
  unfold Trunk.arrive
  rcases h with h | ⟨h, hring⟩ <;> rw [h]
  refine if_neg fun ⟨hfull, hpaused⟩ => ?_
  rcases hring with hring | hring
  · exact hring hfull
  · rw [hpaused] at hring
    cases hring

/-- Settles O22: where the phase leaves the circuit on fibre or HELD the work is done at the unchanged O′; before the splice
it is done at Obase, and what the arrival brings leaves the stores alone. -/
theorem deliveredCellsWorkByState : Obligations.DeliveredCellsWorkByState := by
  refine ⟨fun s p c place ph o hd ho hring h => ?_, fun s p c place ph o released idle hd ho h => ?_,
    fun s p c place ph hd hs hph => ?_⟩
  · have hon : (s.circuit c).state.onFibre = true ∨ (s.circuit c).state = .held := by
      rcases h with ⟨h | h, -⟩ | ⟨h, -⟩ | ⟨h, -⟩ <;> rw [h] <;> decide
    have hrel : ph ≠ .release := by
      rcases h with ⟨-, h⟩ | ⟨-, rfl | rfl⟩ | ⟨-, rfl⟩
      · exact h
      all_goals decide
    have stores : (s.circuit c).state.onlyStores ph := by
      rcases h with ⟨h | h, -⟩ | h | h
      · exact .inl h
      · exact .inr (.inl h)
      · exact .inr (.inr (.inl h))
      · exact .inr (.inr (.inr h))
    obtain ⟨r', only, own, worked, record, judged⟩ := deliveredCells_stored hd ho hring hon hrel stores
    have final : ({ s with trunk := s.trunk.afterCell s.ctx c place ph } : State).circuit c = r' := own
    rw [exec_bearerCell_afterCell hd]
    refine ⟨_, rfl, rfl, only, ?_⟩
    rw [final]
    refine ⟨record, fun hl => ?_, fun hl => ⟨(worked.written hl).1, fun ob hob hf hoff hflag => ?_, fun hj => ?_⟩, fun hl => ?_,
      fun h0 h472 => ?_⟩
    · obtain ⟨hplayout, hjudging, hcounters⟩ := worked.early hl
      exact ⟨hplayout, worked.align hjudging, hcounters⟩
    · refine worked.align (judged ?_ (Circuit.judges_of_fibre hf hoff hflag) hl ob hob)
      intro hheld
      rw [hheld] at hf
      cases hf
    · refine worked.align (worked.unjudged ?_)
      rcases hj with hj | hj | hj | hj
      · exact .inl (Circuit.judges_of_released hon (.inl hj))
      · exact .inl (Circuit.judges_of_released hon (.inr (.inl hj)))
      · exact .inl (Circuit.judges_of_released hon (.inr (.inr hj)))
      · exact .inr hj
    · exact worked.late hl
    · exact worked.inTime h0 h472
  · have hc : c < 256 := hd.2.1
    have heard := Trunk.hear_circuit (place := place) hc s.trunk
    obtain ⟨others, lists, kind, ripe, own⟩ := Trunk.react_returns (x := s.ctx) (t := s.trunk.hear c place) (c := c) (ph := ph)
      (released := released) (idle := idle) hc (by rw [heard]; exact h)
    rw [heard] at own
    obtain ⟨⟨wothers, wlists, -⟩, worked, -⟩ := Trunk.afterCell_worked (t := s.trunk) (place := place) (ph := ph) hc s.ctx
      (o := o) own (.inl rfl) ho
    rw [exec_bearerCell_afterCell hd]
    refine ⟨_, rfl, rfl, ((s.trunk.hear_sameOthers c).trans others).trans wothers, lists.trans wlists, ?_⟩
    have final : ({ s with trunk := s.trunk.afterCell s.ctx c place ph } : State).circuit c =
        (s.trunk.afterCell s.ctx c place ph).circuit c := rfl
    rw [final]
    generalize (s.trunk.afterCell s.ctx c place ph).circuit c = r' at worked
    refine ⟨worked.rest.trans ?_, fun hl => worked.early hl, fun hl => ⟨(worked.written hl).1, fun hj => ?_, worked.judged⟩,
      worked.late, worked.inTime⟩
    · have ripe' : r'.splice.ripe = ripe := by rw [worked.rest]; rfl
      have kind' : r'.lastReported = kind := by rw [worked.rest]; rfl
      rw [ripe', kind']
      rfl
    · refine worked.unjudged ?_
      rcases hj with rfl | hj | hj
      · exact .inl (Circuit.judges_of_released (.inl rfl) (.inr (.inr rfl)))
      · exact .inl (Circuit.judges_of_released (.inl rfl) (.inr (.inl hj)))
      · exact .inr hj
  · have hc : c < 256 := hd.2.1
    have after := Trunk.afterCell_beforeSplice (place := place) hc hs hph s.ctx (t := s.trunk)
    have stocked := Trunk.stocked_circuit (place := place) (ph := ph) hc s.ctx s.trunk
    obtain ⟨calendar, steered⟩ := Trunk.Steers.arrive s.ctx c (s.trunk.stocked s.ctx c place ph)
    have own := steered c
    rw [stocked] at own
    rw [exec_bearerCell_afterCell hd, after]
    refine ⟨_, rfl, rfl, calendar, ?_⟩
    have final : ({ s with trunk := (s.trunk.stocked s.ctx c place ph).arrive s.ctx c } : State).circuit c =
        ((s.trunk.stocked s.ctx c place ph).arrive s.ctx c).circuit c := rfl
    rw [final]
    obtain ⟨st, sp, timer, deferred, rel, kind, offset, idle, record⟩ := own
    refine ⟨?_, ?_, ?_, ?_, ?_⟩
    · rw [record]
      rfl
    · rw [record]
      exact Circuit.wroteCell_of_playout rfl
    · rintro ob (hob | ⟨hob, hbridging, rfl⟩)
      · have obase : ((s.circuit c).heard place |>.storePhase ph).obaseAfter (s.frame - ssnOf place) = some ob := by
          unfold Circuit.obaseAfter
          rw [show (((s.circuit c).heard place).storePhase ph).align.obase = some ob from hob]
        rw [record]
        exact ⟨obase, congrArg (fun v => judgingAfter s.frame (ssnOf place) v (s.circuit c).align.judging) obase⟩
      · have obase : ((s.circuit c).heard place |>.storePhase ph).obaseAfter (s.frame - ssnOf place) =
            some (s.frame - ssnOf place) := by
          unfold Circuit.obaseAfter
          rw [show (((s.circuit c).heard place).storePhase ph).align.obase = none from hob]
          exact if_pos hbridging
        rw [record]
        exact ⟨obase, congrArg (fun v => judgingAfter s.frame (ssnOf place) v (s.circuit c).align.judging) obase⟩
    · intro hob hbridging
      have obase : ((s.circuit c).heard place |>.storePhase ph).obaseAfter (s.frame - ssnOf place) = none := by
        unfold Circuit.obaseAfter
        rw [show (((s.circuit c).heard place).storePhase ph).align.obase = none from hob]
        exact if_neg hbridging
      rw [record]
      exact ⟨obase, congrArg (fun v => judgingAfter s.frame (ssnOf place) v (s.circuit c).align.judging) obase⟩
    · intro hidle
      have idle : (s.trunk.stocked s.ctx c place ph).arrive s.ctx c = s.trunk.stocked s.ctx c place ph :=
        Trunk.arrive_unevaluated (by rw [stocked]; exact hidle)
      rw [idle, stocked]
      have late := Circuit.bridgeWork_of_not_bridging (place := place) (f := s.ctx.frame)
        (r := ((s.circuit c).heard place).storePhase ph) (by
          show (s.circuit c).state ≠ .bridging
          rcases hidle with h | ⟨h, -⟩ <;> rw [h] <;> nofun)
      refine ⟨Trunk.stocked_only s.ctx c place ph s.trunk, ?_⟩
      exact late.trans (by rw [show (((s.trunk.circuit c).heard place).storePhase ph).bridgeWork s.ctx.frame place = _ from late]; rfl)

end Sys2Proof.Machine
end

section
/-! The rules of the fallback list unit: commits (R19, R22), splices (R77, R81, R82, R96), requests (R94, R95) and what a
serving does with the circuit at the head of the wait queue (R100, R101). -/

namespace Sys2Proof.Machine

variable {s : State} {t u v w : Trunk} {x : Ctx} {c : Nat} {r r' : Circuit} {b : Binding}

/-! ## Commits -/

/-- The record after its commit, with the last reported kind `l` (R19, R22). -/
def Circuit.committedAs (l : Option ReportKind) (r : Circuit) : Circuit :=
  { r.enter .committed with
    deferredRevert := false
    legacyReleased := r.legacyReleased || decide (r.peerPhase = some .committed)
    lastReported := l }

theorem Circuit.committedFrom_committedAs (l : Option ReportKind) (r : Circuit) : r.committedFrom (r.committedAs l) := rfl

/-- The trunk in which circuit `c` is committed, before the report and the legacy release. -/
def Trunk.committing (c : Nat) (t : Trunk) : Trunk :=
  (t.removeRecord c).modify c fun r => { r.enter .committed with deferredRevert := false }

theorem Trunk.commit_eq (x : Ctx) (c : Nat) (k : ReportKind) (d : Option Nat) (t : Trunk) :
    t.commit x c k d = ((t.committing c).report x c k none d .clear).legacyRelease x c := rfl

theorem Trunk.committing_circuit (hc : c < 256) (t : Trunk) :
    (t.committing c).circuit c = { (t.circuit c).enter .committed with deferredRevert := false } :=
  Trunk.circuit_modify_same _ _ hc

/-- What a commit leaves of the trunk (R19, R98). -/
structure Trunk.Committed (c : Nat) (t u : Trunk) : Prop where
  others : t.sameOthers c u
  fallback : u.fallback = withoutRecord c t.fallback
  waitQueue : u.waitQueue = t.waitQueue
  calendar : u.calendar = t.calendar
  circuit : ∃ l, u.circuit c = (t.circuit c).committedAs l

theorem Trunk.commit_committed (hc : c < 256) (x : Ctx) (k : ReportKind) (d : Option Nat) (t : Trunk) :
    t.Committed c (t.commit x c k d) := by
  have own := Trunk.committing_circuit hc t
  obtain ⟨rothers, rlists, l1, said⟩ := (t.committing c).report_frame x c k none d .clear
  rw [own] at said
  obtain ⟨lothers, llists⟩ := Trunk.legacyRelease_frame x hc ((t.committing c).report x c k none d .clear)
  obtain ⟨l2, released⟩ := Trunk.legacyRelease_record hc x ((t.committing c).report x c k none d .clear) (by rw [said]; rfl)
  rw [← Trunk.commit_eq] at lothers llists released
  obtain ⟨hfallback, hqueue, hcalendar⟩ := rlists.trans llists
  refine ⟨fun e he => ?_, hfallback.trans (t.removeRecord_fallback c), hqueue, hcalendar, l2, ?_⟩
  · rw [lothers e he, rothers e he]
    exact Trunk.circuit_modify_ne _ _ he
  · rw [released, said]
    unfold Circuit.committedAs
    have flag : ((t.circuit c).enter .committed).legacyReleased = (t.circuit c).legacyReleased := Bool.and_true _
    dsimp only
    rw [flag]
    rfl

/-! ## Reports that join the tail -/

/-- The reports that stand stay in front of those that are entered. -/
theorem Trunk.report_prefix (x : Ctx) (c : Nat) (k : ReportKind) (vr : Option ReportVariant) (d : Option Nat) (fl : SpliceFlags)
    (t : Trunk) : t.reports <+: (t.report x c k vr d fl).reports := by
  unfold Trunk.report
  split
  · exact List.prefix_rfl
  · split
    · exact List.prefix_rfl
    · split
      next h =>
        rw [Trunk.modify_reports]
        unfold Trunk.enterReport
        rw [if_pos h]
        exact List.prefix_append _ _
      next h =>
        unfold Trunk.enterReport
        rw [if_neg h]

theorem Trunk.legacyRelease_prefix (x : Ctx) (c : Nat) (t : Trunk) : t.reports <+: (t.legacyRelease x c).reports := by
  unfold Trunk.legacyRelease
  dsimp only
  split
  · exact Trunk.report_prefix x c _ _ _ _ (t.modify c _)
  · exact List.prefix_rfl

/-- R22: the report of a legacy release, where one is made. -/
theorem Trunk.legacyRelease_reports (x : Ctx) (hc : c < 256) (hb : (t.circuit c).binding = some b)
    (hs : (t.circuit c).state = .committed) (hl : (t.circuit c).lastReported ≠ some .legacyReleased)
    (hroom : t.reports.length < 64) :
    (t.legacyRelease x c).reports = t.reports ++
      if (t.circuit c).peerPhase = some .committed ∧ (t.circuit c).legacyReleased = false then
        [aboutCircuit x.cycles c b .legacyReleased none none ⟨false, false, false⟩] else [] := by
  unfold Trunk.legacyRelease
  dsimp only
  split
  next h =>
    have own := Trunk.circuit_modify_same t (fun r => { r with legacyReleased := true }) hc
    obtain ⟨entered, -⟩ := (t.modify c fun r => { r with legacyReleased := true }).report_passes x (k := .legacyReleased) none
      none .clear hc (by rw [own]; exact hb) (by rw [own]; exact hl)
    rw [if_pos h.2]
    exact (entered.1 hroom).1
  next h => rw [if_neg fun g => h ⟨hs, g⟩, List.append_nil]

/-- The reports of a commit, where the queue has room for them (R19, R22). -/
theorem Trunk.commit_reports (x : Ctx) (k : ReportKind) (d : Option Nat) (hc : c < 256) (hb : (t.circuit c).binding = some b)
    (hk : k ≠ .legacyReleased) (hroom : t.reports.length < 63) :
    (t.commit x c k d).reports = t.reports ++ [aboutCircuit x.cycles c b k none d ⟨false, false, false⟩] ++
      if (t.circuit c).peerPhase = some .committed ∧ (t.circuit c).legacyReleased = false then
        [aboutCircuit x.cycles c b .legacyReleased none none ⟨false, false, false⟩] else [] := by
  have own := Trunk.committing_circuit hc t
  obtain ⟨entered, -, -, said⟩ := (t.committing c).report_of_entry x (k := k) none d .clear hc (by rw [own]; exact hb)
    (by rw [own]; rfl)
  rw [own] at said
  have first := (entered.1 (show t.reports.length < 64 by omega)).1
  have reports : (t.committing c).reports = t.reports := rfl
  rw [reports] at first
  have kind : Trunk.kindAfter k (t.committing c) = some k := if_pos (show t.reports.length < 64 by omega)
  rw [Trunk.commit_eq, Trunk.legacyRelease_reports (b := b) x hc (by rw [said]; exact hb) (by rw [said]; rfl), first, said]
  · have flag : ((t.circuit c).enter .committed).legacyReleased = (t.circuit c).legacyReleased := Bool.and_true _
    dsimp only
    rw [flag]
    rfl
  · rw [said, kind]
    exact fun h => hk (Option.some.inj h)
  · rw [first, List.length_append]
    exact Nat.add_lt_add_right hroom 1

/-- The report of a commit stands first behind those before it (R153). -/
theorem Trunk.commit_reports_first (x : Ctx) (k : ReportKind) (d : Option Nat) (hc : c < 256) (hb : (t.circuit c).binding = some b)
    (hroom : t.reports.length < 64) :
    t.reports ++ [aboutCircuit x.cycles c b k none d ⟨false, false, false⟩] <+: (t.commit x c k d).reports := by
  have own := Trunk.committing_circuit hc t
  obtain ⟨entered, -⟩ := (t.committing c).report_of_entry x (k := k) none d .clear hc (by rw [own]; exact hb) (by rw [own]; rfl)
  have first : ((t.committing c).report x c k none d .clear).reports =
      t.reports ++ [aboutCircuit x.cycles c b k none d ⟨false, false, false⟩] := (entered.1 hroom).1
  rw [Trunk.commit_eq, ← first]
  exact Trunk.legacyRelease_prefix x c _

/-! ## Splices -/

theorem Circuit.spliced_of_offset {o : Word} (h : r.align.offset = some o) (x : Ctx) (k : SpliceKind) (d : Nat) (gap : Bool) :
    r.spliced x k d gap = r.spliceAt (x.frame + 1) k o d gap := by
  unfold Circuit.spliced
  rw [h]

theorem Circuit.spliced_of_noOffset (h : r.align.offset = none) (x : Ctx) (k : SpliceKind) (d : Nat) (gap : Bool) :
    r.spliced x k d gap = r.spliceBlind x.settings.params.guard k := by
  unfold Circuit.spliced
  rw [h]

theorem Circuit.spliced_entered (x : Ctx) (k : SpliceKind) (d : Nat) (gap : Bool) (r : Circuit) :
    (r.spliced x k d gap).lastReported = none ∧ (r.spliced x k d gap).binding = r.binding ∧
      (r.spliced x k d gap).state = .spliced := by
  unfold Circuit.spliced
  split
  · exact ⟨rfl, rfl, rfl⟩
  · exact ⟨rfl, rfl, rfl⟩

/-- What a splice leaves of the trunk, with its report (R82, R96). -/
structure Trunk.Spliced (x : Ctx) (c : Nat) (b : Binding) (k : SpliceKind) (d : Nat) (gap : Bool) (t u : Trunk) : Prop where
  others : t.sameOthers c u
  fallback : u.fallback = (t.recordLive x c).fallback
  waitQueue : u.waitQueue = t.waitQueue
  calendar : u.calendar = t.calendar
  circuit : u.circuit c = { (t.circuit c).spliced x k d gap with lastReported := Trunk.kindAfter .spliced t }
  entered : t.entered (aboutCircuit x.cycles c b .spliced (some (.splice k)) ((t.circuit c).spliced x k d gap).splice.deficit
    ((t.circuit c).spliced x k d gap).splice.flags) u

theorem Trunk.recordLive_fallback_modify (x : Ctx) (c : Nat) (f : Circuit → Circuit) (t : Trunk) :
    ((t.modify c f).recordLive x c).fallback = (t.recordLive x c).fallback := by
  unfold Trunk.recordLive
  rw [show (t.modify c f).recordOf c = t.recordOf c from rfl]
  split
  · rfl
  · unfold Trunk.appendRecord
    rw [show (t.modify c f).hasRoom = t.hasRoom from rfl]
    split <;> rfl

theorem Trunk.splice_spliced (x : Ctx) (k : SpliceKind) (d : Nat) (gap : Bool) (hc : c < 256)
    (hb : (t.circuit c).binding = some b) : t.Spliced x c b k d gap (t.splice x c k d gap) := by
  have own : ((t.modify c (Circuit.spliced x k d gap)).recordLive x c).circuit c = (t.circuit c).spliced x k d gap := by
    rw [Trunk.circuit_recordLive, Trunk.circuit_modify_same _ _ hc]
  have spliced : t.splice x c k d gap = ((t.modify c (Circuit.spliced x k d gap)).recordLive x c).report x c .spliced
      (some (.splice k)) ((t.circuit c).spliced x k d gap).splice.deficit ((t.circuit c).spliced x k d gap).splice.flags := by
    rw [← own]
    rfl
  obtain ⟨hlast, hbinding, -⟩ := (t.circuit c).spliced_entered x k d gap
  obtain ⟨entered, lists, others, said⟩ := ((t.modify c (Circuit.spliced x k d gap)).recordLive x c).report_of_entry x
    (k := .spliced) (some (.splice k)) ((t.circuit c).spliced x k d gap).splice.deficit
    ((t.circuit c).spliced x k d gap).splice.flags hc (by rw [own, hbinding]; exact hb) (by rw [own]; exact hlast)
  have reports := Trunk.recordLive_reports x c (t.modify c (Circuit.spliced x k d gap))
  rw [← spliced] at entered lists others said
  refine ⟨fun e he => ?_, lists.1.trans (Trunk.recordLive_fallback_modify x c _ t), lists.2.1.trans (Trunk.recordLive_waitQueue x c _),
    lists.2.2.trans (Trunk.recordLive_calendar x c _), ?_,
    entered.of_reports reports (Trunk.recordLive_reportOverflow x c _)⟩
  · rw [others e he, Trunk.circuit_recordLive]
    exact Trunk.circuit_modify_ne _ _ he
  · rw [said, own, Trunk.kindAfter_of_reports (reports.trans (Trunk.modify_reports c _ t))]

/-- R96: a circuit without a record gets a LIVE one at the tail. -/
theorem Trunk.recordLive_fallback_of_none (h : t.recordOf c = none) (hroom : t.fallback.length < 8) (x : Ctx) :
    (t.recordLive x c).fallback = t.fallback ++ [x.liveRecord c] := by
  unfold Trunk.recordLive Trunk.appendRecord Trunk.hasRoom
  rw [h]
  dsimp only
  rw [if_pos (decide_eq_true (show t.fallback.length < Config.fallbackRecords from hroom))]
  rfl

/-- The list in which the records of circuit `c` have become LIVE in their places. -/
def madeLive (x : Ctx) (c : Nat) (fs : List FallbackRecord) : List FallbackRecord :=
  fs.map fun f => if f.circuit = c then { f with live := some (LiveFields.now x) } else f

theorem Trunk.recordLive_fallback_of_some {f : FallbackRecord} (h : t.recordOf c = some f) (x : Ctx) :
    (t.recordLive x c).fallback = madeLive x c t.fallback := by
  unfold Trunk.recordLive
  rw [h]
  rfl

theorem madeLive_circuits (x : Ctx) (c : Nat) (fs : List FallbackRecord) :
    (madeLive x c fs).map FallbackRecord.circuit = fs.map FallbackRecord.circuit := by
  unfold madeLive
  rw [List.map_map]
  refine List.map_congr_left fun f _ => ?_
  show (if f.circuit = c then ({ f with live := some (LiveFields.now x) } : FallbackRecord) else f).circuit = f.circuit
  split <;> rfl

theorem mem_madeLive_of_ne {f : FallbackRecord} {fs : List FallbackRecord} (hf : f ∈ fs) (hc : f.circuit ≠ c) (x : Ctx) :
    f ∈ madeLive x c fs := List.mem_map.mpr ⟨f, hf, if_neg hc⟩

/-- The record of a circuit in a list whose records are changed one by one, each keeping its circuit. -/
theorem find?_record_map {g : FallbackRecord → FallbackRecord} (hg : ∀ f, (g f).circuit = f.circuit) (c : Nat)
    (fs : List FallbackRecord) :
    (fs.map g).find? (fun f => decide (f.circuit = c)) = (fs.find? (fun f => decide (f.circuit = c))).map g := by
  rw [List.find?_map]
  congr 1
  refine congrArg (List.find? · fs) (funext fun f => ?_)
  show decide ((g f).circuit = c) = _
  rw [hg]

/-- The LIVE fields that circuit `c`'s record has after it became LIVE. -/
theorem Trunk.liveOf_madeLive {f : FallbackRecord} (h : t.recordOf c = some f) (hu : u.fallback = madeLive x c t.fallback) :
    u.liveOf c = some (LiveFields.now x) := by
  have own : f.circuit = c := by
    have := List.find?_some h
    simpa using this
  have found : u.recordOf c = some { f with live := some (LiveFields.now x) } := by
    unfold Trunk.recordOf
    rw [hu]
    unfold madeLive
    rw [find?_record_map (fun f => by split <;> rfl)]
    rw [show t.fallback.find? (fun f => decide (f.circuit = c)) = some f from h, Option.map_some, if_pos own]
  unfold Trunk.liveOf
  rw [found]

theorem Trunk.liveOf_liveRecord {fs : List FallbackRecord} (hfs : ∀ f ∈ fs, f.circuit ≠ c) (hu : u.fallback = fs ++ [x.liveRecord c]) :
    u.liveOf c = some (LiveFields.now x) := by
  have none : fs.find? (fun f => decide (f.circuit = c)) = none := by simpa using hfs
  unfold Trunk.liveOf Trunk.recordOf
  rw [hu, List.find?_append, none]
  have own : (x.liveRecord c).circuit = c := rfl
  simp [own]
  rfl

/-! ## The other grants -/

/-- What a PENDING grant leaves: SPLICE_WAIT with D, and the record at the tail (R13, R94). -/
structure Trunk.Waits (c d : Nat) (t u : Trunk) : Prop where
  others : t.sameOthers c u
  fallback : u.fallback = t.fallback ++ [⟨c, none⟩]
  waitQueue : u.waitQueue = t.waitQueue
  calendar : u.calendar = t.calendar
  reports : t.sameReports u
  circuit : u.circuit c =
    { (t.circuit c).enter .spliceWait with splice := { ((t.circuit c).enter .spliceWait).splice with deficit := some d } }

theorem Trunk.addPending_of_room (hroom : t.fallback.length < 8) (c : Nat) :
    t.addPending c = { t with fallback := t.fallback ++ [⟨c, none⟩] } :=
  if_pos (decide_eq_true (show t.fallback.length < Config.fallbackRecords from hroom))

theorem Trunk.toSpliceWait_waits (hc : c < 256) (d : Nat) (hroom : t.fallback.length < 8) : t.Waits c d (t.toSpliceWait c d) := by
  unfold Trunk.toSpliceWait
  rw [Trunk.addPending_of_room hroom]
  exact ⟨fun e he => Trunk.circuit_modify_ne _ _ he, rfl, rfl, rfl, ⟨rfl, rfl⟩, Trunk.circuit_modify_same _ _ hc⟩

/-- What a deficit above Dmax leaves: ALIGNED without D, and the report (R13, R75, R100). -/
structure Trunk.Exceeded (x : Ctx) (c : Nat) (b : Binding) (d : Nat) (t u : Trunk) : Prop where
  others : t.sameOthers c u
  lists : t.sameLists u
  circuit : u.circuit c = { (t.circuit c).enter .aligned with
    splice := { ((t.circuit c).enter .aligned).splice with deficit := none }
    lastReported := Trunk.kindAfter .delayExcess t }
  entered : t.entered (aboutCircuit x.cycles c b .delayExcess none (some d) ⟨false, false, false⟩) u

theorem Trunk.delayExcess_exceeded (x : Ctx) (d : Nat) (hc : c < 256) (hb : (t.circuit c).binding = some b) :
    t.Exceeded x c b d (t.delayExcess x c d) := by
  have own := Trunk.circuit_modify_same t
    (fun r => let e := r.enter .aligned; { e with splice := { e.splice with deficit := none } }) hc
  obtain ⟨entered, lists, others, said⟩ :=
    (t.modify c fun r => let e := r.enter .aligned; { e with splice := { e.splice with deficit := none } }).report_of_entry x
      (k := .delayExcess) none (some d) .clear hc (by rw [own]; exact hb) (by rw [own]; rfl)
  refine ⟨(Trunk.modify_sameOthers c _ t).trans others, lists, said.trans ?_, entered⟩
  rw [own]
  rfl

/-! ## Requests -/

theorem Trunk.request_of_queue (h : t.waitQueue ≠ []) (x : Ctx) (c : Nat) : t.request x c = none := by
  unfold Trunk.request
  exact if_pos (by simpa using h)

theorem Trunk.request_of_room (h : t.waitQueue = []) (hroom : t.fallback.length < 8) (x : Ctx) (c : Nat) :
    t.request x c = some t := by
  unfold Trunk.request
  rw [if_neg (by rw [h]; decide)]
  exact if_pos (decide_eq_true hroom)

theorem Trunk.oldestLive_eq_none : t.oldestLive = none ↔ ∀ f ∈ t.fallback, f.live = none := by
  simp [Trunk.oldestLive]

theorem Trunk.oldestLive_of_split {before after : List FallbackRecord} {f : FallbackRecord}
    (hsplit : t.fallback = before ++ f :: after) (hbefore : ∀ g ∈ before, g.live = none) (hf : f.live ≠ none) :
    t.oldestLive = some f.circuit := by
  have none : before.find? (fun f => f.live.isSome) = none := by simpa using hbefore
  unfold Trunk.oldestLive
  rw [hsplit, List.find?_append, none]
  simp [Option.isSome_iff_ne_none.mpr hf]

theorem Trunk.hasRoom_of_full (h : 8 ≤ t.fallback.length) : t.hasRoom = false :=
  decide_eq_false (show ¬ t.fallback.length < Config.fallbackRecords from Nat.not_lt.mpr h)

theorem Trunk.hasRoom_of_room (h : t.fallback.length < 8) : t.hasRoom = true := decide_eq_true h

/-- R94: without room only ROLL with a LIVE record in the list grants a request. -/
theorem Trunk.request_of_refused (hfull : 8 ≤ t.fallback.length)
    (h : x.settings.policy = .hold ∨ ∀ f ∈ t.fallback, f.live = none) (c : Nat) : t.request x c = none := by
  unfold Trunk.request
  split
  · rfl
  · rw [if_neg (by rw [Trunk.hasRoom_of_full hfull]; decide)]
    rcases h with h | h
    · rw [h]
    · rw [Trunk.oldestLive_eq_none.mpr h]
      split
      next hv => cases hv
      next => rfl

theorem Trunk.request_of_roll (h : t.waitQueue = []) (hfull : 8 ≤ t.fallback.length) (hroll : x.settings.policy = .roll)
    {o : Nat} (ho : t.oldestLive = some o) (c : Nat) : t.request x c = some (t.forcedCommit x o c) := by
  unfold Trunk.request
  rw [if_neg (by rw [h]; decide), if_neg (by rw [Trunk.hasRoom_of_full hfull]; decide), hroll, ho]

/-- The list has room for one more once the record of a circuit in it is gone. -/
theorem withoutRecord_length_lt {f : FallbackRecord} {fs : List FallbackRecord} (hf : f ∈ fs) :
    (withoutRecord f.circuit fs).length < fs.length :=
  List.length_filter_lt_length_iff_exists.mpr ⟨f, hf, by simp⟩

theorem withoutRecord_recordOf (h : t.recordOf c = none) {d : Nat} (hu : u.fallback = withoutRecord d t.fallback) :
    u.recordOf c = none := by
  rw [Trunk.recordOf_eq_none] at h ⊢
  rw [hu]
  exact fun f hf => h f (List.mem_of_mem_filter hf)

/-! ## Servings -/

theorem Trunk.rollServes_eq_false (h : x.settings.policy = .hold ∨ x.paused = true ∨ t.waitQueue = [] ∨ t.fallback.length < 8) :
    t.rollServes x = false := by
  unfold Trunk.rollServes
  rcases h with h | h | h | h
  · rw [h]
    rfl
  · rw [h, Bool.not_true, Bool.and_false]
    rfl
  · rw [h, List.isEmpty_nil, Bool.not_true, Bool.and_false]
    rfl
  · rw [Trunk.hasRoom_of_room h, Bool.not_true, Bool.and_false]

theorem Trunk.rollServes_of_full (hroll : x.settings.policy = .roll) (hp : x.paused = false) (hq : t.waitQueue ≠ [])
    (hfull : 8 ≤ t.fallback.length) : t.rollServes x = true := by
  unfold Trunk.rollServes
  rw [hroll, hp, Trunk.hasRoom_of_full hfull, List.isEmpty_eq_false_iff.mpr hq]
  rfl

theorem Trunk.serveLive_of_not (h : t.rollServes x = false) : t.serveLive x = t := if_neg (by rw [h]; decide)

theorem Trunk.serve_of_full (h : 8 ≤ t.fallback.length) (x : Ctx) : t.serve x = t := by
  unfold Trunk.serve
  cases t.waitQueue.length with
  | zero => rfl
  | succ n =>
    unfold Trunk.serveRoom
    split
    · rfl
    · exact if_neg (by rw [Trunk.hasRoom_of_full h, Bool.false_and]; decide)

/-- The trunk with the head of the wait queue taken off it (R99). -/
def Trunk.dequeued (rest : List Nat) (t : Trunk) : Trunk := { t with waitQueue := rest }

/-- R100: a head above Dmax goes back to ALIGNED, and the serving goes on behind it. -/
theorem Trunk.serve_of_excess {h d : Nat} {rest : List Nat} (hp : x.paused = false) (hq : t.waitQueue = h :: rest)
    (hroom : t.fallback.length < 8) (hd : (t.circuit h).deficitNow x.settings.params = some d) (hx : x.settings.params.dmax < d) :
    t.serve x = ((t.dequeued rest).delayExcess x h d).serve x := by
  have queue : ((t.dequeued rest).delayExcess x h d).waitQueue = rest :=
    ((t.dequeued rest).modify h _).report_frame x h _ _ _ _ |>.2.1.2.1
  have known : (({ t with waitQueue := rest } : Trunk).circuit h).deficitNow x.settings.params = some d := hd
  unfold Trunk.serve
  rw [hq, queue, List.length_cons]
  conv_lhs => unfold Trunk.serveRoom
  rw [hq]
  dsimp only
  rw [if_pos (by rw [Trunk.hasRoom_of_room hroom, hp]; rfl), known]
  exact if_pos hx

/-- R100: a head within Dmax is granted its record; a record that becomes LIVE and fills the list under ROLL serves on. -/
theorem Trunk.serve_of_grant {h d : Nat} {rest : List Nat} (hp : x.paused = false) (hq : t.waitQueue = h :: rest)
    (hroom : t.fallback.length < 8) (hd : (t.circuit h).deficitNow x.settings.params = some d) (hx : d ≤ x.settings.params.dmax)
    (hu : (t.dequeued rest).grant x h d = u) (hqu : u.waitQueue = rest) :
    t.serve x = if d = 0 ∧ u.rollServes x = true then u.serveLive x else u.serve x := by
  have known : (({ t with waitQueue := rest } : Trunk).circuit h).deficitNow x.settings.params = some d := hd
  have granted : ({ t with waitQueue := rest } : Trunk).grant x h d = u := hu
  unfold Trunk.serve Trunk.serveLive
  rw [hq, hqu, List.length_cons]
  conv_lhs => unfold Trunk.serveRoom
  rw [hq]
  dsimp only
  rw [if_pos (by rw [Trunk.hasRoom_of_room hroom, hp]; rfl), known]
  dsimp only
  rw [if_neg (Nat.not_lt.mpr hx), granted]
  by_cases hlive : d = 0 ∧ u.rollServes x = true
  · rw [if_pos hlive, if_pos hlive.2, if_pos (by rw [hlive.1, hlive.2]; rfl)]
  · rw [if_neg hlive, if_neg]
    rw [Bool.and_eq_true, decide_eq_true_eq]
    exact hlive

/-- R101: a head above Dmax goes back to ALIGNED, and the serving under ROLL goes on behind it. -/
theorem Trunk.serveLive_of_excess {h d o : Nat} {rest : List Nat} (hroll : x.settings.policy = .roll) (hp : x.paused = false)
    (hq : t.waitQueue = h :: rest) (hfull : 8 ≤ t.fallback.length) (ho : t.oldestLive = some o)
    (hd : (t.circuit h).deficitNow x.settings.params = some d) (hx : x.settings.params.dmax < d) :
    t.serveLive x = ((t.dequeued rest).delayExcess x h d).serveLive x := by
  obtain ⟨hfallback, queue, -⟩ : t.dequeued rest |>.sameLists ((t.dequeued rest).delayExcess x h d) :=
    ((t.dequeued rest).modify h _).report_frame x h _ _ _ _ |>.2.1
  have queue : ((t.dequeued rest).delayExcess x h d).waitQueue = rest := queue
  have known : (({ t with waitQueue := rest } : Trunk).circuit h).deficitNow x.settings.params = some d := hd
  have first : t.serveLive x = Trunk.serveRoll x rest.length ((t.dequeued rest).delayExcess x h d) := by
    unfold Trunk.serveLive
    rw [if_pos (Trunk.rollServes_of_full hroll hp (by rw [hq]; nofun) hfull), hq, List.length_cons]
    conv_lhs => unfold Trunk.serveRoll
    rw [hq, ho]
    dsimp only
    rw [known]
    exact if_pos hx
  rw [first]
  unfold Trunk.serveLive
  split
  · rw [queue]
  next hnot =>
    have empty : rest = [] := by
      by_contra hne
      exact hnot (Trunk.rollServes_of_full hroll hp (by rw [queue]; exact hne) (by rw [hfallback]; exact hfull))
    rw [empty]
    rfl

/-- R101: a head within Dmax is granted a record by a forced commit; with D of 0 its record starts a further serving. -/
theorem Trunk.serveLive_of_grant {h d o : Nat} {rest : List Nat} (hroll : x.settings.policy = .roll) (hp : x.paused = false)
    (hq : t.waitQueue = h :: rest) (hfull : 8 ≤ t.fallback.length) (ho : t.oldestLive = some o)
    (hd : (t.circuit h).deficitNow x.settings.params = some d) (hx : d ≤ x.settings.params.dmax)
    (hu : ((t.dequeued rest).forcedCommit x o h).grant x h d = u) (hqu : u.waitQueue = rest) :
    t.serveLive x = if d = 0 then u.serveLive x else u := by
  have known : (({ t with waitQueue := rest } : Trunk).circuit h).deficitNow x.settings.params = some d := hd
  have granted : (({ t with waitQueue := rest } : Trunk).forcedCommit x o h).grant x h d = u := hu
  conv_lhs => unfold Trunk.serveLive
  rw [if_pos (Trunk.rollServes_of_full hroll hp (by rw [hq]; nofun) hfull), hq, List.length_cons]
  conv_lhs => unfold Trunk.serveRoll
  rw [hq, ho]
  dsimp only
  rw [known]
  dsimp only
  rw [if_neg (Nat.not_lt.mpr hx), granted]
  by_cases hz : d = 0
  · rw [if_pos hz]
    unfold Trunk.serveLive
    rw [hqu, hz]
    cases u.rollServes x <;> rfl
  · rw [if_neg hz, if_neg]
    rw [decide_eq_false hz, Bool.false_and]
    decide

end Sys2Proof.Machine
end

section
/-! R14, R15, R18 to R23, R97: the expiries of a circuit. -/

namespace Sys2Proof.Machine

variable {s u : State} {t : Trunk} {x : Ctx} {c : Nat} {r r' : Circuit} {b : Binding}

/-- A change of the trunk that changes nothing leaves the station. -/
theorem State.onTrunk_eq_self {f : Ctx → Trunk → Trunk} (h : f s.ctx s.trunk = s.trunk) : s.onTrunk f = s := by
  unfold State.onTrunk
  rw [h]

/-! ## The watchdogs before the splice -/

/-- An abandon with its report leaves what `backOnCopper` says of the record. -/
theorem Circuit.backOnCopper_of_toCopper {l : Option ReportKind} (h : r' = { r.toCopper with lastReported := l }) :
    r.backOnCopper r' ∧ r'.splice.lastKind = r.splice.lastKind ∧ r'.splice.flags = r.splice.flags ∧ r'.lastReported = l := by
  subst h
  exact ⟨r.backOnCopper_toCopper.reported l, rfl, rfl, rfl⟩

theorem Trunk.alignmentTimeout_of_due (hs : (t.circuit c).state = .bridging) (ht : (t.circuit c).stateTimer = 0) (x : Ctx) :
    t.alignmentTimeout x c = t.abandonWith x c (some .alignTimeout) := if_pos ⟨hs, ht⟩

theorem Trunk.alignmentTimeout_of_not (h : (t.circuit c).state ≠ .bridging ∨ (t.circuit c).stateTimer ≠ 0) (x : Ctx) :
    t.alignmentTimeout x c = t := if_neg fun ⟨hs, ht⟩ => h.elim (· hs) (· ht)

theorem Trunk.bridgeIdle_of_due (hs : (t.circuit c).state.beforeSplice = true) (hx : x.counted = true)
    (hi : x.settings.params.bridgeIdle ≤ (t.circuit c).silence) : t.bridgeIdle x c = t.abandonWith x c (some .bridgeIdle) :=
  if_pos ⟨hs, hx, hi⟩

theorem Trunk.bridgeIdle_of_not (h : (t.circuit c).state.beforeSplice = false ∨ x.counted = false ∨
    (t.circuit c).silence < x.settings.params.bridgeIdle) : t.bridgeIdle x c = t := by
  refine if_neg fun ⟨hs, hx, hi⟩ => ?_
  rcases h with h | h | h
  · rw [hs] at h
    cases h
  · rw [hx] at h
    cases h
  · exact absurd hi (Nat.not_le.mpr h)

/-- The two watchdogs that abandon, with the report of each (R14, R15). -/
theorem exec_abandons {i : Instr} {k : ReportKind} (hu : u = s.settleBoundary)
    (h : (i = .alignmentTimeout c ∧ k = .alignTimeout ∧ (u.circuit c).state = .bridging ∧ (u.circuit c).stateTimer = 0) ∨
      (i = .bridgeIdleWatchdog c ∧ k = .bridgeIdle ∧ (u.circuit c).state.beforeSplice = true ∧ u.ctx.counted = true ∧
        u.settings.params.bridgeIdle ≤ (u.circuit c).silence)) :
    exec i s = .next { u with trunk := u.trunk.abandonWith u.ctx c (some k) } := by
  subst hu
  rcases h with ⟨rfl, rfl, hs, ht⟩ | ⟨rfl, rfl, hs, hx, hi⟩
  · rw [← Trunk.alignmentTimeout_of_due hs ht]
    rfl
  · rw [← Trunk.bridgeIdle_of_due hs hx hi]
    rfl

/-- Settles O31: each watchdog that is due abandons with its report; one that is not due leaves the trunk. -/
theorem expiriesAbandon : Obligations.ExpiriesAbandon := by
  refine ⟨?_, ?_⟩
  · intro s c b i k u hc hb hserve h
    obtain ⟨abandoned, own, entered⟩ := Trunk.abandonWith_reported hserve.trunk k hc hb
    obtain ⟨back, kind, flags, last⟩ := Circuit.backOnCopper_of_toCopper own
    exact ⟨_, exec_abandons rfl h, rfl, abandoned.others, back, kind, flags, last, abandoned.fallback, abandoned.waitQueue,
      abandoned.calendar, entered⟩
  · intro s c u
    exact ⟨fun h => congrArg Host.Outcome.next (State.onTrunk_eq_self (Trunk.alignmentTimeout_of_not h u.ctx)),
      fun h => congrArg Host.Outcome.next (State.onTrunk_eq_self (Trunk.bridgeIdle_of_not h))⟩

/-! ## Stream loss and the peer hold -/

theorem Trunk.streamLoss_of_not (h : x.counted = false ∨ (t.circuit c).silence < x.settings.params.streamLoss) :
    t.streamLoss x c = t := by
  refine if_neg fun ⟨hx, hi⟩ => ?_
  rcases h with h | h
  · rw [hx] at h
    cases h
  · exact absurd hi (Nat.not_le.mpr h)

theorem Trunk.streamLoss_of_offFibre (h : (t.circuit c).state.onFibre = false) : t.streamLoss x c = t := by
  unfold Trunk.streamLoss
  dsimp only
  split
  · cases hs : (t.circuit c).state <;> rw [hs] at h
    case spliced | revertWait | committed => cases h
  · rfl

theorem Trunk.streamLoss_reverses (hs : (t.circuit c).state = .spliced ∨ (t.circuit c).state = .revertWait)
    (hx : x.counted = true) (hi : x.settings.params.streamLoss ≤ (t.circuit c).silence) :
    t.streamLoss x c = t.reverseSplice x c .urgent := by
  unfold Trunk.streamLoss
  dsimp only
  rw [if_pos ⟨hx, hi⟩]
  rcases hs with h | h <;> rw [h]

theorem Trunk.streamLoss_holds (hs : (t.circuit c).state = .committed) (hx : x.counted = true)
    (hi : x.settings.params.streamLoss ≤ (t.circuit c).silence) : t.streamLoss x c = t.hold x c := by
  unfold Trunk.streamLoss
  dsimp only
  rw [if_pos ⟨hx, hi⟩, hs]

theorem Trunk.peerHoldExpiry_of_due (hs : (t.circuit c).state = .held) (ht : (t.circuit c).stateTimer = 0) :
    t.peerHoldExpiry x c = t.goDown x c := if_pos ⟨hs, ht⟩

theorem Trunk.peerHoldExpiry_of_not (h : (t.circuit c).state ≠ .held ∨ (t.circuit c).stateTimer ≠ 0) :
    t.peerHoldExpiry x c = t := if_neg fun ⟨hs, ht⟩ => h.elim (· hs) (· ht)

/-- A reverse splice with its report leaves what `backOnCopper` says of the record. -/
theorem Circuit.backOnCopper_of_reversed {k : ReverseKind} {fl : SpliceFlags} {l : Option ReportKind}
    (h : r' = { (r.markReverse k fl).toCopper with lastReported := l }) :
    r.backOnCopper r' ∧ r'.splice.lastKind = some (.reverse k) ∧ r'.splice.flags = fl ∧ r'.splice.fill = none ∧
      r'.splice.switchPoint = true := by
  subst h
  exact ⟨(r.backOnCopper_reversed k fl).reported l, rfl, rfl, rfl, rfl⟩

/-- The flag of a circuit that is committed and enters HELD, or held and enters DOWN, stays (R22). -/
theorem Circuit.enter_keepsRelease {st : CircuitState} (h : st.keepsRelease = true) (r : Circuit) :
    (r.enter st).legacyReleased = r.legacyReleased := by
  show (r.legacyReleased && st.keepsRelease) = _
  rw [h, Bool.and_true]

theorem Circuit.toHeld_eq (p : Params) (r : Circuit) (l : Option ReportKind) :
    ({ r.toHeld p with lastReported := l } : Circuit) = { r with
      state := .held
      stateTimer := p.peerHold
      align := { r.align with idleQualify := 0, judging := [] }
      splice := { r.splice with fill := none, ripe := false }
      lastReported := l } := by
  have flag : (r.toHeld p).legacyReleased = r.legacyReleased := Circuit.enter_keepsRelease (st := .held) rfl r
  exact congrArg (fun v => { r.toHeld p with legacyReleased := v, lastReported := l }) flag

theorem Circuit.toDown_eq (r : Circuit) (l : Option ReportKind) :
    ({ ({ r with calendarRow := none } : Circuit).toDown with lastReported := l } : Circuit) = { r with
      state := .down
      calendarRow := none
      stateTimer := 0
      guard := none
      ring := []
      align := { r.align with obase := none, offset := none, idleQualify := 0, judging := [] }
      splice := { r.splice with playOffset := none, deficit := none, fill := none, ripe := false, guardOff := true }
      lastReported := l } := by
  have flag : ({ r with calendarRow := none } : Circuit).toDown.legacyReleased = r.legacyReleased :=
    Circuit.enter_keepsRelease (st := .down) rfl { r with calendarRow := none }
  exact congrArg (fun v => { ({ r with calendarRow := none } : Circuit).toDown with legacyReleased := v, lastReported := l }) flag

/-- Settles O32: stream loss is the URGENT reverse splice or the entry to HELD, the expiry of the peer hold the entry to DOWN,
each with its report. -/
theorem streamLossThenPeerHold : Obligations.StreamLossThenPeerHold := by
  refine ⟨?_, ?_, ?_⟩
  · intro s c b u hc hb hx hi
    refine ⟨fun hs hserve => ?_, fun hs => ?_, fun hs => ?_⟩
    · obtain ⟨reversed, own, entered⟩ := Trunk.reverseSplice_reported hserve.trunk .urgent hc hb
      rw [← Trunk.streamLoss_reverses hs hx hi] at reversed own entered
      obtain ⟨back, kind, flags, fill, switch⟩ := Circuit.backOnCopper_of_reversed own
      exact ⟨_, rfl, rfl, reversed.others, back, kind, flags, fill, switch, reversed.fallback, reversed.waitQueue,
        reversed.calendar, entered⟩
    · obtain ⟨others, lists, own, entered⟩ := Trunk.hold_reported hc hb u.ctx
      rw [← Trunk.streamLoss_holds hs hx hi] at others lists own entered
      exact ⟨_, rfl, rfl, others, lists, own.trans (Circuit.toHeld_eq _ _ _), entered⟩
    · exact congrArg Host.Outcome.next (State.onTrunk_eq_self (Trunk.streamLoss_of_offFibre hs))
  · intro s c u h
    exact congrArg Host.Outcome.next (State.onTrunk_eq_self (Trunk.streamLoss_of_not h))
  · intro s c b u hc hb
    refine ⟨fun hs ht => ?_, fun h => congrArg Host.Outcome.next (State.onTrunk_eq_self (Trunk.peerHoldExpiry_of_not h))⟩
    obtain ⟨others, fallback, queue, left, own, entered⟩ := Trunk.goDown_reported hc hb u.ctx
    rw [← Trunk.peerHoldExpiry_of_due hs ht] at others fallback queue left own entered
    exact ⟨_, rfl, rfl, others, fallback, queue, left.1, left.2, own.trans (Circuit.toDown_eq _ _), entered⟩

/-! ## Hold and settle -/

/-- The LIVE fields without a hold. -/
theorem Trunk.endHold_liveOf {l : LiveFields} (h : t.liveOf c = some l) :
    (t.endHold c).liveOf c = some { l with hold := none } := by
  unfold Trunk.liveOf at h
  split at h
  next f hf =>
    have own : f.circuit = c := by
      have := List.find?_some hf
      simpa using this
    have found : (t.endHold c).recordOf c = some { f with live := f.live.map (fun l => { l with hold := none }) } := by
      unfold Trunk.recordOf Trunk.endHold
      rw [find?_record_map (fun f => by split <;> rfl)]
      rw [show t.fallback.find? (fun f => decide (f.circuit = c)) = some f from hf, Option.map_some, if_pos own]
    unfold Trunk.liveOf
    rw [found]
    dsimp only
    rw [h]
    rfl
  next => cases h

theorem Trunk.endHold_named (c : Nat) (t : Trunk) :
    (t.endHold c).fallback.map FallbackRecord.circuit = t.fallback.map FallbackRecord.circuit := by
  unfold Trunk.endHold
  rw [List.map_map]
  refine List.map_congr_left fun f _ => ?_
  show (if f.circuit = c then ({ f with live := f.live.map (fun l => { l with hold := none }) } : FallbackRecord) else f).circuit = _
  split <;> rfl

theorem Trunk.mem_endHold_of_ne {f : FallbackRecord} (hf : f ∈ t.fallback) (hc : f.circuit ≠ c) : f ∈ (t.endHold c).fallback :=
  List.mem_map.mpr ⟨f, hf, if_neg hc⟩

theorem Trunk.holdExpiry_of_not (h : ∀ l, t.liveOf c = some l → l.hold ≠ some 0) : t.holdExpiry x c = t := by
  unfold Trunk.holdExpiry
  split
  next l hl => exact if_neg (h l hl)
  next => rfl

theorem Trunk.holdExpiry_of_due {l : LiveFields} (hl : t.liveOf c = some l) (h : l.hold = some 0) :
    t.holdExpiry x c = if (t.circuit c).state = .spliced ∧ (t.circuit c).deferredRevert = true then (t.endHold c).toRevertWait c
      else t.endHold c := by
  unfold Trunk.holdExpiry
  rw [hl]
  exact if_pos h

theorem Trunk.settleExpiry_of_not (h : ∀ l, t.liveOf c = some l → 0 < l.settle ∨ (t.circuit c).state ≠ .spliced) :
    t.settleExpiry x c = t := by
  unfold Trunk.settleExpiry
  split
  next l hl =>
    refine if_neg fun ⟨hz, hs⟩ => ?_
    rcases h l hl with h | h
    · exact absurd hz (Nat.ne_of_gt h)
    · exact h hs
  next => rfl

theorem Trunk.settleExpiry_deferred {l : LiveFields} (hl : t.liveOf c = some l) (hz : l.settle = 0)
    (hs : (t.circuit c).state = .spliced) (hd : (t.circuit c).deferredRevert = true) :
    t.settleExpiry x c = (t.endHold c).toRevertWait c := by
  unfold Trunk.settleExpiry
  rw [hl]
  dsimp only
  rw [if_pos ⟨hz, hs⟩, if_pos hd]

theorem Trunk.settleExpiry_commits {l : LiveFields} (hl : t.liveOf c = some l) (hz : l.settle = 0)
    (hs : (t.circuit c).state = .spliced) (hd : (t.circuit c).deferredRevert = false) :
    t.settleExpiry x c = (t.commit x c .committed none).serve x := by
  unfold Trunk.settleExpiry
  rw [hl]
  dsimp only
  rw [if_pos ⟨hz, hs⟩, if_neg (by rw [hd]; decide)]

/-- The end of the hold with its revert taken (R18). -/
theorem Trunk.revertWait_circuit (hc : c < 256) (t : Trunk) :
    ((t.endHold c).toRevertWait c).circuit c = { (t.circuit c).enter .revertWait with deferredRevert := false } :=
  Trunk.circuit_modify_same _ _ hc

theorem Trunk.recordOf_of_liveOf {l : LiveFields} (h : t.liveOf c = some l) : ∃ f, t.recordOf c = some f := by
  unfold Trunk.liveOf at h
  split at h
  next f hf => exact ⟨f, hf⟩
  next => cases h

/-- A removal that serves no one where the circuit has a record. -/
theorem Trunk.servesNone.serve {v : Trunk} (h : t.servesNone x c) (hr : ∃ f, t.recordOf c = some f)
    (hq : v.waitQueue = t.waitQueue) : v.serve x = v := by
  obtain ⟨f, hf⟩ := hr
  rcases h with h | h | h
  · exact Trunk.serve_of_paused h v
  · exact Trunk.serve_of_empty (hq.trans h) x
  · rw [hf] at h
    cases h

/-- Settles O33: the hold ends in its record, with the deferred revert taken; the settle commits, or ends the hold of a
deferred revert. -/
theorem holdAndSettleExpiry : Obligations.HoldAndSettleExpiry := by
  refine ⟨?_, ?_, ?_⟩
  · intro s c l u hc hl
    refine ⟨fun hz => ?_, fun hz => ?_⟩
    · refine ⟨_, rfl, rfl, ?_⟩
      show u.trunk.sameOthers c (u.trunk.holdExpiry u.ctx c) ∧ (u.trunk.holdExpiry u.ctx c).waitQueue = _ ∧
        (u.trunk.holdExpiry u.ctx c).calendar = _ ∧ u.trunk.sameReports (u.trunk.holdExpiry u.ctx c) ∧
        (u.trunk.holdExpiry u.ctx c).liveOf c = _ ∧ (u.trunk.holdExpiry u.ctx c).fallback.map _ = _ ∧
        (∀ f ∈ _, _ → f ∈ (u.trunk.holdExpiry u.ctx c).fallback) ∧
        (_ → ((u.trunk.holdExpiry u.ctx c).circuit c).state = _ ∧ ((u.trunk.holdExpiry u.ctx c).circuit c).deferredRevert = _ ∧
          ((u.trunk.holdExpiry u.ctx c).circuit c).splice.playOffset = _ ∧
          ((u.trunk.holdExpiry u.ctx c).circuit c).calendarRow = _) ∧
        (_ → (u.trunk.holdExpiry u.ctx c).circuit c = _)
      rw [Trunk.holdExpiry_of_due hl hz]
      have live := Trunk.endHold_liveOf hl
      split
      next hs =>
        rw [Trunk.revertWait_circuit hc]
        refine ⟨Trunk.modify_sameOthers c _ _, rfl, rfl, ⟨rfl, rfl⟩, live, u.trunk.endHold_named c,
          fun f hf hne => Trunk.mem_endHold_of_ne hf hne, fun _ => ⟨rfl, rfl, rfl, rfl⟩, fun hn => ?_⟩
        rcases hn with hn | hn
        · exact absurd hs.1 hn
        · have flag := hs.2
          rw [show (u.trunk.circuit c).deferredRevert = false from hn] at flag
          cases flag
      next hs =>
        exact ⟨fun _ _ => rfl, rfl, rfl, ⟨rfl, rfl⟩, live, u.trunk.endHold_named c,
          fun f hf hne => Trunk.mem_endHold_of_ne hf hne, fun h => absurd h hs, fun _ => rfl⟩
    · refine congrArg Host.Outcome.next (State.onTrunk_eq_self (Trunk.holdExpiry_of_not fun l' hl' => ?_))
      rw [show l' = l from Option.some.inj (hl'.symm.trans hl)]
      exact hz
  · intro s c b l u hc hb hl hz
    refine ⟨fun hs hd hserve hflag => ?_, fun hs hd => ?_, fun hs => ?_⟩
    · have committed := Trunk.commit_committed hc u.ctx .committed none u.trunk
      have served : (u.trunk.commit u.ctx c .committed none).serve u.ctx = u.trunk.commit u.ctx c .committed none :=
        hserve.trunk.serve (Trunk.recordOf_of_liveOf hl) committed.waitQueue
      have settled : u.trunk.settleExpiry u.ctx c = u.trunk.commit u.ctx c .committed none :=
        (Trunk.settleExpiry_commits hl hz hs hd).trans served
      obtain ⟨k, own⟩ := committed.circuit
      refine ⟨{ u with trunk := u.trunk.commit u.ctx c .committed none }, ?_, rfl, committed.others, committed.fallback,
        committed.waitQueue, committed.calendar, ?_⟩
      · rw [← settled]
        rfl
      · have final : ({ u with trunk := u.trunk.commit u.ctx c .committed none } : State).circuit c = _ := own
        have flag : ((u.circuit c).committedAs k).legacyReleased = decide ((u.circuit c).peerPhase = some .committed) := by
          show ((u.circuit c).legacyReleased || _) = _
          rw [hflag, Bool.false_or]
        rw [final]
        refine ⟨rfl, rfl, rfl, rfl, rfl, rfl, flag, fun hroom => ?_⟩
        refine (Trunk.commit_reports u.ctx .committed none hc hb nofun hroom).trans ?_
        rw [List.append_assoc]
        refine congrArg (u.trunk.reports ++ ·) ?_
        have same : ((u.trunk.circuit c).peerPhase = some .committed ∧ (u.trunk.circuit c).legacyReleased = false) =
            ((u.circuit c).peerPhase = some .committed) := propext ⟨And.left, fun h => ⟨h, hflag⟩⟩
        rw [List.singleton_append]
        congr 1
        simp only [same]
        rfl
    · have settled : u.trunk.settleExpiry u.ctx c = (u.trunk.endHold c).toRevertWait c :=
        Trunk.settleExpiry_deferred hl hz hs hd
      refine ⟨{ u with trunk := (u.trunk.endHold c).toRevertWait c }, ?_, rfl, Trunk.modify_sameOthers c _ _, ?_⟩
      · rw [← settled]
        rfl
      · have final : ({ u with trunk := (u.trunk.endHold c).toRevertWait c } : State).circuit c = _ :=
          Trunk.revertWait_circuit hc u.trunk
        rw [final]
        exact ⟨rfl, rfl, Trunk.endHold_liveOf hl, rfl, rfl, rfl, rfl⟩
    · refine congrArg Host.Outcome.next (State.onTrunk_eq_self (Trunk.settleExpiry_of_not fun _ _ => .inr ?_))
      rw [show (u.trunk.circuit c).state = .revertWait from hs]
      nofun
  · intro s c u
    exact ⟨fun h => congrArg Host.Outcome.next (State.onTrunk_eq_self (Trunk.holdExpiry_of_not h)),
      fun h => congrArg Host.Outcome.next (State.onTrunk_eq_self (Trunk.settleExpiry_of_not fun l hl => .inl (h l hl)))⟩

end Sys2Proof.Machine
end

section
/-! R70: the idle-qualify count. -/

namespace Sys2Proof.Machine

variable {s t u v : State} {x : Ctx} {c : Nat} {r r' r'' : Circuit}

/-! ## The count -/

/-- The idle-qualify count after the frame's test (R70). -/
def Circuit.idleAfter (st : Settings) (boundary : Bool) (sw : Code) (r : Circuit) : Nat :=
  if r.state = .bridging ∨ r.state = .aligned ∨ r.state = .splicePending ∨ r.state = .spliceWait then
    if (r.state = .bridging ∧ r.align.obase = none) ∨ sw ≠ st.idleCode ∨ r.fibreCode ≠ st.idleCode then 0
    else if boundary then min (r.align.idleQualify + 1) 1000 else r.align.idleQualify
  else r.align.idleQualify

theorem CircuitState.beforeSplice_iff (st : CircuitState) :
    st.beforeSplice = true ↔ st = .bridging ∨ st = .aligned ∨ st = .splicePending ∨ st = .spliceWait := by
  cases st <;> decide

theorem Circuit.countIdle_eq (st : Settings) (boundary : Bool) (sw : Code) (r : Circuit) :
    r.countIdle st boundary sw = { r with align := { r.align with idleQualify := r.idleAfter st boundary sw } } := by
  have same {n : Nat} (h : n = r.align.idleQualify) : r = { r with align := { r.align with idleQualify := n } } := by rw [h]
  unfold Circuit.countIdle
  by_cases hs : r.state.beforeSplice = true
  · rw [if_pos hs]
    have held := (CircuitState.beforeSplice_iff _).mp hs
    dsimp only
    split
    next hidle =>
      rw [show r.idleAfter st boundary sw = 0 by unfold Circuit.idleAfter; rw [if_pos held, if_pos hidle]]
    next hidle =>
      split
      next hb =>
        rw [show r.idleAfter st boundary sw = countUp 1000 r.align.idleQualify by
          unfold Circuit.idleAfter
          rw [if_pos held, if_neg hidle, if_pos hb]
          rfl]
      next hb =>
        refine same ?_
        unfold Circuit.idleAfter
        rw [if_pos held, if_neg hidle, if_neg hb]
  · rw [if_neg hs]
    refine same ?_
    unfold Circuit.idleAfter
    exact if_neg fun h => hs ((CircuitState.beforeSplice_iff _).mpr h)

/-- The count after the frame's test in the context `x`. -/
def Circuit.idleIn (x : Ctx) (c : Nat) (r : Circuit) : Nat :=
  r.idleAfter x.settings (decide (cyclePos x.frame = 0)) (slotOf x.switchIn c).code

theorem Circuit.testIdle_eq (x : Ctx) (c : Nat) (r : Circuit) :
    r.testIdle x c = { r with align := { r.align with idleQualify := r.idleIn x c } } := Circuit.countIdle_eq _ _ _ r

/-- The count as the statement gives it. -/
theorem Circuit.idleIn_eq (x : Ctx) (c : Nat) (r : Circuit) :
    r.idleIn x c =
      if r.state = .bridging ∨ r.state = .aligned ∨ r.state = .splicePending ∨ r.state = .spliceWait then
        if (r.state = .bridging ∧ r.align.obase = none) ∨ (slotOf x.switchIn c).code ≠ x.settings.idleCode ∨
            r.fibreCode ≠ x.settings.idleCode then 0
        else if x.frame.toNat % 40 = 0 then min (r.align.idleQualify + 1) 1000 else r.align.idleQualify
      else r.align.idleQualify := by
  unfold Circuit.idleIn Circuit.idleAfter cyclePos
  simp only [decide_eq_true_eq]

/-! ## A frame that begins -/

/-- What the idle-qualify test reads of the record is the same. -/
def Circuit.SameIdle (r r' : Circuit) : Prop := r'.state = r.state ∧ r'.align = r.align ∧ r'.fibreCode = r.fibreCode

theorem Circuit.SameIdle.refl (r : Circuit) : r.SameIdle r := ⟨rfl, rfl, rfl⟩

theorem Circuit.SameIdle.trans (h : r.SameIdle r') (g : r'.SameIdle r'') : r.SameIdle r'' :=
  ⟨g.1.trans h.1, g.2.1.trans h.2.1, g.2.2.trans h.2.2⟩

theorem Circuit.SameIdle.idleIn (h : r.SameIdle r') (x : Ctx) (c : Nat) : r'.idleIn x c = r.idleIn x c := by
  obtain ⟨hs, ha, hf⟩ := h
  unfold Circuit.idleIn Circuit.idleAfter
  rw [hs, ha, hf]

theorem Circuit.sameIdle_openSlot (x : Ctx) (c : Nat) (r : Circuit) : r.SameIdle (r.openSlot x c) := by
  have guard : r.SameIdle (r.startGuard x) := by
    unfold Circuit.startGuard
    split
    · exact ⟨rfl, rfl, rfl⟩
    · exact .refl r
  exact guard.trans ⟨rfl, rfl, rfl⟩

theorem Circuit.sameIdle_guardEnd (r : Circuit) : r.SameIdle r.guardEnd := by
  unfold Circuit.guardEnd
  split
  · split
    · exact ⟨rfl, rfl, rfl⟩
    · exact .refl r
  · exact .refl r

theorem Circuit.sameIdle_fillEnd (f : Word) (r : Circuit) : r.SameIdle (r.fillEnd f) := by
  unfold Circuit.fillEnd
  split
  · split
    · exact ⟨rfl, rfl, rfl⟩
    · exact .refl r
  · exact .refl r

theorem Circuit.sameIdle_giveEarly (x : Ctx) (c : Nat) (r : Circuit) : r.SameIdle (r.giveEarly x c) := by
  have given : r.SameIdle (r.giveSlot x c) :=
    (r.sameIdle_guardEnd.trans (r.guardEnd.sameIdle_fillEnd x.frame)).trans ⟨rfl, rfl, rfl⟩
  unfold Circuit.giveEarly Circuit.giveOnce
  split
  · exact .refl r
  · split
    · exact .refl r
    · exact given

section
variable {P : Nat → Circuit → Prop} (hP : ∀ c (r r' : Circuit), P c r → r.SameIdle r' → P c r')
include hP

theorem State.settleBoundary_idle (h : s.trunk.All P) : s.settleBoundary.trunk.All P := by
  unfold State.settleBoundary
  split
  · exact Trunk.All.of_eq (t := s.trunk.mapCircuits fun _ r => r.countBoundary)
      (h.mapCircuits fun c hc => hP c _ _ hc ⟨rfl, rfl, rfl⟩) fun _ => rfl
  · exact h

theorem State.giveSome_idle (h : s.trunk.All P) : s.giveSome.trunk.All P :=
  h.mapCircuits fun c hc => hP c _ _ hc (Circuit.sameIdle_giveEarly s.ctx c _)

theorem Trunk.All.countRelease_idle {w : Trunk} (c : Nat) (h : w.All P) : (w.countRelease c).All P := by
  have counted : (w.modify c fun r => { r with releaseCells := r.releaseCells - 1 }).All P :=
    h.modify (hP c _ _ (h c) ⟨rfl, rfl, rfl⟩)
  unfold Trunk.countRelease
  refine .ite (.ite ?_ counted) h
  unfold Trunk.leaveCalendar
  split
  · exact counted
  · refine Trunk.All.modify (f := fun r => { r with calendarRow := none }) (counted.of_eq fun _ => Trunk.circuit_setRow _ _ _ _) ?_
    rw [Trunk.circuit_setRow]
    exact hP c _ _ (counted c) ⟨rfl, rfl, rfl⟩

theorem State.buildRow_idle (h : s.trunk.All P) : s.buildRow.trunk.All P := by
  unfold State.buildRow
  split
  · show (s.trunk.countRow s.ctx).All P
    unfold Trunk.countRow
    generalize s.trunk.row (cyclePos s.ctx.frame) = cs
    have fold : ∀ w : Trunk, w.All P → (cs.foldl (fun t c => t.countRelease c) w).All P := by
      induction cs with
      | nil => exact fun _ hw => hw
      | cons c cs ih => exact fun w hw => ih _ (hw.countRelease_idle hP c)
    exact fold _ h
  · exact h

/-- What the works behind the idle-qualify test leave. -/
theorem State.laterWorks_idle (o : FrameOrder) (h : s.trunk.All P) :
    let s3 := if o.selectFirst then s.giveSome else s
    let s4 := if o.buildFirst then s3.buildRow else s3
    (if o.serviceFirst then s4.fillService else s4).trunk.All P := by
  intro s3 s4
  have h3 : s3.trunk.All P := by
    unfold s3
    split
    · exact State.giveSome_idle hP h
    · exact h
  have h4 : s4.trunk.All P := by
    unfold s4
    split
    · exact State.buildRow_idle hP h3
    · exact h3
  split
  · rw [State.fillService_trunk]
    exact h4
  · exact h4
end

theorem State.settleBoundary_test (s : State) :
    s.settleBoundary.todo.idle = s.todo.idle ∧ s.settleBoundary.todo.tested = s.todo.tested ∧
      s.settleBoundary.ctx.settings = s.ctx.settings ∧ s.settleBoundary.ctx.frame = s.ctx.frame ∧
      s.settleBoundary.ctx.switchIn = s.ctx.switchIn := by
  unfold State.settleBoundary
  split <;> exact ⟨rfl, rfl, rfl, rfl, rfl⟩

theorem Circuit.idleIn_congr {y : Ctx} (hs : y.settings = x.settings) (hf : y.frame = x.frame) (hw : y.switchIn = x.switchIn)
    (c : Nat) (r : Circuit) : r.idleIn y c = r.idleIn x c := by
  unfold Circuit.idleIn
  rw [hs, hf, hw]

/-- The tests that the frame makes for every circuit not tested yet (R70). -/
theorem State.countIdles_circuit (hi : s.todo.idle = true) (hc : c < 256) :
    s.countIdles.circuit c = if s.todo.tested.contains c then s.circuit c else (s.circuit c).testIdle s.ctx c := by
  unfold State.countIdles
  rw [if_pos hi]
  show (s.trunk.mapCircuits fun c r => if s.todo.tested.contains c then r else r.testIdle s.ctx c).circuit c = _
  rw [Trunk.circuit_mapCircuits, if_pos hc]
  rfl

/-- With its test asked for as the frame begins, the count of the frame is made on what the frame found (log 4). -/
theorem State.openFrame_idle (sw lg : Highway) (o : FrameOrder) (s : State) (ho : o.idleFirst = true) (hc : c < 256) :
    ((s.openFrame sw lg o).circuit c).align.idleQualify =
      (s.circuit c).idleIn (s.beginFrame sw lg o.eventsLast o.between).ctx c := by
  let b := (s.beginFrame sw lg o.eventsLast o.between).onTrunk Trunk.openSlots
  let s1 := if o.boundaryLast then b else b.settleBoundary
  have opened : b.trunk.All fun c r => c < 256 → (s.circuit c).SameIdle r := by
    intro c hc
    show (s.circuit c).SameIdle
      ((s.trunk.mapCircuits fun c r => r.openSlot (s.beginFrame sw lg o.eventsLast o.between).ctx c).circuit c)
    rw [Trunk.circuit_mapCircuits, if_pos hc]
    exact Circuit.sameIdle_openSlot _ c _
  have first : s1.trunk.All fun c r => c < 256 → (s.circuit c).SameIdle r := by
    unfold s1
    split
    · exact opened
    · exact State.settleBoundary_idle (fun c r r' h g hc => (h hc).trans g) opened
  have todo : s1.todo.idle = true ∧ s1.todo.tested = [] ∧ s1.ctx.settings = b.ctx.settings ∧ s1.ctx.frame = b.ctx.frame ∧
      s1.ctx.switchIn = b.ctx.switchIn := by
    unfold s1
    split
    · exact ⟨rfl, rfl, rfl, rfl, rfl⟩
    · exact b.settleBoundary_test
  obtain ⟨hidle, htested, hsettings, hframe, hswitch⟩ := todo
  have counted : s1.countIdles.trunk.All fun c r => c < 256 → r.align.idleQualify =
      (s.circuit c).idleIn (s.beginFrame sw lg o.eventsLast o.between).ctx c := by
    intro c hc
    show (s1.countIdles.circuit c).align.idleQualify = _
    rw [State.countIdles_circuit hidle hc, htested, if_neg (by simp), Circuit.testIdle_eq]
    refine ((first c hc).idleIn s1.ctx c).trans ?_
    rw [Circuit.idleIn_congr hsettings hframe hswitch]
    rfl
  have last := State.laterWorks_idle (fun c r r' (h : c < 256 → _) g hc => by rw [g.2.1]; exact h hc) o counted
  refine (congrArg (fun w : State => (w.circuit c).align.idleQualify) ?_).trans (last c hc)
  show b.earlyWorks o = _
  unfold State.earlyWorks
  dsimp only
  rw [ho]
  rfl

/-! ## A test among the commands -/

theorem State.tick_of_cons {w : Work} {ws : List Work} (h : s.todo.between = w :: ws) :
    s.tick = ({ s with todo := { s.todo with between := ws } } : State).doWork w := by
  unfold State.tick
  rw [h]

theorem step_of_idle (h : s.pending = []) : step s = .next s.tick := by
  unfold step
  rw [h]

/-- Settles O30: the test is made on the frame's own record, as the frame begins, between two commands or at the close, and
once a frame. -/
theorem idleQualifyCount : Obligations.IdleQualifyCount := by
  refine ⟨fun s f sw lg straps o i c r hi hs hm hf hr ho hc h => ?_, fun s ws c r hp hb hidle hc h => ⟨fun hn => ?_, fun hmem => ?_⟩,
    ?_⟩
  · subst h
    let u : State := { s.finishFrame with missCount := Instr.markerMiss s.missCount i }
    have closed := s.finishFrame_sameSetup
    have frame : (u.beginFrame sw lg o.eventsLast o.between).ctx.frame = f + 1 := by
      show nextFrame s.finishFrame.frameCount = _
      rw [closed.frameCount, hf]
      rfl
    have settings : (u.beginFrame sw lg o.eventsLast o.between).ctx.settings = s.settings := closed.settings
    refine ⟨_, exec_marker_of_no_start hi hs hm hr, (State.openFrame_idle sw lg o u ho hc).trans ?_⟩
    rw [Circuit.idleIn_eq, frame, settings]
    rfl
  · subst h
    let v : State := { s with todo := { s.todo with between := ws } }
    have fresh : (v.todo.idle && !v.todo.tested.contains c) = true := by
      show (s.todo.idle && !s.todo.tested.contains c) = true
      rw [hidle, Bool.true_and, Bool.not_eq_true', ← Bool.not_eq_true, List.contains_iff_mem]
      exact hn
    have done : step s = .next { v with
        trunk := v.trunk.modify c (fun r => r.testIdle v.ctx c), todo := { v.todo with tested := c :: v.todo.tested } } := by
      rw [step_of_idle hp, State.tick_of_cons hb]
      exact congrArg Host.Outcome.next (if_pos fresh)
    refine ⟨_, done, rfl, rfl, ⟨Trunk.modify_sameOthers c _ _, ⟨rfl, rfl, rfl⟩, rfl, rfl⟩, ?_⟩
    have own : (v.trunk.modify c fun r => r.testIdle v.ctx c).circuit c = (s.circuit c).testIdle v.ctx c :=
      Trunk.circuit_modify_same _ _ hc
    refine own.trans ((Circuit.testIdle_eq _ _ _).trans ?_)
    rw [Circuit.idleIn_eq]
    rfl
  · subst h
    have tested : s.todo.tested.contains c = true := List.contains_iff_mem.mpr hmem
    refine ⟨?_, ?_⟩
    · rw [step_of_idle hp, State.tick_of_cons hb]
      refine congrArg Host.Outcome.next (if_neg ?_)
      show ¬(s.todo.idle && !s.todo.tested.contains c) = true
      rw [tested, Bool.not_true, Bool.and_false]
      nofun
    · rw [State.countIdles_circuit hidle hc, if_pos tested]
  · intro s c r t hidle hc h
    subst h
    have circuit := State.countIdles_circuit hidle hc
    have done : t = { s with
        trunk := s.trunk.mapCircuits (fun c r => if s.todo.tested.contains c then r else r.testIdle s.ctx c)
        todo := { s.todo with idle := false } } := if_pos hidle
    refine ⟨by rw [done], by rw [done], by rw [done]; exact ⟨rfl, rfl, rfl⟩, by rw [done]; exact ⟨rfl, rfl⟩, fun hmem => ?_,
      fun hn => ?_⟩
    · exact circuit.trans (if_pos (List.contains_iff_mem.mpr hmem))
    · refine circuit.trans ((if_neg fun h => hn (List.contains_iff_mem.mp h)).trans ((Circuit.testIdle_eq _ _ _).trans ?_))
      rw [Circuit.idleIn_eq]
      rfl

end Sys2Proof.Machine
end

section
/-! R61 to R66: windows judged in BRIDGING and at O. -/

namespace Sys2Proof.Machine

variable {s : State} {t u v : Trunk} {x : Ctx} {c : Nat} {r r' : Circuit} {b : Binding}

/-! ## The search -/

theorem Circuit.conclusive_iff (st : Settings) (r : Circuit) (a : Word) :
    r.conclusive st a = true ↔
      (∀ i, i < 40 → (r.playoutAt (a + BitVec.ofNat 16 i)).isSome = true) ∧
      8 ≤ ((List.range 40).filter (fun i =>
        decide (st.params.threshold < magnitude st.law (r.positionOf (a + BitVec.ofNat 16 i)).sample))).length := by
  unfold Circuit.conclusive windowSsns
  rw [Bool.and_eq_true, decide_eq_true_eq, List.filter_map, List.length_map]
  refine and_congr ?_ Iff.rfl
  rw [List.all_map, List.all_eq_true]
  simp only [List.mem_range]
  rfl

theorem Circuit.mem_matchSet (r : Circuit) (a ob : Word) (k : Nat) :
    k ∈ r.matchSet a ob ↔ k < 449 ∧ ∀ i, i < 40 →
      r.historyAt (a + BitVec.ofNat 16 i + domainOffset ob k) = (r.positionOf (a + BitVec.ofNat 16 i)).sample := by
  unfold Circuit.matchSet Circuit.matchesAt windowSsns
  rw [List.mem_filter, List.mem_range, List.all_map, List.all_eq_true]
  refine and_congr Iff.rfl ?_
  simp only [List.mem_range, Function.comp_apply, beq_iff_eq]

/-- Positions in rising order that are as many as the domain are the whole domain. -/
theorem eq_range_of_rising {ks : List Nat} {n : Nat} (hp : ks.Pairwise (· < ·)) (hlt : ∀ k ∈ ks, k < n) (hlen : ks.length = n) :
    ks = List.range n := by
  have sub : ks.Subperm (List.range n) :=
    List.subperm_of_subset (hp.imp fun h => Nat.ne_of_lt h) fun k hk => List.mem_range.mpr (hlt k hk)
  have perm := sub.perm_of_length_le (by rw [List.length_range, hlen])
  exact perm.eq_of_pairwise (fun a b _ _ h g => absurd h (Nat.lt_asymm g)) hp List.pairwise_lt_range

theorem Candidates.toList_ofList {ks : List Nat} (hp : ks.Pairwise (· < ·)) (hlt : ∀ k ∈ ks, k < 449) :
    (Candidates.ofList ks).toList = ks := by
  unfold Candidates.ofList
  split
  next h => exact (eq_range_of_rising hp hlt h).symm
  next => rfl

/-- The set carried after a match set that is not empty, and the contributing count (R65). -/
def Circuit.narrowed (ks : List Nat) (n : Nat) (r : Circuit) : Circuit :=
  { r with align := { r.align with candidates := .ofList ks, contributing := n } }

theorem Circuit.narrow_eq {ms ks : List Nat} {n : Nat} (hms : ms ≠ [])
    (hmeet : r.align.candidates.meet ms ≠ [] → ks = r.align.candidates.meet ms ∧ n = min (r.align.contributing + 1) 3)
    (hnone : r.align.candidates.meet ms = [] → ks = ms ∧ n = 1) : r.narrow ms = r.narrowed ks n := by
  unfold Circuit.narrow Circuit.narrowed
  split
  · exact absurd rfl hms
  · split
    next h =>
      obtain ⟨rfl, rfl⟩ := hnone h
      rfl
    next h =>
      obtain ⟨rfl, rfl⟩ := hmeet h
      rfl

theorem Candidates.ofList_single (k : Nat) : Candidates.ofList [k] = .positions [k] := rfl

/-- R65: what stands after the narrowing is found when it is one position with a count of 3. -/
theorem Circuit.foundOffset_narrowed {ob : Word} {ks : List Nat} {n k : Nat} (ho : r.align.obase = some ob) (hks : ks = [k])
    (hn : n = 3) : (r.narrowed ks n).foundOffset = some (domainOffset ob k) := by
  subst hks hn
  unfold Circuit.foundOffset Circuit.narrowed
  rw [Candidates.ofList_single]
  dsimp only
  rw [ho]
  rfl

theorem Circuit.foundOffset_of_count (h : r.align.contributing ≠ 3) : r.foundOffset = none := by
  unfold Circuit.foundOffset
  split
  · exact if_neg h
  · rfl

theorem Circuit.foundOffset_of_ofList {ks : List Nat} (h : r.align.candidates = .ofList ks) (hks : ∀ k, ks ≠ [k]) :
    r.foundOffset = none := by
  unfold Circuit.foundOffset
  rw [h]
  unfold Candidates.ofList
  split
  next heq =>
    split at heq
    · cases heq
    · exact absurd (Candidates.positions.inj heq) (hks _)
  next => rfl

/-- R64, R65: in BRIDGING a conclusive window whose search finds an offset brings alignment. -/
theorem Trunk.judgeWindow_of_found {a o : Word} (hc : c < 256) (hs : (t.circuit c).state = .bridging)
    (hcon : (t.circuit c).conclusive x.settings a = true) (hf : ((t.circuit c).search x.settings a).foundOffset = some o) :
    t.judgeWindow x c a = (t.modify c (Circuit.search x.settings a)).alignmentFound x c o := by
  unfold Trunk.judgeWindow
  dsimp only
  rw [hs]
  dsimp only
  rw [Trunk.circuit_modify_same _ _ hc, hf]
  exact if_pos hcon

/-- An inconclusive window of a circuit in BRIDGING brings nothing, whatever the carried set is. -/
theorem Trunk.judgeWindow_of_inconclusive {a : Word} (hs : (t.circuit c).state = .bridging)
    (hcon : (t.circuit c).conclusive x.settings a = false) :
    t.judgeWindow x c a = t.modify c (Circuit.search x.settings a) ∧ (t.circuit c).search x.settings a = t.circuit c := by
  have search : (t.circuit c).search x.settings a = t.circuit c := by
    unfold Circuit.search
    rw [hcon]
    split
    · rfl
    · exact if_neg (by decide)
  refine ⟨?_, search⟩
  unfold Trunk.judgeWindow
  dsimp only
  rw [hs]
  dsimp only
  rw [hcon]
  split
  · exact if_neg (by decide)
  · rfl

/-- What alignment found leaves (R11). -/
theorem Trunk.alignmentFound_reported (hc : c < 256) (hb : (t.circuit c).binding = some b) (x : Ctx) (o : Word) :
    t.sameOthers c (t.alignmentFound x c o) ∧ t.sameLists (t.alignmentFound x c o) ∧
      (t.alignmentFound x c o).circuit c = { (t.circuit c).enter .aligned with
        align := { ((t.circuit c).enter .aligned).align with offset := some o }
        lastReported := Trunk.kindAfter .aligned t } ∧
      t.entered (aboutCircuit x.cycles c b .aligned none (some o.toNat) ⟨false, false, false⟩) (t.alignmentFound x c o) := by
  have own := Trunk.circuit_modify_same t
    (fun r => let e := r.enter .aligned; { e with align := { e.align with offset := some o } }) hc
  obtain ⟨entered, lists, others, said⟩ :=
    (t.modify c fun r => let e := r.enter .aligned; { e with align := { e.align with offset := some o } }).report_of_entry x
      (k := .aligned) none (some o.toNat) .clear hc (by rw [own]; exact hb) (by rw [own]; rfl)
  refine ⟨(Trunk.modify_sameOthers c _ t).trans others, lists, said.trans ?_, entered⟩
  rw [own]
  rfl

theorem exec_windowJudgement_of_due {e : JudgeEntry} (h : s.trunk.dueWindow s.ctx c = some e) :
    exec (.windowJudgement c) s =
      .next { s with trunk := (s.trunk.modify c (Circuit.dropWindow e)).judgeWindow s.ctx c e.ssn } := by
  rw [← Trunk.windowJudgement_of_due h]
  rfl

/-- Settles O27: the search narrows the carried set, and one position left with a count of 3 is alignment found. -/
theorem matchSetNarrowsCandidates : Obligations.MatchSetNarrowsCandidates := by
  refine ⟨fun st r a ob => ⟨r.conclusive_iff st a, r.mem_matchSet a ob⟩, ?_, ?_⟩
  · intro s c e ob b ks n hc hs hdue hob hb hrange hcon hms hmeet hnone
    let t := s.trunk.modify c (Circuit.dropWindow e)
    have own : t.circuit c = (s.circuit c).dropWindow e := Trunk.circuit_modify_same _ _ hc
    have rising : ks.Pairwise (· < ·) ∧ ∀ k ∈ ks, k < 449 := by
      by_cases h : (s.circuit c).align.candidates.meet ((s.circuit c).matchSet e.ssn ob) = []
      · rw [(hnone h).1]
        exact Circuit.matchSet_rising _ _ _
      · rw [(hmeet h).1]
        exact Candidates.meet_rising hrange (Circuit.matchSet_rising _ _ _)
    have search : (t.circuit c).search s.settings e.ssn = ((s.circuit c).dropWindow e).narrowed ks n := by
      rw [own, ← Circuit.narrow_eq (r := (s.circuit c).dropWindow e) hms hmeet hnone]
      unfold Circuit.search
      rw [show ((s.circuit c).dropWindow e).align.obase = some ob from hob]
      exact if_pos hcon
    have searched : (t.modify c (Circuit.search s.settings e.ssn)).circuit c = ((s.circuit c).dropWindow e).narrowed ks n :=
      (Trunk.circuit_modify_same _ _ hc).trans search
    have list := Candidates.toList_ofList rising.1 rising.2
    rw [exec_windowJudgement_of_due hdue]
    by_cases found : ∃ k, ks = [k] ∧ n = 3
    · obtain ⟨k, hk, hn⟩ := found
      have judged : t.judgeWindow s.ctx c e.ssn =
          (t.modify c (Circuit.search s.settings e.ssn)).alignmentFound s.ctx c (domainOffset ob k) :=
        Trunk.judgeWindow_of_found hc (by rw [own]; exact hs) (by rw [own]; exact hcon)
          ((congrArg Circuit.foundOffset search).trans (Circuit.foundOffset_narrowed hob hk hn))
      obtain ⟨others, lists, record, entered⟩ := Trunk.alignmentFound_reported
        (t := t.modify c (Circuit.search s.settings e.ssn)) hc (by rw [searched]; exact hb) s.ctx (domainOffset ob k)
      rw [searched] at record
      rw [← judged] at others lists record entered
      refine ⟨_, rfl, rfl, ((Trunk.modify_sameOthers c _ _).trans (Trunk.modify_sameOthers c _ _)).trans others, lists, ?_⟩
      have final : ({ s with trunk := t.judgeWindow s.ctx c e.ssn } : State).circuit c = _ := record
      rw [final]
      refine ⟨list, rfl, hob, rfl, rfl, rfl, fun k' hk' _ => ?_, fun hnot => ?_⟩
      · have same : k' = k := List.singleton_inj.mp (hk'.symm.trans hk)
        subst same hn
        refine ⟨?_, entered⟩
        have flag : ((((s.circuit c).dropWindow e).narrowed ks 3).enter .aligned).legacyReleased = false := Bool.and_false _
        exact congrArg (fun w => { (((s.circuit c).dropWindow e).narrowed ks 3).enter .aligned with
          align := { (((s.circuit c).dropWindow e).narrowed ks 3).align with offset := some (domainOffset ob k') }
          legacyReleased := w
          lastReported := s.trunk.kindAfter .aligned }) flag
      · rcases hnot with hnot | hnot
        · exact absurd hk (hnot k)
        · exact absurd hn hnot
    · have judged : t.judgeWindow s.ctx c e.ssn = t.modify c (Circuit.search s.settings e.ssn) := by
        refine Trunk.judgeWindow_of_notFound hc (by rw [own]; exact hs) ?_
        refine (congrArg Circuit.foundOffset search).trans ?_
        by_cases hn : n = 3
        · exact Circuit.foundOffset_of_ofList rfl fun k hk => found ⟨k, hk, hn⟩
        · exact Circuit.foundOffset_of_count hn
      rw [show (s.trunk.modify c (Circuit.dropWindow e)).judgeWindow s.ctx c e.ssn = _ from judged]
      refine ⟨_, rfl, rfl, (Trunk.modify_sameOthers c _ _).trans (Trunk.modify_sameOthers c _ _), ⟨rfl, rfl, rfl⟩, ?_⟩
      have final : ({ s with trunk := t.modify c (Circuit.search s.settings e.ssn) } : State).circuit c = _ := searched
      rw [final]
      exact ⟨list, rfl, hob, rfl, rfl, rfl, fun k hk hn => absurd ⟨k, hk, hn⟩ found, fun _ => ⟨rfl, rfl, rfl⟩⟩
  · intro s c e hc hs hdue hcon
    let t := s.trunk.modify c (Circuit.dropWindow e)
    have own : t.circuit c = (s.circuit c).dropWindow e := Trunk.circuit_modify_same _ _ hc
    obtain ⟨judged, kept⟩ := Trunk.judgeWindow_of_inconclusive (t := t) (x := s.ctx) (a := e.ssn) (by rw [own]; exact hs)
      (by rw [own]; exact hcon)
    rw [exec_windowJudgement_of_due hdue, show (s.trunk.modify c (Circuit.dropWindow e)).judgeWindow s.ctx c e.ssn = _ from judged]
    refine ⟨_, rfl, rfl, ⟨(Trunk.modify_sameOthers c _ _).trans (Trunk.modify_sameOthers c _ _), ⟨rfl, rfl, rfl⟩, rfl, rfl⟩, ?_⟩
    have final : (t.modify c (Circuit.search s.ctx.settings e.ssn)).circuit c = (s.circuit c).dropWindow e :=
      (Trunk.circuit_modify_same _ _ hc).trans (kept.trans own)
    exact final

end Sys2Proof.Machine
end

section
/-! R61, R66, R68: windows judged at O. -/

namespace Sys2Proof.Machine

variable {s : State} {t u v : Trunk} {x : Ctx} {c : Nat} {r r' : Circuit} {b : Binding} {a o : Word}

/-! ## The judgement at O -/

/-- A state whose windows are judged at O (R61). -/
def Circuit.verifies (r : Circuit) : Prop :=
  r.state = .aligned ∨ r.state = .splicePending ∨ r.state = .spliceWait ∨ (r.state.onFibre = true ∧ r.legacyReleased = false)

theorem Circuit.verifies.judges (h : r.verifies) (ho : r.align.offset ≠ none) : r.judges = true := by
  rcases h with h | h | h | ⟨hs, hl⟩
  iterate 3 exact Circuit.judges_of_beforeSplice (by rw [h]; rfl)
  exact Circuit.judges_of_fibre hs ho hl

theorem Circuit.verifies.cases (h : r.verifies) :
    (r.state = .aligned ∨ r.state = .splicePending ∨ r.state = .spliceWait) ∨
      r.state = .spliced ∨ r.state = .revertWait ∨ r.state = .committed := by
  rcases h with h | h | h | ⟨hs, -⟩
  · exact .inl (.inl h)
  · exact .inl (.inr (.inl h))
  · exact .inl (.inr (.inr h))
  · right
    cases hst : r.state <;> rw [hst] at hs
    case spliced => exact .inl rfl
    case revertWait => exact .inr (.inl rfl)
    case committed => exact .inr (.inr rfl)
    all_goals cases hs

theorem Trunk.judgeWindow_verifies (h : (t.circuit c).verifies) (ho : (t.circuit c).align.offset = some o) :
    t.judgeWindow x c a =
      if 3 ≤ ((t.modify c (Circuit.verify x.settings a o)).circuit c).align.verifyMiss then
        (t.modify c (Circuit.verify x.settings a o)).alignmentLost x c
      else t.modify c (Circuit.verify x.settings a o) := by
  have judges := h.judges (by rw [ho]; nofun)
  unfold Trunk.judgeWindow
  rcases h.cases with (hs | hs | hs) | hs | hs | hs <;> dsimp only <;> rw [hs] <;> dsimp only <;> rw [ho] <;> exact if_pos judges

theorem Circuit.verify_inconclusive {st : Settings} (h : r.conclusive st a = false) : r.verify st a o = r :=
  if_neg (by rw [h]; nofun)

theorem Circuit.verify_match {st : Settings} (h : r.conclusive st a = true) (hm : r.matchesAt a o = true) :
    r.verify st a o = { r with align := { r.align with verifyMiss := 0 } } := by
  unfold Circuit.verify
  rw [if_pos h, if_pos hm]

theorem Circuit.verify_mismatch {st : Settings} (h : r.conclusive st a = true) (hm : r.matchesAt a o = false) :
    r.verify st a o = { r with
      align := { r.align with verifyMiss := min (r.align.verifyMiss + 1) 3 }
      counters := { r.counters with mismatches := min (r.counters.mismatches + 1) 65535 } } := by
  unfold Circuit.verify
  rw [if_pos h, if_neg (by rw [hm]; nofun)]
  rfl

/-! ## Alignment lost -/

/-- The record with the run of mismatches ended. -/
def Circuit.runEnded (r : Circuit) : Circuit := { r with align := { r.align with verifyMiss := 0 } }

/-- The trunk in which alignment has been lost before the splice, before its report (R11). -/
def Trunk.lostBridge (p : Params) (c : Nat) (t : Trunk) : Trunk :=
  (((t.modify c Circuit.runEnded).removeRecord c).leaveQueue c).modify c
    (Circuit.backToBridging p)

theorem Trunk.lostBridge_circuit (hc : c < 256) (p : Params) (t : Trunk) :
    (t.lostBridge p c).circuit c =
      (t.circuit c).runEnded.backToBridging p := by
  unfold Trunk.lostBridge
  rw [Trunk.circuit_modify_same _ _ hc]
  exact congrArg (Circuit.backToBridging p) (Trunk.circuit_modify_same t Circuit.runEnded hc)

/-- What alignment lost before the splice leaves, with its report, before what the removal of its record serves. -/
theorem Trunk.lostBridge_reported (hc : c < 256) (hb : (t.circuit c).binding = some b) (x : Ctx) :
    t.Abandoned c ((t.lostBridge x.settings.params c).reportPlain x c .alignLost) ∧
      ((t.lostBridge x.settings.params c).reportPlain x c .alignLost).circuit c =
        { (t.circuit c).runEnded.backToBridging x.settings.params with
          lastReported := Trunk.kindAfter .alignLost t } ∧
      t.entered (aboutCircuit x.cycles c b .alignLost none none ⟨false, false, false⟩)
        ((t.lostBridge x.settings.params c).reportPlain x c .alignLost) := by
  have own := Trunk.lostBridge_circuit hc x.settings.params t
  obtain ⟨entered, lists, others, said⟩ := (t.lostBridge x.settings.params c).report_of_entry x (k := .alignLost) none none .clear
    hc (by rw [own]; exact hb) (by rw [own]; rfl)
  have core : t.Abandoned c (t.lostBridge x.settings.params c) :=
    ⟨fun d hd => (Trunk.circuit_modify_ne _ _ hd).trans (Trunk.circuit_modify_ne t Circuit.runEnded hd), t.removeRecord_fallback c,
      t.leaveQueue_waitQueue c, rfl⟩
  refine ⟨core.reported others lists, said.trans ?_, entered⟩
  rw [own]
  rfl

theorem Trunk.alignmentLost_beforeSplice (hc : c < 256)
    (hs : (t.circuit c).state = .aligned ∨ (t.circuit c).state = .splicePending ∨ (t.circuit c).state = .spliceWait) (x : Ctx) :
    t.alignmentLost x c =
      if (t.recordOf c).isSome then ((t.lostBridge x.settings.params c).reportPlain x c .alignLost).serve x
      else (t.lostBridge x.settings.params c).reportPlain x c .alignLost := by
  unfold Trunk.alignmentLost
  dsimp only
  rw [Trunk.circuit_modify_same _ _ hc]
  dsimp only
  rcases hs with hs | hs | hs <;> rw [hs] <;> rfl

theorem Trunk.alignmentLost_onFibre (hc : c < 256)
    (hs : (t.circuit c).state = .spliced ∨ (t.circuit c).state = .revertWait ∨ (t.circuit c).state = .committed) (x : Ctx) :
    t.alignmentLost x c =
      ((t.modify c Circuit.runEnded).modify c
        (fun r => { r with align := { r.align with offset := none } })).reportPlain x c .alignLost := by
  unfold Trunk.alignmentLost
  dsimp only
  rw [Trunk.circuit_modify_same _ _ hc]
  dsimp only
  rcases hs with hs | hs | hs <;> rw [hs] <;> rfl

/-- The window that is due is judged at O on the record it has left (R61, R66). -/
theorem exec_windowJudgement_verifies {e : JudgeEntry} (hc : c < 256) (hdue : s.trunk.dueWindow s.ctx c = some e)
    (h : (s.circuit c).verifies) (ho : (s.circuit c).align.offset = some o)
    (hv : ((s.circuit c).dropWindow e).verify s.settings e.ssn o = r) {n : Nat} (hn : r.align.verifyMiss = n) :
    ∃ w : Trunk, s.trunk.onlyRecord c w ∧ w.recordOf c = s.trunk.recordOf c ∧ w.circuit c = r ∧
      exec (.windowJudgement c) s =
        .next { s with trunk := if 3 ≤ n then w.alignmentLost s.ctx c else w } := by
  have own : (s.trunk.modify c (Circuit.dropWindow e)).circuit c = (s.circuit c).dropWindow e := Trunk.circuit_modify_same _ _ hc
  have verified : ((s.trunk.modify c (Circuit.dropWindow e)).modify c (Circuit.verify s.settings e.ssn o)).circuit c = r :=
    (Trunk.circuit_modify_same _ _ hc).trans (by rw [own]; exact hv)
  refine ⟨_, ⟨(Trunk.modify_sameOthers c _ _).trans (Trunk.modify_sameOthers c _ _), ⟨rfl, rfl, rfl⟩, rfl, rfl⟩, rfl, verified, ?_⟩
  rw [exec_windowJudgement_of_due hdue, Trunk.judgeWindow_verifies (o := o) (by rw [own]; exact h) (by rw [own]; exact ho)]
  have same : s.ctx.settings = s.settings := rfl
  rw [same, verified, hn]

/-- The judging list without the window that was due. -/
def Circuit.judgingWithout (e : JudgeEntry) (r : Circuit) : List JudgeEntry :=
  r.align.judging.filter (fun d => decide (d ≠ e))

/-- The record after a window that has not brought alignment lost: the run of mismatches and their counter. -/
def Circuit.judgedAs (e : JudgeEntry) (miss mismatches : Nat) (r : Circuit) : Circuit :=
  { r with
    counters := { r.counters with mismatches := mismatches }
    align := { r.align with verifyMiss := miss, judging := r.judgingWithout e } }

/-- A window judged at O that does not bring alignment lost. -/
theorem exec_windowJudgement_kept {e : JudgeEntry} {n m : Nat} (hc : c < 256) (hdue : s.trunk.dueWindow s.ctx c = some e)
    (h : (s.circuit c).verifies) (ho : (s.circuit c).align.offset = some o) (hn : n < 3)
    (hv : ((s.circuit c).dropWindow e).verify s.settings e.ssn o = (s.circuit c).judgedAs e n m) :
    ∃ t, exec (.windowJudgement c) s = .next t ∧ s.sameOutside t ∧ s.trunk.onlyRecord c t.trunk ∧
      t.circuit c = (s.circuit c).judgedAs e n m := by
  obtain ⟨w, only, -, own, done⟩ := exec_windowJudgement_verifies hc hdue h ho hv (n := n) rfl
  rw [if_neg (Nat.not_le.mpr hn)] at done
  exact ⟨_, done, rfl, only, own⟩

/-- The third mismatch in a row, on fibre: O is absent (R68). -/
theorem Trunk.alignmentLost_fibre_reported (hc : c < 256)
    (hs : (t.circuit c).state = .spliced ∨ (t.circuit c).state = .revertWait ∨ (t.circuit c).state = .committed) (x : Ctx) :
    t.sameOthers c (t.alignmentLost x c) ∧ t.sameLists (t.alignmentLost x c) ∧
      (∃ l, (t.alignmentLost x c).circuit c = { t.circuit c with
        align := { (t.circuit c).align with verifyMiss := 0, offset := none }, lastReported := l }) ∧
      ∀ b, (t.circuit c).binding = some b → (t.circuit c).lastReported ≠ some .alignLost →
        t.entered (aboutCircuit x.cycles c b .alignLost none none ⟨false, false, false⟩) (t.alignmentLost x c) := by
  let w := (t.modify c Circuit.runEnded).modify c
    (fun r => { r with align := { r.align with offset := none } })
  have own : w.circuit c = { t.circuit c with align := { (t.circuit c).align with verifyMiss := 0, offset := none } } := by
    unfold w
    rw [Trunk.circuit_modify_same _ _ hc, Trunk.circuit_modify_same _ _ hc]
    rfl
  rw [Trunk.alignmentLost_onFibre hc hs x]
  obtain ⟨others, lists, l, said⟩ := w.report_frame x c .alignLost none none .clear
  rw [own] at said
  exact ⟨((Trunk.modify_sameOthers c _ _).trans (Trunk.modify_sameOthers c _ _)).trans others, lists, ⟨l, said⟩,
    fun b hb hl => (w.report_passes x none none .clear hc (by rw [own]; exact hb) (by rw [own]; exact hl)).1⟩

theorem Trunk.windowJudgement_of_notDue (h : ∀ e ∈ (t.circuit c).align.judging, e.frame ≠ x.frame) : t.windowJudgement x c = t := by
  have none : t.dueWindow x c = none := List.find?_eq_none.mpr fun e he => by rw [beq_iff_eq]; exact h e he
  unfold Trunk.windowJudgement
  rw [none]

/-- A window that is due where none is judged (R61). -/
theorem Trunk.judgeWindow_of_dropped
    (h : ((t.circuit c).state.onFibre = true ∧ ((t.circuit c).align.offset = none ∨ (t.circuit c).legacyReleased = true)) ∨
      (t.circuit c).state = .copper ∨ (t.circuit c).state = .held ∨ (t.circuit c).state = .down) : t.judgeWindow x c a = t := by
  unfold Trunk.judgeWindow
  dsimp only
  rcases h with ⟨hs, h⟩ | h | h | h
  · have notJudged : (t.circuit c).judges = false := Circuit.judges_of_released (.inl hs) (.inr h)
    cases hst : (t.circuit c).state <;> rw [hst] at hs
    case spliced | revertWait | committed =>
      dsimp only
      split
      · exact if_neg (by rw [notJudged]; decide)
      · rfl
    all_goals cases hs
  all_goals rw [h]

/-- Settles O29: the window leaves the list, the judgement at O counts it, and the third mismatch in a row takes O. -/
theorem verificationAtO : Obligations.VerificationAtO := by
  refine ⟨fun s c e o b hc hs hdue ho hb hserve hmiss => ?_, fun s c hc => ⟨fun hnone => ?_, fun e hdue h => ?_⟩⟩
  · have conclusive : ((s.circuit c).dropWindow e).conclusive s.settings e.ssn = (s.circuit c).conclusive s.settings e.ssn := rfl
    have matchesAt : ((s.circuit c).dropWindow e).matchesAt e.ssn o = (s.circuit c).matchesAt e.ssn o := rfl
    cases hcon : (s.circuit c).conclusive s.settings e.ssn with
    | false =>
      obtain ⟨t, done, outside, only, own⟩ := exec_windowJudgement_kept (n := (s.circuit c).align.verifyMiss)
        (m := (s.circuit c).counters.mismatches) hc hdue hs ho hmiss
        (Circuit.verify_inconclusive (r := (s.circuit c).dropWindow e) (conclusive.trans hcon))
      refine ⟨t, done, outside, only.1, only.2.1.2.2, ?_⟩
      rw [own]
      exact ⟨rfl, rfl, rfl, rfl, rfl, rfl, fun _ => ⟨only, rfl⟩, nofun, nofun, fun _ => ⟨rfl, ho, only.2.2, only.2.1.2.1, only.2.1.1⟩⟩
    | true =>
      cases hmat : (s.circuit c).matchesAt e.ssn o with
      | true =>
        obtain ⟨t, done, outside, only, own⟩ := exec_windowJudgement_kept (n := 0) (m := (s.circuit c).counters.mismatches) hc hdue
          hs ho (by decide)
          (Circuit.verify_match (r := (s.circuit c).dropWindow e) (conclusive.trans hcon) (matchesAt.trans hmat))
        refine ⟨t, done, outside, only.1, only.2.1.2.2, ?_⟩
        rw [own]
        exact ⟨rfl, rfl, rfl, rfl, rfl, rfl, nofun, fun _ _ => ⟨only, rfl⟩, nofun,
          fun _ => ⟨rfl, ho, only.2.2, only.2.1.2.1, only.2.1.1⟩⟩
      | false =>
        have verified := Circuit.verify_mismatch (r := (s.circuit c).dropWindow e) (st := s.settings) (conclusive.trans hcon)
          (matchesAt.trans hmat)
        by_cases hthird : (s.circuit c).align.verifyMiss = 2
        · have run : min (((s.circuit c).dropWindow e).align.verifyMiss + 1) 3 = 3 := by
            show min ((s.circuit c).align.verifyMiss + 1) 3 = 3
            rw [hthird]
            rfl
          rw [run] at verified
          obtain ⟨w, only, record, own, done⟩ := exec_windowJudgement_verifies hc hdue hs ho verified (n := 3) rfl
          have reports := only.2.2
          rw [if_pos (Nat.le_refl 3)] at done
          rcases Circuit.verifies.cases hs with hst | hst
          · have hst' : (w.circuit c).state = .aligned ∨ (w.circuit c).state = .splicePending ∨ (w.circuit c).state = .spliceWait := by
              rw [own]
              exact hst
            obtain ⟨abandoned, final, entered⟩ := Trunk.lostBridge_reported (t := w) hc (by rw [own]; exact hb) s.ctx
            have lost : w.alignmentLost s.ctx c = (w.lostBridge s.ctx.settings.params c).reportPlain s.ctx c .alignLost := by
              rw [Trunk.alignmentLost_beforeSplice hc hst']
              exact (hserve.trunk.of_lists only.2.1).ite fun hq => by
                rw [show _ = w.waitQueue.filter _ from abandoned.waitQueue, hq]
                rfl
            rw [own] at final
            rw [← lost] at abandoned final entered
            have before : (s.circuit c).state.beforeSplice = true := by rcases hst with h | h | h <;> rw [h] <;> rfl
            have final' : ({ s with trunk := w.alignmentLost s.ctx c } : State).circuit c = _ := final
            refine ⟨_, done, rfl, only.1.trans abandoned.others, abandoned.calendar.trans only.2.1.2.2, ?_⟩
            rw [final']
            refine ⟨rfl, rfl, rfl, rfl, rfl, rfl, nofun, nofun,
              fun _ _ => ⟨rfl, fun h => by omega, fun _ => ⟨rfl, rfl, fun hf => ?_, fun _ => ?_⟩⟩,
              fun h => absurd ⟨rfl, rfl, hthird⟩ h⟩
            · rw [CircuitState.beforeSplice_of_stream (.inl hf)] at before
              cases before
            · exact ⟨rfl, abandoned.waitQueue.trans (by rw [only.2.1.2.1]), abandoned.fallback.trans (by rw [only.2.1.1]), rfl, rfl,
                rfl, rfl, entered.of_reports reports.1 reports.2⟩
          · have hst' : (w.circuit c).state = .spliced ∨ (w.circuit c).state = .revertWait ∨ (w.circuit c).state = .committed := by
              rw [own]
              exact hst
            obtain ⟨others, lists, ⟨l, final⟩, entered⟩ := Trunk.alignmentLost_fibre_reported hc hst' s.ctx
            rw [own] at final entered
            have final' : ({ s with trunk := w.alignmentLost s.ctx c } : State).circuit c = _ := final
            have fibre : (s.circuit c).state.onFibre = true := by rcases hst with h | h | h <;> rw [h] <;> rfl
            obtain ⟨hfallback, hqueue, hcalendar⟩ := only.2.1.trans lists
            refine ⟨_, done, rfl, only.1.trans others, hcalendar, ?_⟩
            rw [final']
            refine ⟨rfl, rfl, rfl, rfl, rfl, rfl, nofun, nofun,
              fun _ _ => ⟨rfl, fun h => by omega, fun _ => ⟨rfl, rfl, fun _ => ?_, fun h => ?_⟩⟩,
              fun h => absurd ⟨rfl, rfl, hthird⟩ h⟩
            · exact ⟨rfl, hqueue, hfallback, rfl, fun hl => (entered b hb hl).of_reports reports.1 reports.2⟩
            · rw [CircuitState.beforeSplice_of_stream (.inl fibre)] at h
              cases h
        · have run : min (((s.circuit c).dropWindow e).align.verifyMiss + 1) 3 = (s.circuit c).align.verifyMiss + 1 :=
            Nat.min_eq_left (show (s.circuit c).align.verifyMiss + 1 ≤ 3 by omega)
          rw [run] at verified
          obtain ⟨t, done, outside, only, own⟩ := exec_windowJudgement_kept (n := (s.circuit c).align.verifyMiss + 1)
            (m := min ((s.circuit c).counters.mismatches + 1) 65535) hc hdue hs ho (by omega) verified
          refine ⟨t, done, outside, only.1, only.2.1.2.2, ?_⟩
          rw [own]
          exact ⟨rfl, rfl, rfl, rfl, rfl, rfl, nofun, nofun,
            fun _ _ => ⟨rfl, fun _ => ⟨only, rfl⟩, fun h => absurd h hthird⟩,
            fun _ => ⟨rfl, ho, only.2.2, only.2.1.2.1, only.2.1.1⟩⟩
  · exact congrArg Host.Outcome.next (State.onTrunk_eq_self (Trunk.windowJudgement_of_notDue hnone))
  · have own : (s.trunk.modify c (Circuit.dropWindow e)).circuit c = (s.circuit c).dropWindow e := Trunk.circuit_modify_same _ _ hc
    rw [exec_windowJudgement_of_due hdue, Trunk.judgeWindow_of_dropped (by rw [own]; exact h)]
    exact ⟨_, rfl, rfl, ⟨Trunk.modify_sameOthers c _ _, ⟨rfl, rfl, rfl⟩, rfl, rfl⟩, own⟩

end Sys2Proof.Machine
end

section
/-! R124 to R127: the loss and the restart of a peer station, handed to every circuit bound to it. -/

namespace Sys2Proof.Machine

variable {s : State} {t u v : Trunk} {x : Ctx} {c p : Nat} {r r' : Circuit}

/-! ## The event taken by one circuit -/

/-- The record with its peer phase NONE (R7). -/
def Circuit.unphased (r : Circuit) : Circuit := { r with peerPhase := none }

/-- The circuit's record or its wait for one ends with the event (R98, R127). -/
def CircuitState.leavesList (st : CircuitState) : Prop := st.beforeSplice = true ∨ st = .spliced ∨ st = .revertWait

theorem Trunk.peerEvent_beforeSplice (hc : c < 256) (h : (t.circuit c).state.beforeSplice = true) :
    t.peerEvent x c = (t.modify c Circuit.unphased).abandonWith x c none := by
  have own : (t.modify c fun r => { r with peerPhase := none }).circuit c = (t.circuit c).unphased :=
    Trunk.circuit_modify_same _ _ hc
  unfold Trunk.peerEvent
  dsimp only
  rw [own]
  cases hs : (t.circuit c).state <;> rw [hs] at h
  case bridging | aligned | splicePending | spliceWait =>
    rw [show (t.circuit c).unphased.state = _ from hs]
    rfl
  all_goals cases h

theorem Trunk.peerEvent_reverses (hc : c < 256) (h : (t.circuit c).state = .spliced ∨ (t.circuit c).state = .revertWait) :
    t.peerEvent x c = (t.modify c Circuit.unphased).reverseSplice x c .urgent := by
  have own : (t.modify c fun r => { r with peerPhase := none }).circuit c = (t.circuit c).unphased :=
    Trunk.circuit_modify_same _ _ hc
  unfold Trunk.peerEvent
  dsimp only
  rw [own]
  rcases h with hs | hs <;> rw [show (t.circuit c).unphased.state = _ from hs] <;> rfl

theorem Trunk.peerEvent_holds (hc : c < 256) (h : (t.circuit c).state = .committed) :
    t.peerEvent x c = (t.modify c Circuit.unphased).hold x c := by
  have own : (t.modify c fun r => { r with peerPhase := none }).circuit c = (t.circuit c).unphased :=
    Trunk.circuit_modify_same _ _ hc
  unfold Trunk.peerEvent
  dsimp only
  rw [own, show (t.circuit c).unphased.state = _ from h]
  rfl

theorem Trunk.peerEvent_idle (hc : c < 256) (h : (t.circuit c).state = .vacant ∨ (t.circuit c).state = .copper ∨
    (t.circuit c).state = .held ∨ (t.circuit c).state = .down) : t.peerEvent x c = t.modify c Circuit.unphased := by
  have own : (t.modify c fun r => { r with peerPhase := none }).circuit c = (t.circuit c).unphased :=
    Trunk.circuit_modify_same _ _ hc
  unfold Trunk.peerEvent
  dsimp only
  rw [own]
  rcases h with hs | hs | hs | hs <;> rw [show (t.circuit c).unphased.state = _ from hs] <;> rfl

/-- Circuit `c` has taken the event with no circuit waiting for a record. -/
structure Trunk.TookEvent (x : Ctx) (c : Nat) (t u : Trunk) : Prop where
  others : t.sameOthers c u
  own : (t.circuit c).tookPeerEvent x.settings x.frame (u.circuit c)
  calendar : u.calendar = t.calendar
  waitQueue : u.waitQueue = []
  gone : (t.circuit c).state.leavesList → u.fallback = withoutRecord c t.fallback
  kept : ¬(t.circuit c).state.leavesList → u.fallback = t.fallback
  reports : t.reports <+: u.reports

theorem Trunk.peerEvent_tookEvent (hc : c < 256) (hq : t.waitQueue = []) (x : Ctx) : t.TookEvent x c (t.peerEvent x c) := by
  have own : (t.modify c Circuit.unphased).circuit c = (t.circuit c).unphased := Trunk.circuit_modify_same _ _ hc
  have others := Trunk.modify_sameOthers c Circuit.unphased t
  have serves : (t.modify c Circuit.unphased).servesNone x c := .inr (.inl hq)
  by_cases hb : (t.circuit c).state.beforeSplice = true
  · rw [Trunk.peerEvent_beforeSplice hc hb, Trunk.abandonWith_none serves]
    have core := (t.modify c Circuit.unphased).abandonCore_abandoned c
    have final := Trunk.abandonCore_circuit hc (t.modify c Circuit.unphased)
    rw [own] at final
    refine ⟨others.trans core.others, ?_, core.calendar, Trunk.abandonCore_waitQueue hq, fun _ => core.fallback,
      fun h => absurd (.inl hb) h, List.prefix_rfl⟩
    rw [final]
    refine ⟨fun _ => ⟨(t.circuit c).unphased.backOnCopper_toCopper, rfl, rfl⟩, fun h => ?_, fun h => ?_, fun h => ?_⟩
    · rcases h with h | h <;> rw [h] at hb <;> cases hb
    · rw [h] at hb
      cases hb
    · rcases h with h | h | h | h <;> rw [h] at hb <;> cases hb
  · by_cases hs : (t.circuit c).state = .spliced ∨ (t.circuit c).state = .revertWait
    · rw [Trunk.peerEvent_reverses hc hs, Trunk.reverseSplice_eq serves]
      have reversed := (t.modify c Circuit.unphased).reversedReported_reversed x c .urgent
      obtain ⟨-, -, l, final⟩ := ((t.modify c Circuit.unphased).reversed x c .urgent).report_frame x c .reverted
        (some (.reverse .urgent)) ((t.modify c Circuit.unphased).verdict x c).2 ((t.modify c Circuit.unphased).verdict x c).1
      rw [Trunk.reversed_circuit hc, own] at final
      have verdict : (t.modify c Circuit.unphased).verdict x c = (t.circuit c).judgeReverse x.settings (x.frame + 1) := by
        unfold Trunk.verdict
        rw [own]
        rfl
      rw [verdict] at final
      obtain ⟨back, kind, flags, fill, switch⟩ := Circuit.backOnCopper_of_reversed final
      refine ⟨others.trans reversed.others, ⟨fun h => absurd h hb, fun _ => ?_, fun h => ?_, fun h => ?_⟩, reversed.calendar,
        reversed.waitQueue.trans hq, fun _ => reversed.fallback, fun h => absurd (.inr hs) h,
        ((t.modify c Circuit.unphased).reversed x c .urgent).report_prefix x c _ _ _ _ |>.trans List.prefix_rfl⟩
      · unfold Trunk.reversedReported
        rw [verdict]
        exact ⟨back, kind, flags, fill, switch⟩
      · rcases hs with hs | hs <;> rw [hs] at h <;> cases h
      · rcases hs with hs | hs <;> rw [hs] at h <;> rcases h with h | h | h | h <;> cases h
    · have stays : ¬(t.circuit c).state.leavesList := fun h => h.elim hb hs
      by_cases hcom : (t.circuit c).state = .committed
      · rw [Trunk.peerEvent_holds hc hcom]
        obtain ⟨rothers, lists, l, final⟩ := ((t.modify c Circuit.unphased).modify c (Circuit.toHeld x.settings.params)).report_frame x
          c .held none none .clear
        rw [Trunk.circuit_modify_same _ _ hc, own] at final
        have final : ((t.modify c Circuit.unphased).hold x c).circuit c = _ :=
          final.trans (Circuit.toHeld_eq x.settings.params (t.circuit c).unphased l)
        refine ⟨(others.trans (Trunk.modify_sameOthers c _ _)).trans rothers, ?_, lists.2.2, lists.2.1.trans hq,
          fun h => absurd h stays, fun _ => lists.1, Trunk.report_prefix x c .held none none .clear
            ((t.modify c Circuit.unphased).modify c (Circuit.toHeld x.settings.params))⟩
        rw [final]
        refine ⟨fun h => absurd h hb, fun h => absurd h hs, fun _ => ⟨rfl, rfl, rfl, rfl, rfl, rfl, rfl, rfl, rfl⟩, fun h => ?_⟩
        rw [hcom] at h
        rcases h with h | h | h | h <;> cases h
      · have idle : (t.circuit c).state = .vacant ∨ (t.circuit c).state = .copper ∨ (t.circuit c).state = .held ∨
            (t.circuit c).state = .down := by
          cases hst : (t.circuit c).state <;> simp_all [CircuitState.beforeSplice]
        rw [Trunk.peerEvent_idle hc idle]
        refine ⟨others, ?_, rfl, hq, fun h => absurd h stays, fun _ => rfl, List.prefix_rfl⟩
        rw [own]
        exact ⟨fun h => absurd h hb, fun h => absurd h hs, fun h => absurd h hcom, fun _ => rfl⟩

/-! ## The event handed to every circuit bound to the station -/

theorem Trunk.boundTo_iff (t : Trunk) (c p : Nat) :
    t.boundTo c p = true ↔ ∃ b, (t.circuit c).binding = some b ∧ b.peer = p := by
  unfold Trunk.boundTo
  cases (t.circuit c).binding with
  | none => exact ⟨nofun, fun ⟨_, h, _⟩ => nomatch h⟩
  | some b => exact decide_eq_true_iff.trans ⟨fun h => ⟨b, rfl, h⟩, fun ⟨b', hb', h⟩ => by cases hb'; exact h⟩

/-- Circuit `d` of the list is bound to the station and leaves the list with the event. -/
def Trunk.dropped (t : Trunk) (cs : List Nat) (p d : Nat) : Prop :=
  d ∈ cs ∧ t.boundTo d p = true ∧ (t.circuit d).state.leavesList

/-- The event handed to the circuits of a list in turn (R127). -/
structure Trunk.Handed (x : Ctx) (p : Nat) (cs : List Nat) (t u : Trunk) : Prop where
  others : ∀ d, d ∉ cs ∨ t.boundTo d p = false → u.circuit d = t.circuit d
  own : ∀ d ∈ cs, t.boundTo d p = true → (t.circuit d).tookPeerEvent x.settings x.frame (u.circuit d)
  calendar : u.calendar = t.calendar
  waitQueue : u.waitQueue = []
  fallback : u.fallback.Sublist t.fallback
  gone : ∀ f ∈ t.fallback, f ∉ u.fallback ↔ t.dropped cs p f.circuit
  reports : t.reports <+: u.reports

theorem Trunk.Handed.nil (hq : t.waitQueue = []) : t.Handed x p [] t where
  others _ _ := rfl
  own _ h := nomatch h
  calendar := rfl
  waitQueue := hq
  fallback := List.Sublist.refl _
  gone _ hf := ⟨fun h => absurd hf h, fun h => nomatch h.1⟩
  reports := List.prefix_rfl

/-- One more circuit takes the event before those of the list. -/
theorem Trunk.Handed.cons {cs : List Nat} (hn : c ∉ cs) (hfirst : t.boundTo c p = true → t.TookEvent x c v)
    (hskip : t.boundTo c p = false → v = t) (h : v.Handed x p cs u) : t.Handed x p (c :: cs) u := by
  have same : ∀ d, d ≠ c → v.circuit d = t.circuit d := by
    intro d hd
    cases hb : t.boundTo c p with
    | true => exact (hfirst hb).others d hd
    | false => rw [hskip hb]
  have bound : ∀ d, d ≠ c → v.boundTo d p = t.boundTo d p := by
    intro d hd
    unfold Trunk.boundTo
    rw [same d hd]
  have mine : u.circuit c = v.circuit c := h.others c (.inl hn)
  have ne {d : Nat} (hd : d ∈ cs) : d ≠ c := fun h => hn (h ▸ hd)
  refine ⟨fun d hd => ?_, fun d hd hb => ?_, ?_, h.waitQueue, ?_, fun f hf => ?_, ?_⟩
  · by_cases hdc : d = c
    · subst hdc
      have unbound : t.boundTo d p = false := hd.elim (fun hd => absurd List.mem_cons_self hd) id
      rw [mine, hskip unbound]
    · have rest : u.circuit d = v.circuit d :=
        h.others d (hd.imp (fun hd hmem => hd (List.mem_cons_of_mem _ hmem)) fun hd => by rw [bound d hdc]; exact hd)
      rw [rest, same d hdc]
  · rcases List.mem_cons.mp hd with rfl | hd
    · rw [mine]
      exact (hfirst hb).own
    · have took := h.own d hd (by rw [bound d (ne hd)]; exact hb)
      rwa [same d (ne hd)] at took
  · cases hb : t.boundTo c p with
    | true => exact h.calendar.trans (hfirst hb).calendar
    | false => exact h.calendar.trans (by rw [hskip hb])
  · refine h.fallback.trans ?_
    cases hb : t.boundTo c p with
    | true =>
      by_cases hl : (t.circuit c).state.leavesList
      · rw [(hfirst hb).gone hl]
        exact List.filter_sublist
      · rw [(hfirst hb).kept hl]
    | false => rw [hskip hb]
  · by_cases hfc : f.circuit = c
    · -- the record of this circuit goes exactly when the circuit itself takes the event so
      have rest : ∀ g ∈ v.fallback, g.circuit = c → g ∈ u.fallback := by
        intro g hg hgc
        by_contra hgone
        exact hn (hgc ▸ ((h.gone g hg).mp hgone).1)
      constructor
      · intro hgone
        have goneFirst : f ∉ v.fallback := fun hmem => hgone (rest f hmem hfc)
        cases hb : t.boundTo c p with
        | true =>
          refine ⟨by rw [hfc]; exact List.mem_cons_self, by rw [hfc]; exact hb, ?_⟩
          rw [hfc]
          by_contra hl
          exact goneFirst (by rw [(hfirst hb).kept hl]; exact hf)
        | false => exact absurd (by rw [hskip hb]; exact hf) goneFirst
      · rintro ⟨-, hb, hl⟩ hmem
        rw [hfc] at hb hl
        have hmem := h.fallback.subset hmem
        rw [(hfirst hb).gone hl] at hmem
        exact absurd hfc (by simpa using (List.mem_filter.mp hmem).2)
    · have stays : f ∈ v.fallback := by
        cases hb : t.boundTo c p with
        | true =>
          by_cases hl : (t.circuit c).state.leavesList
          · rw [(hfirst hb).gone hl]
            exact List.mem_filter.mpr ⟨hf, by simpa using hfc⟩
          · rw [(hfirst hb).kept hl]
            exact hf
        | false => rw [hskip hb]; exact hf
      rw [h.gone f stays]
      unfold Trunk.dropped
      rw [bound _ hfc, same _ hfc, List.mem_cons]
      exact and_congr_left fun _ => ⟨.inr, fun h => h.resolve_left hfc⟩
  · cases hb : t.boundTo c p with
    | true => exact (hfirst hb).reports.trans h.reports
    | false => rw [← hskip hb]; exact h.reports

theorem Trunk.handed_foldl (x : Ctx) (p : Nat) (cs : List Nat) : ∀ (t : Trunk), t.waitQueue = [] → cs.Nodup → (∀ c ∈ cs, c < 256) →
    t.Handed x p cs (cs.foldl (fun t c => if t.boundTo c p then t.peerEvent x c else t) t) := by
  induction cs with
  | nil => exact fun t hq _ _ => .nil hq
  | cons c cs ih =>
    intro t hq hnodup hlt
    obtain ⟨hn, hnodup⟩ := List.nodup_cons.mp hnodup
    have took := Trunk.peerEvent_tookEvent (hlt c List.mem_cons_self) hq x
    have first (hb : t.boundTo c p = true) : (if t.boundTo c p then t.peerEvent x c else t) = t.peerEvent x c := if_pos hb
    have skip (hb : t.boundTo c p = false) : (if t.boundTo c p then t.peerEvent x c else t) = t := if_neg (by rw [hb]; decide)
    refine .cons hn (fun hb => by rw [first hb]; exact took) skip
      (ih _ ?_ hnodup fun d hd => hlt d (List.mem_cons_of_mem _ hd))
    cases hb : t.boundTo c p with
    | true => exact took.waitQueue
    | false => exact hq

theorem Trunk.peerEvents_handed (hq : t.waitQueue = []) (x : Ctx) (p : Nat) :
    t.Handed x p (List.range 256) (t.peerEvents x p) :=
  Trunk.handed_foldl x p _ t hq List.nodup_range fun _ hc => List.mem_range.mp hc

/-- The words of the statement. -/
theorem Trunk.Handed.handedPeerEvent {w : State} (h : t.Handed x p (List.range 256) u)
    (hcircuits : ∀ d, t.circuit d = s.circuit d) (hcal : t.calendar = s.trunk.calendar)
    (hfallback : t.fallback = s.trunk.fallback) (hsettings : x.settings = s.settings) (hframe : x.frame = s.frame)
    (hw : ∀ d, w.circuit d = u.circuit d) (hwlists : u.sameLists w.trunk) : s.handedPeerEvent p w := by
  obtain ⟨wfallback, wqueue, wcalendar⟩ := hwlists
  have bound (d : Nat) : t.boundTo d p = true ↔ ∃ b, (s.circuit d).binding = some b ∧ b.peer = p := by
    rw [Trunk.boundTo_iff, hcircuits]
  refine ⟨fun c hc => ⟨fun hunbound => ?_, fun b hb hp => ?_⟩, wcalendar.trans (h.calendar.trans hcal), wqueue.trans h.waitQueue, ?_,
    fun f hf => ?_⟩
  · rw [hw, h.others c (.inr ?_), hcircuits]
    rw [← Bool.not_eq_true, bound]
    rintro ⟨b, hb, hp⟩
    exact hunbound b hb hp
  · have took := h.own c (List.mem_range.mpr hc) ((bound c).mpr ⟨b, hb, hp⟩)
    rwa [hcircuits, hsettings, hframe, ← hw] at took
  · rw [wfallback, ← hfallback]
    exact h.fallback
  · rw [wfallback, h.gone f (hfallback ▸ hf)]
    unfold Trunk.dropped
    rw [bound, hcircuits, List.mem_range]
    refine ⟨fun ⟨_, hb, hl⟩ => ⟨hb, hl⟩, fun ⟨hb, hl⟩ => ⟨?_, hb, hl⟩⟩
    by_contra hout
    obtain ⟨b, hb, -⟩ := hb
    rw [show s.circuit f.circuit = Circuit.start from if_neg hout] at hb
    cases hb

/-! ## The loss and the restart -/

theorem Trunk.reportStation_circuit (x : Ctx) (p : Nat) (k : ReportKind) (t : Trunk) (d : Nat) :
    (t.reportStation x p k).circuit d = t.circuit d := by
  unfold Trunk.reportStation Trunk.enterReport
  split <;> rfl

theorem Trunk.reportStation_sameLists (x : Ctx) (p : Nat) (k : ReportKind) (t : Trunk) : t.sameLists (t.reportStation x p k) := by
  unfold Trunk.reportStation Trunk.enterReport
  split <;> exact ⟨rfl, rfl, rfl⟩

theorem Trunk.reportStation_reports (x : Ctx) (p : Nat) (k : ReportKind) (t : Trunk) :
    (t.reportStation x p k).reports =
      if t.reports.length < 64 then t.reports ++ [aboutStation x.cycles p k] else t.reports := by
  unfold Trunk.reportStation Trunk.enterReport
  split <;> rfl

theorem PeerEntry.lossDue_iff (e : PeerEntry) : e.lossDue = true ↔ e.state = .present ∧ 4 ≤ e.miss := by
  unfold PeerEntry.lossDue
  rw [Bool.and_eq_true, beq_iff_eq, decide_eq_true_eq]

/-- A present or lost station whose cycle count went back is a restart (R124). -/
theorem State.judgeBeacon_of_restart {n m : Nat} (habsent : (s.peer p).state ≠ .absent) (hm : (s.peer p).cycles = some m)
    (hlt : n < m) : s.judgeBeacon p n = s.peerRestart p := by
  unfold State.judgeBeacon
  rw [hm]
  cases hs : (s.peer p).state with
  | absent => exact absurd hs habsent
  | present => exact if_pos hlt
  | lost => exact if_pos hlt

theorem State.peerRestart_eq (p : Nat) (s : State) :
    s.peerRestart p = { s with trunk := (s.trunk.peerEvents s.ctx p).reportStation s.ctx p .peerRestart } := rfl

/-- Settles O34: the event is taken by the circuits one after another, each in its own record and list places; with none
waiting the removals serve no one. -/
theorem peerLossAndRestartHandedToCircuits : Obligations.PeerLossAndRestartHandedToCircuits := by
  refine ⟨?_, fun s p n place htakes hhead hkind hbody hmask hdue habsent hn hlt hq => ?_⟩
  · intro s p u
    refine ⟨fun hp _ hmiss hq => ?_, fun hnot => ?_⟩
    · have due : (u.peer p).lossDue = true := (PeerEntry.lossDue_iff _).mpr ⟨hp, hmiss⟩
      let w := u.setPeer p { u.peer p with state := .lost }
      let t := u.trunk.reportStation w.ctx p .peerLost
      have lost : exec (.peerLoss p) s = .next { w with trunk := t.peerEvents w.ctx p } := congrArg Host.Outcome.next (if_pos due)
      have lists := u.trunk.reportStation_sameLists w.ctx p .peerLost
      have handed := Trunk.peerEvents_handed (t := t) (lists.2.1.trans hq) w.ctx p
      obtain ⟨rest, hrest⟩ := handed.reports
      revert lost handed hrest
      generalize t.peerEvents w.ctx p = v
      intro lost handed hrest
      refine ⟨_, rest, lost, ?_, fun q hq => ?_, rfl,
        handed.handedPeerEvent (Trunk.reportStation_circuit _ _ _ _) lists.2.2 lists.1 rfl rfl (fun _ => rfl) ⟨rfl, rfl, rfl⟩, ?_⟩
      · exact (State.peer_setPeer p p { u.peer p with state := .lost } u).trans (if_pos rfl)
      · exact (State.peer_setPeer p q { u.peer p with state := .lost } u).trans (if_neg hq)
      · rw [← hrest, Trunk.reportStation_reports]
        rfl
    · refine congrArg Host.Outcome.next (State.losePeer_of_not ?_)
      rw [← Bool.not_eq_true, PeerEntry.lossDue_iff]
      exact fun ⟨hp, hmiss⟩ => hnot.elim (· hp) (Nat.not_lt.mpr hmiss)
  · have next := exec_beacon_of_good htakes hhead hkind hbody
    rw [hmask, if_pos rfl, State.takeBeacon_eq p place hdue, State.judgeBeacon_of_restart habsent hn hlt,
      State.peerRestart_eq] at next
    have handed := Trunk.peerEvents_handed hq s.ctx p
    have lists := (s.trunk.peerEvents s.ctx p).reportStation_sameLists s.ctx p .peerRestart
    have reports := (s.trunk.peerEvents s.ctx p).reportStation_reports s.ctx p .peerRestart
    revert next handed lists reports
    generalize s.trunk.peerEvents s.ctx p = u
    intro next handed lists reports
    have circuits := u.reportStation_circuit s.ctx p .peerRestart
    revert next lists reports circuits
    generalize u.reportStation s.ctx p .peerRestart = v
    intro next lists reports circuits
    obtain ⟨own, others, rest, trunk, matched⟩ := s.afterBeacon_of_trunk p place v
    obtain ⟨more, hmore⟩ := handed.reports
    have reports := (congrArg Trunk.reports trunk).trans reports
    refine ⟨_, next, own, others, rest, matched, handed.handedPeerEvent (fun _ => rfl) rfl rfl rfl rfl
      (fun d => (congrArg (Trunk.circuit · d) trunk).trans (circuits d)) (trunk.symm ▸ lists), ?_, ?_⟩
    · rw [reports, ← hmore]
      split
      · exact ⟨_, List.append_assoc _ _ _⟩
      · exact ⟨_, rfl⟩
    · rw [reports]
      split
      next h => exact .inl List.getLast?_concat
      next h => exact .inr (Nat.not_lt.mp h)

end Sys2Proof.Machine
end

section
/-! R73, R74, R84 to R87: the leads of a ring, the deficit, and the judgement of a reverse splice. -/

namespace Sys2Proof.Machine

variable {r : Circuit} {o q first : Word} {n : Nat}

/-! ## Leads -/

/-- The smallest lead of a ring is one of its leads, and no other is smaller (R73). -/
theorem leadMin_spec (o : Word) : ∀ {ring : List Word}, ring ≠ [] →
    ∃ m, leadMin o ring = some m ∧ (∀ e ∈ ring, m ≤ (o - e).toInt) ∧ ∃ e ∈ ring, (o - e).toInt = m := by
  intro ring
  induction ring with
  | nil => exact fun h => absurd rfl h
  | cons e es ih =>
    intro _
    cases es with
    | nil => exact ⟨_, rfl, fun a ha => Int.le_of_eq (by rw [List.mem_singleton.mp ha]; rfl), e, List.mem_singleton.mpr rfl, rfl⟩
    | cons e' es' =>
      obtain ⟨m, hm, least, a, ha, attained⟩ := ih (by nofun)
      have lead : leadMin o (e :: e' :: es') = some (min (diff o e) m) := by
        conv_lhs => unfold leadMin
        rw [hm]
      refine ⟨_, lead, fun y hy => ?_, ?_⟩
      · rcases List.mem_cons.mp hy with rfl | hy
        · exact Int.min_le_left _ _
        · exact (Int.min_le_right _ _).trans (least y hy)
      · rcases Int.le_total (diff o e) m with hle | hle
        · exact ⟨e, List.mem_cons_self, (Int.min_eq_left hle).symm⟩
        · exact ⟨a, List.mem_cons_of_mem _ ha, attained.trans (Int.min_eq_right hle).symm⟩

theorem Circuit.deficitNow_eq {p : Params} {m : Int} (ho : r.align.offset = some o) (hm : leadMin o r.ring = some m) :
    r.deficitNow p = some ((p.guard : Int) - m).toNat := by
  unfold Circuit.deficitNow
  rw [ho]
  dsimp only
  rw [hm]

/-! ## The skipped range -/

theorem Circuit.judgeReverse_blind (st : Settings) (q : Word) (h : r.align.offset = none) :
    r.judgeReverse st q = (⟨false, true, false⟩, none) := by
  unfold Circuit.judgeReverse Circuit.skipped
  rw [h]

/-- R85: within the fill frames of a splice the range begins at P. -/
theorem Circuit.skipped_filling {run : FillRun} (ho : r.align.offset = some o) (hf : r.splice.fill = some run)
    (h : (q - 1 - run.start).toInt < run.count) : r.skipped q = some (run.start - o, (q - run.start).toNat) := by
  have runs : r.fillRuns (q - 1) = true := by
    unfold Circuit.fillRuns
    rw [hf]
    exact decide_eq_true h
  unfold Circuit.skipped
  rw [ho, if_pos runs, hf]

/-- R84: with no fill frames running the range begins at Q − O′. -/
theorem Circuit.skipped_playing {o' : Word} (ho : r.align.offset = some o)
    (hf : ∀ run, r.splice.fill = some run → (run.count : Int) ≤ (q - 1 - run.start).toInt) (hp : r.splice.playOffset = some o') :
    r.skipped q = some (q - o', (o' - o).toNat) := by
  have idle : r.fillRuns (q - 1) = false := by
    unfold Circuit.fillRuns
    split
    next run hrun => exact decide_eq_false (Int.not_lt.mpr (hf run hrun))
    next => rfl
  unfold Circuit.skipped
  rw [ho, if_neg (by rw [idle]; decide)]
  dsimp only
  rw [hp]

/-- R86: a sample of the skipped range counts as active when it is, or when it is absent. -/
theorem Circuit.lostAt_iff (st : Settings) (r : Circuit) (w : Word) :
    r.lostAt st w = true ↔ r.playoutAt w = none ∨ ∃ smp, r.playoutAt w = some smp ∧ isActive st smp = true := by
  unfold Circuit.lostAt
  cases r.playoutAt w with
  | none => simp
  | some smp => simp

theorem Circuit.judgeReverse_skipped (st : Settings) (h : r.skipped q = some (first, n)) :
    ∃ fl, r.judgeReverse st q = (fl, some n) ∧ fl.blind = false ∧ fl.activityGap = false ∧
      (fl.lostActivity = true ↔ ∃ k, k < n ∧ (r.playoutAt (first + BitVec.ofNat 16 k) = none ∨
        ∃ smp, r.playoutAt (first + BitVec.ofNat 16 k) = some smp ∧ isActive st smp = true)) := by
  refine ⟨⟨(List.range n).any (fun i => r.lostAt st (first + BitVec.ofNat 16 i)), false, false⟩, ?_, rfl, rfl, ?_⟩
  · unfold Circuit.judgeReverse
    rw [h]
  · rw [List.any_eq_true]
    constructor
    · rintro ⟨k, hk, hl⟩
      exact ⟨k, List.mem_range.mp hk, (r.lostAt_iff st _).mp hl⟩
    · rintro ⟨k, hk, hl⟩
      exact ⟨k, List.mem_range.mpr hk, (r.lostAt_iff st _).mpr hl⟩

/-- Settles O35: the deficit is measured from the smallest lead of the ring, and the skipped range from the fill frames that
run or from O′. -/
theorem deficitAndReverseJudgement : Obligations.DeficitAndReverseJudgement := by
  refine ⟨fun p r o ho hring => ?_, fun st q r => ⟨Circuit.judgeReverse_blind st q, fun o first n ho h => ?_⟩⟩
  · obtain ⟨m, hm, least, a, ha, attained⟩ := leadMin_spec o hring
    refine ⟨_, Circuit.deficitNow_eq ho hm, fun e he => ?_, fun k hk => ⟨a, ha, ?_⟩⟩
    · have lead := least e he
      omega
    · rw [attained]
      omega
  · refine Circuit.judgeReverse_skipped st ?_
    rcases h with ⟨run, hf, hrun, rfl, rfl⟩ | ⟨hf, o', hp, rfl, rfl⟩
    · exact Circuit.skipped_filling ho hf hrun
    · exact Circuit.skipped_playing ho hf hp

end Sys2Proof.Machine
end

section
/-! R76, R78, R88: quiet runs. -/

namespace Sys2Proof.Machine

variable {s t u : State} {x : Ctx} {c : Nat} {r r' : Circuit} {b : Binding}

/-! ## A slot that is given -/

theorem Circuit.guardEnd_state (r : Circuit) : r.guardEnd.state = r.state := by
  unfold Circuit.guardEnd
  split
  · split <;> rfl
  · rfl

theorem Circuit.fillEnd_state (f : Word) (r : Circuit) : (r.fillEnd f).state = r.state := by
  unfold Circuit.fillEnd
  split
  · split <;> rfl
  · rfl

theorem Circuit.ended_state (x : Ctx) (r : Circuit) : (r.ended x).state = r.state :=
  (Circuit.fillEnd_state _ _).trans r.guardEnd_state

/-- The end of a guard is no part of the sample (R40). -/
theorem Circuit.guardEnd_slotSample (x : Ctx) (c : Nat) (r : Circuit) : r.guardEnd.slotSample x c = r.slotSample x c := by
  unfold Circuit.guardEnd
  split
  · split <;> rfl
  · rfl

theorem Circuit.guardEnd_fill (r : Circuit) : r.guardEnd.splice.fill = r.splice.fill := by
  unfold Circuit.guardEnd
  split
  · split <;> rfl
  · rfl

/-- In a frame that is not the last of a fill run the slot gives the sample of its own source. -/
theorem Circuit.ended_slotSample (c : Nat) (h : ∀ run, r.splice.fill = some run → x.frame - run.start ≠ BitVec.ofNat 16 run.count) :
    (r.ended x).slotSample x c = r.slotSample x c := by
  have filled : r.guardEnd.fillEnd x.frame = r.guardEnd :=
    Circuit.fillEnd_of_not fun run hrun _ => h run (r.guardEnd_fill.symm.trans hrun)
  unfold Circuit.ended
  rw [filled, Circuit.guardEnd_slotSample]

theorem Circuit.slotSample_copper (h : r.path.source = .copper) : r.slotSample x c = (slotOf x.legacyIn c).sample := by
  unfold Circuit.slotSample
  rw [h]

theorem Circuit.slotSample_idle (h : r.path.source = .fill ∨ r.path.source = .outOfService) :
    r.slotSample x c = idleCodeOf x.settings.law := by
  unfold Circuit.slotSample
  rcases h with h | h <;> rw [h]

theorem Circuit.slotSample_fibre {p : Word} {smp : Byte} (h : r.path.source = .fibre p)
    (hs : r.playoutAt (x.frame - p) = some smp) : r.slotSample x c = smp := by
  unfold Circuit.slotSample
  rw [h]
  dsimp only
  rw [hs]

theorem Circuit.slotSample_concealed
    (h : (∃ p, r.path.source = .fibre p ∧ r.playoutAt (x.frame - p) = none) ∨ r.path.source = .holdover) :
    r.slotSample x c = if r.path.runCount < 40 then r.path.lastSample else idleCodeOf x.settings.law := by
  unfold Circuit.slotSample
  rcases h with ⟨p, hp, hs⟩ | h
  · rw [hp]
    dsimp only
    rw [hs]
    rfl
  · rw [h]
    rfl

/-- R76, R78, R88: the update that the sample of a given slot makes. -/
theorem Circuit.giveSlot_ripe (r : Circuit) (x : Ctx) (c : Nat) :
    (r.giveSlot x c).splice.ripe = true ↔ (r.state = .spliceWait ∨ r.state = .revertWait) ∧
      x.settings.params.qmin ≤ (r.giveSlot x c).splice.quietRun := by
  have ripe : (r.giveSlot x c).splice.ripe = (r.ended x).isRipe x.settings (r.giveSlot x c).splice.quietRun := rfl
  rw [ripe]
  unfold Circuit.isRipe
  rw [Circuit.ended_state, Bool.and_eq_true, Bool.or_eq_true, beq_iff_eq, beq_iff_eq, decide_eq_true_eq]

theorem Circuit.giveSlot_state (x : Ctx) (c : Nat) (r : Circuit) : (r.giveSlot x c).state = r.state := r.ended_state x

theorem quietAfter_eq (st : Settings) (smp : Byte) (n : Nat) :
    quietAfter st smp n = if isActive st smp = true then 0 else min (n + 1) 400 := rfl

/-! ## Where a slot is given -/

theorem Circuit.giveOnce_of_not (h : r.path.given = false) (x : Ctx) (c : Nat) : r.giveOnce x c = r.giveSlot x c :=
  if_neg (by rw [h]; decide)

theorem State.giveSlotNow_circuit (hc : c < 256) (h : (s.circuit c).path.given = false) :
    (s.giveSlotNow c).circuit c = (s.circuit c).giveSlot s.ctx c := by
  unfold State.giveSlotNow
  rw [if_neg (by rw [h]; decide), State.onTrunk_modify_circuit (fun x r => r.giveOnce x c) s hc]
  exact Circuit.giveOnce_of_not h s.ctx c

theorem State.giveAll_circuit (hselect : s.todo.select = true) (hc : c < 256) (h : (s.circuit c).path.given = false) :
    s.giveAll.circuit c = (s.circuit c).giveSlot s.ctx c := by
  unfold State.giveAll
  rw [if_pos hselect]
  show (s.trunk.mapCircuits fun c r => r.giveOnce s.ctx c).circuit c = _
  rw [Trunk.circuit_mapCircuits, if_pos hc]
  exact Circuit.giveOnce_of_not h s.ctx c

/-- A slot that is due among the commands of the frame (log 39). -/
theorem step_slot {ws : List Work} (hp : s.pending = []) (hselect : s.todo.select = true) (hb : s.todo.between = .slot c :: ws) :
    step s = .next { s with
      todo := { s.todo with between := ws }, trunk := s.trunk.modify c (fun r => r.giveEarly s.ctx c) } := by
  rw [step_of_idle hp, State.tick_of_cons hb]
  exact congrArg Host.Outcome.next (if_pos hselect)

theorem Circuit.giveEarly_of_not (h : r.path.given = false) (hs : ∀ p, r.path.source ≠ .fibre p) (x : Ctx) (c : Nat) :
    r.giveEarly x c = r.giveSlot x c := by
  have plays : r.path.source.readsBuffer = false := by
    cases hsrc : r.path.source with
    | fibre p => exact absurd hsrc (hs p)
    | _ => rfl
  exact (if_neg (by rw [plays]; decide)).trans (Circuit.giveOnce_of_not h x c)

theorem State.giveSlotNow_only (c : Nat) (s : State) : s.trunk.onlyRecord c (s.giveSlotNow c).trunk := by
  unfold State.giveSlotNow
  split
  · exact ⟨fun _ _ => rfl, ⟨rfl, rfl, rfl⟩, rfl, rfl⟩
  · exact ⟨Trunk.modify_sameOthers c _ _, ⟨rfl, rfl, rfl⟩, rfl, rfl⟩

/-! ## What a quiet run decides -/

theorem State.onTrunk_of_eq {f : Ctx → Trunk → Trunk} {v : Trunk} (h : f s.ctx s.trunk = v) : s.onTrunk f = { s with trunk := v } := by
  rw [← h]
  rfl

theorem exec_quietRunSplice_ripe (hu : u = s.giveSlotNow c) (hs : (u.circuit c).state = .spliceWait)
    (hr : (u.circuit c).splice.ripe = true) {d : Nat} (hd : (u.circuit c).splice.deficit = some d) :
    exec (.quietRunSplice c) s = .next { u with trunk := u.trunk.spliceAndServe u.ctx c .quiet d false } := by
  subst hu
  have quiet : (s.giveSlotNow c).trunk.quietSplice (s.giveSlotNow c).ctx c =
      (s.giveSlotNow c).trunk.spliceAndServe (s.giveSlotNow c).ctx c .quiet d false :=
    (if_pos ⟨hs, hr⟩).trans (congrArg (fun n => Trunk.spliceAndServe _ c .quiet n false _) (congrArg (Option.getD · 0) hd))
  refine congrArg Host.Outcome.next ((if_pos ((State.ripeIn_iff _ c _).mpr ⟨hs, hr⟩)).trans ?_)
  exact State.onTrunk_of_eq quiet

theorem exec_quietRunReverseSplice_ripe (hu : u = s.giveSlotNow c) (hs : (u.circuit c).state = .revertWait)
    (hr : (u.circuit c).splice.ripe = true) :
    exec (.quietRunReverseSplice c) s = .next { u with trunk := u.trunk.reverseSplice u.ctx c .planned } := by
  subst hu
  have quiet : (s.giveSlotNow c).trunk.quietReverse (s.giveSlotNow c).ctx c =
      (s.giveSlotNow c).trunk.reverseSplice (s.giveSlotNow c).ctx c .planned := if_pos ⟨hs, hr⟩
  refine congrArg Host.Outcome.next ((if_pos ((State.ripeIn_iff _ c _).mpr ⟨hs, hr⟩)).trans ?_)
  exact State.onTrunk_of_eq quiet

theorem State.ripeIn_eq_false {st : CircuitState} (h : (s.circuit c).state ≠ st ∨ (s.circuit c).splice.ripe = false) :
    s.ripeIn st c = false := by
  rw [← Bool.not_eq_true, State.ripeIn_iff]
  rintro ⟨hs, hr⟩
  rcases h with h | h
  · exact h hs
  · rw [hr] at h
    cases h

/-- Settles O36: the sample of the slot updates the count, and the update that finds Qmin splices or reverses. -/
theorem quietRunsDecide : Obligations.QuietRunsDecide := by
  refine ⟨?_, ?_, fun s u c r hr hc hgiven h => ?_, ?_⟩
  · intro s c d o b u hc hb
    refine ⟨fun hs hripe ho hd hrec hquiet => ?_, fun h =>
      congrArg Host.Outcome.next (if_neg (by rw [State.ripeIn_eq_false h]; decide))⟩
    obtain ⟨f, hf⟩ := hrec
    have done := exec_quietRunSplice_ripe (u := u) rfl hs hripe hd
    have spliced := Trunk.splice_spliced u.ctx .quiet d false hc hb
    have still : u.trunk.spliceAndServe u.ctx c .quiet d false = u.trunk.splice u.ctx c .quiet d false := by
      refine Trunk.serveLive_of_not (Trunk.rollServes_eq_false ?_)
      rw [spliced.waitQueue]
      rcases hquiet with h | h | h
      · exact .inr (.inl h)
      · exact .inr (.inr (.inl h))
      · exact .inl h
    rw [still] at done
    generalize u.trunk.splice u.ctx c .quiet d false = v at spliced done
    have fallback := spliced.fallback.trans (Trunk.recordLive_fallback_of_some hf u.ctx)
    have own := spliced.circuit
    have entered := spliced.entered
    rw [Circuit.spliced_of_offset (r := u.trunk.circuit c) ho] at own entered
    have final : ({ u with trunk := v } : State).circuit c = _ := own
    refine ⟨_, done, rfl, spliced.others, spliced.waitQueue, spliced.calendar, ?_⟩
    rw [final]
    exact ⟨rfl, rfl, rfl, rfl, rfl, rfl, rfl, ho, rfl, rfl, rfl,
      (congrArg (List.map FallbackRecord.circuit) fallback).trans (madeLive_circuits _ _ _),
      fun g hg hne => fallback ▸ mem_madeLive_of_ne hg hne u.ctx, Trunk.liveOf_madeLive hf fallback, entered⟩
  · intro s c b u hc hb hserve
    refine ⟨fun hs hripe => ?_, fun h => congrArg Host.Outcome.next (if_neg (by rw [State.ripeIn_eq_false h]; decide))⟩
    have done := exec_quietRunReverseSplice_ripe (u := u) rfl hs hripe
    obtain ⟨reversed, own, entered⟩ := Trunk.reverseSplice_reported hserve.trunk .planned hc hb
    obtain ⟨back, kind, flags, fill, switch⟩ := Circuit.backOnCopper_of_reversed own
    exact ⟨_, done, rfl, reversed.others, back, kind, flags, fill, switch, reversed.fallback, reversed.waitQueue,
      reversed.calendar, entered⟩
  · subst hr
    have own : u.circuit c = (s.circuit c).giveSlot s.ctx c := by
      rcases h with rfl | ⟨rfl, hselect⟩ | ⟨hp, hselect, ⟨ws, hb⟩, hsource, hstep⟩
      · exact State.giveSlotNow_circuit hc hgiven
      · exact State.giveAll_circuit hselect hc hgiven
      · obtain rfl := Host.Outcome.next.inj ((step_slot hp hselect hb).symm.trans hstep)
        exact (Trunk.circuit_modify_same _ _ hc).trans (Circuit.giveEarly_of_not hgiven hsource s.ctx c)
    have given := (s.circuit c).giveSlot_given s.ctx c
    have state := (s.circuit c).giveSlot_state s.ctx c
    have ripe := (s.circuit c).giveSlot_ripe s.ctx c
    rw [← own] at given state ripe
    generalize u.circuit c = r' at given state ripe
    refine ⟨given.given, state, fun hfill => ?_, ?_, ripe⟩
    · have sample : r'.path.rx.sample = (s.circuit c).slotSample s.ctx c :=
        (congrArg Signal.sample given.rx).trans (Circuit.ended_slotSample c hfill)
      rw [sample]
      refine ⟨fun h => ?_, fun h => ?_, fun p smp h hs => ?_, fun h => ?_⟩
      · exact Circuit.slotSample_copper h
      · exact Circuit.slotSample_idle h
      · exact Circuit.slotSample_fibre h hs
      · exact Circuit.slotSample_concealed h
    · rw [given.quietRun, given.rx, quietAfter_eq]
      rfl
  · rintro s u c hc (rfl | ⟨hp, hselect, ⟨ws, hb⟩, hstep⟩)
    · exact s.giveSlotNow_only c
    · obtain rfl := Host.Outcome.next.inj ((step_slot hp hselect hb).symm.trans hstep)
      exact ⟨Trunk.modify_sameOthers c _ _, ⟨rfl, rfl, rfl⟩, rfl, rfl⟩

end Sys2Proof.Machine
end

section
/-! R12, R13, R74, R75: what the arrival of a cell brings at the splice unit. -/

namespace Sys2Proof.Machine

variable {s : State} {t u v w : Trunk} {x : Ctx} {c : Nat} {r r' : Circuit} {b : Binding} {place : List Byte} {ph : Phase}

/-- The record of a circuit whose cell has been heard and worked on outside BRIDGING, before what the arrival brings. -/
def Circuit.stockedFrom (f : Word) (place : List Byte) (ph : Phase) (r : Circuit) : Circuit :=
  { (r.heard place).storePhase ph with
    ring := pushRing r.ring (f - ssnOf place)
    playout := ((r.heard place).storePhase ph).written place
    align := { r.align with judging := judgingAfter f (ssnOf place) r.align.obase r.align.judging } }

theorem Trunk.stocked_stockedFrom (hc : c < 256) (hs : (t.circuit c).state ≠ .bridging) (x : Ctx) :
    (t.stocked x c place ph).circuit c = (t.circuit c).stockedFrom x.frame place ph := by
  rw [Trunk.stocked_circuit hc]
  exact Circuit.bridgeWork_of_not_bridging hs

/-- The deficit is that of O and of the ring with the cell's arrival offset. -/
theorem Circuit.stockedFrom_deficitNow (f : Word) (p : Params) (r : Circuit) :
    (r.stockedFrom f place ph).deficitNow p = ({ r with ring := pushRing r.ring (f - ssnOf place) } : Circuit).deficitNow p := rfl

/-! ## An arrival in SPLICE_WAIT -/

theorem Trunk.arrive_waiting (hs : (t.circuit c).state = .spliceWait) (x : Ctx) : t.arrive x c = t.arriveWaiting x c := by
  unfold Trunk.arrive
  rw [hs]

/-- The trunk in which circuit `c` has deficit `d`. -/
def Trunk.withDeficit (c d : Nat) (t : Trunk) : Trunk := t.modify c fun r => { r with splice := { r.splice with deficit := some d } }

theorem Trunk.arriveWaiting_of_deficit {d : Nat} (hd : (t.circuit c).deficitNow x.settings.params = some d) :
    t.arriveWaiting x c =
      if x.settings.params.dmax < d then ((t.removeRecord c).delayExcess x c d).serve x
      else if d = 0 then t.spliceAndServe x c .seamless 0 false
      else if x.settings.params.idleQualify ≤ (t.circuit c).align.idleQualify then
        (t.withDeficit c d).spliceAndServe x c .idle d false
      else t.withDeficit c d := by
  unfold Trunk.arriveWaiting
  dsimp only
  rw [hd]
  rfl

/-- With no circuit waiting a record that becomes LIVE serves no one (R101). -/
theorem Trunk.Spliced.serveLive {k : SpliceKind} {d : Nat} {gap : Bool} (h : t.Spliced x c b k d gap v) (hq : t.waitQueue = []) :
    v.serveLive x = v :=
  Trunk.serveLive_of_not (Trunk.rollServes_eq_false (.inr (.inr (.inl (h.waitQueue.trans hq)))))

/-- Settles O37: the deficit decides between delay excess, the SEAMLESS splice, the IDLE splice and a further wait. -/
theorem arrivalInSpliceWait : Obligations.ArrivalInSpliceWait := by
  intro s p c place ph b o d hdel hs hph hb ho hrec hd hq
  obtain ⟨f, hf⟩ := hrec
  have hc : c < 256 := hdel.2.1
  have only := s.trunk.stocked_only s.ctx c place ph
  have own := Trunk.stocked_stockedFrom (place := place) (ph := ph) hc (t := s.trunk)
    (by rw [show (s.trunk.circuit c).state = _ from hs]; decide) s.ctx
  have arrived : (s.trunk.stocked s.ctx c place ph).arrive s.ctx c = (s.trunk.stocked s.ctx c place ph).arriveWaiting s.ctx c :=
    Trunk.arrive_waiting (by rw [own]; exact hs) s.ctx
  have done := exec_bearerCell_afterCell hdel
  rw [Trunk.afterCell_beforeSplice hc (by rw [show (s.trunk.circuit c).state = _ from hs]; rfl) hph, arrived,
    Trunk.arriveWaiting_of_deficit (d := d) (by rw [own]; exact hd)] at done
  generalize s.trunk.stocked s.ctx c place ph = w at only own done
  obtain ⟨others, ⟨hfallback, hqueue, hcalendar⟩, hreports, hoverflow⟩ := only
  have bound : (w.circuit c).binding = some b := by rw [own]; exact hb
  have offset : (w.circuit c).align.offset = some o := by rw [own]; exact ho
  by_cases hx : s.settings.params.dmax < d
  · rw [if_pos (show s.ctx.settings.params.dmax < d from hx)] at done
    have exceeded := Trunk.delayExcess_exceeded (t := w.removeRecord c) s.ctx d hc bound
    rw [Trunk.serve_of_empty (exceeded.lists.2.1.trans (hqueue.trans hq))] at done
    generalize (w.removeRecord c).delayExcess s.ctx c d = v at exceeded done
    have final : ({ s with trunk := v } : State).circuit c = _ := exceeded.circuit.trans (by
      rw [show (w.removeRecord c).circuit c = _ from own])
    refine ⟨_, done, rfl, others.trans exceeded.others, exceeded.lists.2.1.trans (hqueue.trans hq),
      exceeded.lists.2.2.trans hcalendar, ?_⟩
    rw [final]
    refine ⟨rfl, rfl, fun _ => ⟨rfl, rfl, ?_, exceeded.entered.of_reports hreports hoverflow⟩, fun h => by omega,
      fun _ h => by omega, fun _ h => by omega⟩
    rw [← hfallback]
    exact exceeded.lists.1.trans (w.removeRecord_fallback c)
  rw [if_neg (show ¬ s.ctx.settings.params.dmax < d from hx)] at done
  by_cases hz : d = 0
  · subst hz
    rw [if_pos rfl] at done
    have spliced := Trunk.splice_spliced s.ctx .seamless 0 false hc bound
    unfold Trunk.spliceAndServe at done
    rw [spliced.serveLive (hqueue.trans hq)] at done
    generalize w.splice s.ctx c .seamless 0 false = v at spliced done
    have final := spliced.circuit
    have entered := spliced.entered.of_reports hreports hoverflow
    rw [Circuit.spliced_of_offset offset] at final entered
    have final : ({ s with trunk := v } : State).circuit c = _ := final
    refine ⟨_, done, rfl, others.trans spliced.others, spliced.waitQueue.trans (hqueue.trans hq),
      spliced.calendar.trans hcalendar, ?_⟩
    rw [final, own]
    exact ⟨rfl, rfl, fun h => absurd h hx, fun _ => ⟨rfl, congrArg some (BitVec.add_zero o), rfl, rfl, rfl, entered⟩,
      fun h => absurd h (Nat.lt_irrefl 0), fun h => absurd h (Nat.lt_irrefl 0)⟩
  rw [if_neg hz] at done
  have known : (w.withDeficit c d).circuit c = { w.circuit c with splice := { (w.circuit c).splice with deficit := some d } } :=
    Trunk.circuit_modify_same _ _ hc
  have knownOthers : s.trunk.sameOthers c (w.withDeficit c d) := others.trans (Trunk.modify_sameOthers c _ w)
  by_cases hi : s.settings.params.idleQualify ≤ (s.circuit c).align.idleQualify
  · rw [if_pos (by rw [own]; exact hi)] at done
    have spliced := Trunk.splice_spliced (t := w.withDeficit c d) s.ctx .idle d false hc (by rw [known]; exact bound)
    unfold Trunk.spliceAndServe at done
    rw [spliced.serveLive (hqueue.trans hq)] at done
    generalize (w.withDeficit c d).splice s.ctx c .idle d false = v at spliced done
    have final := spliced.circuit
    have entered := spliced.entered.of_reports hreports hoverflow
    rw [Circuit.spliced_of_offset (by rw [known]; exact offset)] at final entered
    have final : ({ s with trunk := v } : State).circuit c = _ := final
    refine ⟨_, done, rfl, knownOthers.trans spliced.others, spliced.waitQueue.trans (hqueue.trans hq),
      spliced.calendar.trans hcalendar, ?_⟩
    rw [final, known, own]
    exact ⟨rfl, rfl, fun h => absurd h hx, fun h => absurd h hz,
      fun _ _ _ => ⟨rfl, rfl, rfl, rfl, if_neg hz, rfl, entered⟩, fun _ _ h => absurd hi (Nat.not_le.mpr h)⟩
  · rw [if_neg (by rw [own]; exact hi)] at done
    have final : ({ s with trunk := w.withDeficit c d } : State).circuit c = _ := known
    refine ⟨_, done, rfl, knownOthers, hqueue.trans hq, hcalendar, ?_⟩
    rw [final, own]
    exact ⟨rfl, rfl, fun h => absurd h hx, fun h => absurd h hz, fun _ _ h => absurd h hi,
      fun _ _ _ => ⟨hs, rfl, hfallback, hreports, hoverflow⟩⟩

end Sys2Proof.Machine
end

section
/-! R13, R74, R94, R95, R99: an arrival in ALIGNED. -/

namespace Sys2Proof.Machine

variable {s : State} {t u v w : Trunk} {x : Ctx} {c : Nat} {r r' : Circuit} {b : Binding} {place : List Byte} {ph : Phase}

theorem Trunk.arrive_aligned (hs : (t.circuit c).state = .aligned) (x : Ctx) : t.arrive x c = t.arriveAligned x c := by
  unfold Trunk.arrive
  rw [hs]

/-- The trunk in which circuit `c` has joined the wait queue (R99). -/
def Trunk.queued (c : Nat) (t : Trunk) : Trunk := (t.queueUp c).modify c fun r => r.enter .splicePending

theorem Trunk.arriveAligned_of_excess {d : Nat} (hring : (t.circuit c).ring.length = 16) (hp : x.paused = false)
    (hd : (t.circuit c).deficitNow x.settings.params = some d) (hx : x.settings.params.dmax < d) :
    t.arriveAligned x c = t.report x c .delayExcess none (some d) .clear := by
  unfold Trunk.arriveAligned
  dsimp only
  rw [if_pos ⟨hring, hp⟩, hd]
  exact if_pos hx

theorem Trunk.arriveAligned_of_refused {d : Nat} (hring : (t.circuit c).ring.length = 16) (hp : x.paused = false)
    (hd : (t.circuit c).deficitNow x.settings.params = some d) (hx : d ≤ x.settings.params.dmax) (h : t.request x c = none) :
    t.arriveAligned x c = t.queued c := by
  unfold Trunk.arriveAligned
  dsimp only
  rw [if_pos ⟨hring, hp⟩, hd]
  dsimp only
  rw [if_neg (Nat.not_lt.mpr hx), h]
  rfl

/-- A granted request with no circuit waiting: the record becomes LIVE, or is PENDING, and serves no one. -/
theorem Trunk.arriveAligned_of_granted {d : Nat} (hring : (t.circuit c).ring.length = 16) (hp : x.paused = false)
    (hd : (t.circuit c).deficitNow x.settings.params = some d) (hx : d ≤ x.settings.params.dmax)
    (h : t.request x c = some u) : t.arriveAligned x c = (u.grant x c d).serveLive x := by
  unfold Trunk.arriveAligned
  dsimp only
  rw [if_pos ⟨hring, hp⟩, hd]
  dsimp only
  rw [if_neg (Nat.not_lt.mpr hx), h]

theorem Trunk.grant_of_zero (x : Ctx) (c : Nat) (t : Trunk) : t.grant x c 0 = t.splice x c .seamless 0 false := if_pos rfl

theorem Trunk.grant_of_pos {d : Nat} (h : 0 < d) (x : Ctx) (c : Nat) (t : Trunk) : t.grant x c d = t.toSpliceWait c d :=
  if_neg (Nat.pos_iff_ne_zero.mp h)

/-- What a grant of a record to circuit `c`, which has none, leaves: a SEAMLESS splice, or SPLICE_WAIT with D (R13, R74). -/
structure Trunk.Granted (x : Ctx) (c d : Nat) (o : Word) (t u : Trunk) : Prop where
  others : t.sameOthers c u
  waitQueue : u.waitQueue = t.waitQueue
  calendar : u.calendar = t.calendar
  reports : t.reports <+: u.reports
  seamless : d = 0 → (∃ l, u.circuit c = { (t.circuit c).spliceAt (x.frame + 1) .seamless o 0 false with lastReported := l }) ∧
    u.fallback = t.fallback ++ [x.liveRecord c]
  waits : 0 < d → t.sameReports u ∧ u.fallback = t.fallback ++ [⟨c, none⟩] ∧
    u.circuit c = { (t.circuit c).enter .spliceWait with
      splice := { ((t.circuit c).enter .spliceWait).splice with deficit := some d } }

theorem Trunk.entered.isPrefix {rep : Report} (h : t.entered rep u) : t.reports <+: u.reports := by
  by_cases hroom : t.reports.length < 64
  · rw [(h.1 hroom).1]
    exact List.prefix_append _ _
  · rw [(h.2 (Nat.not_lt.mp hroom)).1]

theorem Trunk.grant_granted (x : Ctx) (d : Nat) {o : Word} (hc : c < 256) (hb : (t.circuit c).binding = some b)
    (ho : (t.circuit c).align.offset = some o) (hrec : t.recordOf c = none) (hroom : t.fallback.length < 8) :
    t.Granted x c d o (t.grant x c d) := by
  rcases Nat.eq_zero_or_pos d with rfl | hd
  · have spliced := Trunk.splice_spliced x .seamless 0 false hc hb
    have own := spliced.circuit
    rw [Circuit.spliced_of_offset ho] at own
    rw [Trunk.grant_of_zero]
    exact ⟨spliced.others, spliced.waitQueue, spliced.calendar, spliced.entered.isPrefix,
      fun _ => ⟨⟨_, own⟩, spliced.fallback.trans (Trunk.recordLive_fallback_of_none hrec hroom x)⟩, fun h => absurd h (Nat.lt_irrefl 0)⟩
  · have waits := Trunk.toSpliceWait_waits hc d hroom
    rw [Trunk.grant_of_pos hd]
    exact ⟨waits.others, waits.waitQueue, waits.calendar, by rw [waits.reports.1], fun h => absurd h (Nat.pos_iff_ne_zero.mp hd),
      fun _ => ⟨waits.reports, waits.fallback, waits.circuit⟩⟩

theorem Trunk.Granted.serveLive {d : Nat} {o : Word} (h : t.Granted x c d o u) (hq : t.waitQueue = []) : u.serveLive x = u :=
  Trunk.serveLive_of_not (Trunk.rollServes_eq_false (.inr (.inr (.inl (h.waitQueue.trans hq)))))

/-! ## A request that a forced commit grants -/

/-- The trunk of the oldest LIVE record: its circuit is another than one without a record. -/
theorem Trunk.ne_of_recordOf_none {f : FallbackRecord} (h : t.recordOf c = none) (hf : f ∈ t.fallback) : f.circuit ≠ c :=
  Trunk.recordOf_eq_none.mp h f hf

/-- What the forced commit for the request of `c` leaves: room, and no record for `c` (R95). -/
theorem Trunk.forcedCommit_room {f : FallbackRecord} (x : Ctx) (hv : f.circuit < 256) (hf : f ∈ t.fallback)
    (hfull : t.fallback.length = 8) (h : t.recordOf c = none) :
    (t.forcedCommit x f.circuit c).fallback.length < 8 ∧ (t.forcedCommit x f.circuit c).recordOf c = none := by
  have committed := Trunk.commit_committed hv x .forcedCommit (some c) t
  refine ⟨?_, withoutRecord_recordOf h committed.fallback⟩
  show (t.commit x f.circuit .forcedCommit (some c)).fallback.length < 8
  rw [committed.fallback, ← hfull]
  exact withoutRecord_length_lt hf

/-! ## The arrival -/

/-- A cell delivered before the splice and outside BRIDGING: the work on it is done, and it arrives at the splice unit. -/
theorem exec_bearerCell_arrives {p : Nat} (hdel : s.delivers p place ph c) (hs : (s.circuit c).state.beforeSplice = true)
    (hnb : (s.circuit c).state ≠ .bridging) (hph : ph ≠ .release) :
    ∃ w, s.trunk.onlyRecord c w ∧ w.circuit c = (s.circuit c).stockedFrom s.frame place ph ∧
      exec (.bearerCell p place) s = .next { s with trunk := w.arrive s.ctx c } := by
  refine ⟨_, s.trunk.stocked_only s.ctx c place ph, Trunk.stocked_stockedFrom hdel.2.1 hnb s.ctx, ?_⟩
  rw [← Trunk.afterCell_beforeSplice hdel.2.1 hs hph]
  exact exec_bearerCell_afterCell hdel

theorem Trunk.arrivalInAligned_of_eq (hs : (t.circuit c).state = .aligned) (h : t.arriveAligned x c = u) : t.arrive x c = u :=
  (Trunk.arrive_aligned hs x).trans h

/-- Settles O38: the deficit within Dmax asks for a record, which the room, a forced commit or neither gives. -/
theorem arrivalInAligned : Obligations.ArrivalInAligned := by
  refine ⟨?_, ?_⟩
  · intro s p c place ph b o d hdel hs hph hb ho hrec hd hring hcase
    have hc : c < 256 := hdel.2.1
    obtain ⟨w, ⟨others, lists, reports⟩, own, done⟩ := exec_bearerCell_arrives hdel (by rw [hs]; rfl) (by rw [hs]; decide) hph
    have ⟨hfallback, hqueue, hcalendar⟩ := lists
    have state : (w.circuit c).state = .aligned := by rw [own]; exact hs
    have full : (w.circuit c).ring.length = 16 := by rw [own]; exact hring
    have deficit : (w.circuit c).deficitNow s.ctx.settings.params = some d := by rw [own]; exact hd
    have bound : (w.circuit c).binding = some b := by rw [own]; exact hb
    have noRecord : w.recordOf c = none := by
      unfold Trunk.recordOf
      rw [hfallback]
      exact hrec
    cases hp : s.paused with
    | true =>
      rw [Trunk.arrive_unevaluated (.inr ⟨state, .inr hp⟩)] at done
      have final : ({ s with trunk := w } : State).circuit c = _ := own
      refine ⟨_, done, rfl, others, hcalendar, ?_⟩
      rw [final]
      exact ⟨rfl, rfl, fun _ => ⟨hs, lists, reports⟩, nofun, nofun, nofun, nofun⟩
    | false =>
      by_cases hx : s.settings.params.dmax < d
      · rw [Trunk.arrivalInAligned_of_eq state (Trunk.arriveAligned_of_excess full hp deficit hx)] at done
        obtain ⟨rothers, rlists, l, said⟩ := w.report_frame s.ctx c .delayExcess none (some d) .clear
        have entered (hk : (s.circuit c).lastReported ≠ some .delayExcess) := (w.report_passes s.ctx none (some d) .clear hc bound
          (k := .delayExcess) (by rw [own]; exact hk)).1.of_reports reports.1 reports.2
        have dropped (hk : (s.circuit c).lastReported = some .delayExcess) :
            w.report s.ctx c .delayExcess none (some d) .clear = w := Trunk.report_of_last (by rw [own]; exact hk) _ _ _ _
        generalize w.report s.ctx c .delayExcess none (some d) .clear = v at rothers rlists said entered dropped done
        have final : ({ s with trunk := v } : State).circuit c = _ := said
        refine ⟨_, done, rfl, others.trans rothers, rlists.2.2.trans hcalendar, ?_⟩
        rw [final, own]
        refine ⟨rfl, rfl, nofun, fun _ _ => ⟨hs, lists.trans rlists, entered, fun hk => ?_⟩, fun _ h => by omega,
          fun _ _ h => by omega, fun _ h => by omega⟩
        rw [show ({ s with trunk := v } : State).trunk = w from dropped hk]
        exact reports
      · have hx : d ≤ s.settings.params.dmax := Nat.not_lt.mp hx
        by_cases hroom : s.trunk.waitQueue = [] ∧ s.trunk.fallback.length < 8
        · obtain ⟨hq, hroom⟩ := hroom
          have granted := Trunk.grant_granted s.ctx d hc bound (o := o) (by rw [own]; exact ho) noRecord (by rw [hfallback]; exact hroom)
          rw [Trunk.arrivalInAligned_of_eq state (Trunk.arriveAligned_of_granted full hp deficit hx
            (Trunk.request_of_room (hqueue.trans hq) (by rw [hfallback]; exact hroom) _ _)),
            granted.serveLive (hqueue.trans hq)] at done
          generalize w.grant s.ctx c d = v at granted done
          refine ⟨_, done, rfl, others.trans granted.others, granted.calendar.trans hcalendar, ?_⟩
          rcases Nat.eq_zero_or_pos d with rfl | hpos
          · obtain ⟨⟨l, said⟩, fallback⟩ := granted.seamless rfl
            have final : ({ s with trunk := v } : State).circuit c = _ := said
            rw [final, own]
            refine ⟨rfl, rfl, nofun, fun _ h => by omega,
              fun _ _ _ _ => ⟨rfl, congrArg some (BitVec.add_zero o), rfl, rfl, granted.waitQueue.trans (hqueue.trans hq), ?_⟩,
              fun _ h => by omega, fun _ _ h => h.elim (absurd hq) fun h => by omega⟩
            rw [← hfallback]
            exact fallback
          · obtain ⟨same, fallback, said⟩ := granted.waits hpos
            have final : ({ s with trunk := v } : State).circuit c = _ := said
            rw [final, own]
            refine ⟨rfl, rfl, nofun, fun _ h => by omega, fun _ h => by omega,
              fun _ _ _ _ _ => ⟨rfl, rfl, granted.waitQueue.trans (hqueue.trans hq), ?_, same.1.trans reports.1, same.2.trans reports.2⟩,
              fun _ _ h => h.elim (absurd hq) fun h => by omega⟩
            rw [← hfallback]
            exact fallback
        · have refused : w.request s.ctx c = none := by
            by_cases hq : s.trunk.waitQueue = []
            · have hfull : 8 ≤ s.trunk.fallback.length := Nat.not_lt.mp fun h => hroom ⟨hq, h⟩
              refine Trunk.request_of_refused (by rw [hfallback]; exact hfull) ?_ c
              rw [hfallback]
              rcases hcase with h | h | h | h | h | h
              · rw [hp] at h
                cases h
              · omega
              · exact absurd hq h
              · omega
              · exact .inl h
              · exact .inr h
            · exact Trunk.request_of_queue (by rw [hqueue]; exact hq) _ _
          rw [Trunk.arrivalInAligned_of_eq state (Trunk.arriveAligned_of_refused full hp deficit hx refused)] at done
          have said : (w.queued c).circuit c = (w.circuit c).enter .splicePending := Trunk.circuit_modify_same _ _ hc
          have final : ({ s with trunk := w.queued c } : State).circuit c = _ := said
          refine ⟨_, done, rfl, others.trans (Trunk.modify_sameOthers c _ (w.queueUp c)), hcalendar, ?_⟩
          rw [final, own]
          refine ⟨rfl, rfl, nofun, fun _ h => by omega, fun _ _ hq h => absurd ⟨hq, h⟩ hroom, fun _ _ _ hq h => absurd ⟨hq, h⟩ hroom,
            fun _ _ _ => ⟨rfl, ?_, hfallback, reports⟩⟩
          rw [← hqueue]
          rfl
  · intro s p c d v place ph b bv o before after f hdel hs hph hb ho hrec hd hring hp hx hq hfull hroll hsplit hbefore hlive hf hv
      hbv hflag
    have hc : c < 256 := hdel.2.1
    obtain ⟨w, ⟨others, lists, reports⟩, own, done⟩ := exec_bearerCell_arrives hdel (by rw [hs]; rfl) (by rw [hs]; decide) hph
    have ⟨hfallback, hqueue, hcalendar⟩ := lists
    have state : (w.circuit c).state = .aligned := by rw [own]; exact hs
    have full : (w.circuit c).ring.length = 16 := by rw [own]; exact hring
    have deficit : (w.circuit c).deficitNow s.ctx.settings.params = some d := by rw [own]; exact hd
    have noRecord : w.recordOf c = none := by
      unfold Trunk.recordOf
      rw [hfallback]
      exact hrec
    have mem : f ∈ w.fallback := by
      rw [hfallback, hsplit]
      exact List.mem_append_right _ List.mem_cons_self
    have hvc : v ≠ c := hf ▸ Trunk.ne_of_recordOf_none noRecord mem
    have oldest : w.oldestLive = some v := hf ▸ Trunk.oldestLive_of_split (hfallback.trans hsplit) hbefore hlive
    have committed := Trunk.commit_committed hv s.ctx .forcedCommit (some c) w
    have first (h : w.reports.length < 64) := Trunk.commit_reports_first s.ctx .forcedCommit (some c) hv
      (b := bv) (by rw [others v hvc]; exact hbv) h
    obtain ⟨room, unrecorded⟩ := Trunk.forcedCommit_room (f := f) s.ctx (by rw [hf]; exact hv) mem (by rw [hfallback]; exact hfull)
      noRecord
    rw [hf] at room unrecorded
    unfold Trunk.forcedCommit at room unrecorded
    rw [Trunk.arrivalInAligned_of_eq state (Trunk.arriveAligned_of_granted full hp deficit hx
      (Trunk.request_of_roll (hqueue.trans hq) (by rw [hfallback, hfull]) hroll oldest c))] at done
    unfold Trunk.forcedCommit at done
    generalize w.commit s.ctx v .forcedCommit (some c) = u at committed first room unrecorded done
    have asker : u.circuit c = w.circuit c := committed.others c (Ne.symm hvc)
    have granted := Trunk.grant_granted s.ctx d hc (b := b) (by rw [asker, own]; exact hb) (o := o) (by rw [asker, own]; exact ho)
      unrecorded room
    rw [granted.serveLive (committed.waitQueue.trans (hqueue.trans hq))] at done
    generalize u.grant s.ctx c d = t at granted done
    obtain ⟨l, said⟩ := committed.circuit
    have other : ({ s with trunk := t } : State).circuit v = _ := ((granted.others v hvc).trans said).trans
      (congrArg (Circuit.committedAs l) (others v hvc))
    refine ⟨_, done, rfl, fun e hec hev => ?_, granted.calendar.trans (committed.calendar.trans hcalendar),
      granted.waitQueue.trans (committed.waitQueue.trans (hqueue.trans hq)), ?_⟩
    · exact (granted.others e hec).trans ((committed.others e hev).trans (others e hec))
    rw [other]
    have flag : ((s.circuit v).committedAs l).legacyReleased = decide ((s.circuit v).peerPhase = some .committed) :=
      (congrArg (· || _) hflag).trans (Bool.false_or _)
    have tail : s.trunk.reports.length < 64 → ∃ rest, t.reports = s.trunk.reports ++
        aboutCircuit s.cycleCount v bv .forcedCommit none (some c) ⟨false, false, false⟩ :: rest := by
      intro h
      obtain ⟨rest, hrest⟩ := (first (by rw [reports.1]; exact h)).trans granted.reports
      refine ⟨rest, hrest.symm.trans ?_⟩
      rw [reports.1, List.append_assoc]
      rfl
    rcases Nat.eq_zero_or_pos d with rfl | hpos
    · obtain ⟨⟨k, said⟩, fallback⟩ := granted.seamless rfl
      have final : ({ s with trunk := t } : State).circuit c = _ := said
      rw [final, asker, own]
      refine ⟨rfl, rfl, rfl, rfl, rfl, rfl, rfl, flag, tail,
        fun _ => ⟨rfl, congrArg some (BitVec.add_zero o), rfl, rfl, ?_⟩, fun h => by omega⟩
      rw [← hfallback, ← committed.fallback]
      exact fallback
    · obtain ⟨same, fallback, said⟩ := granted.waits hpos
      have final : ({ s with trunk := t } : State).circuit c = _ := said
      rw [final, asker, own]
      refine ⟨rfl, rfl, rfl, rfl, rfl, rfl, rfl, flag, tail, fun h => by omega, fun _ => ⟨rfl, rfl, ?_⟩⟩
      rw [← hfallback, ← committed.fallback]
      exact fallback

end Sys2Proof.Machine
end

section
/-! R12, R77, R81, R95: an arrival in BRIDGING and the blind IDLE splice. -/

namespace Sys2Proof.Machine

variable {s : State} {t u v w : Trunk} {x : Ctx} {c : Nat} {r r' : Circuit} {b : Binding} {place : List Byte} {ph : Phase}

/-! ## The blind playout offset -/

/-- Two leads that lie within 32000 of each other, with the guard between them. -/
theorem lead_add_guard (a e ob : Word) {g : Nat} (hg : g ≤ 64) (ha : -16000 < (ob - a).toInt) (he : (ob - e).toInt < 16000)
    (h : (ob - a).toInt ≤ (ob - e).toInt) :
    (a + BitVec.ofNat 16 g - e).toInt = (ob - e).toInt - (ob - a).toInt + g := by
  have shift : a + BitVec.ofNat 16 g - e = (ob - e) - (ob - a) + BitVec.ofNat 16 g := by bv_omega
  rw [shift, BitVec.toInt_add, BitVec.toInt_sub]
  have guard : (BitVec.ofNat 16 g).toInt = g := by
    rw [BitVec.toInt_ofNat', Int.bmod_eq_of_le] <;> omega
  have inner : Int.bmod ((ob - e).toInt - (ob - a).toInt) (2 ^ 16) = (ob - e).toInt - (ob - a).toInt :=
    Int.bmod_eq_of_le (by omega) (by omega)
  rw [guard, inner]
  exact Int.bmod_eq_of_le (by omega) (by omega)

/-- R81: the smallest lead of the ring at the blind offset is the guard. -/
theorem Circuit.blindOffset_leads {g : Nat} {ob : Word} (hg : g ≤ 64) (hob : r.align.obase = some ob) (hring : r.ring ≠ [])
    (h : ∀ e ∈ r.ring, -16000 < (ob - e).toInt ∧ (ob - e).toInt < 16000) :
    (∀ e ∈ r.ring, (g : Int) ≤ (r.blindOffset g - e).toInt) ∧ ∃ e ∈ r.ring, (r.blindOffset g - e).toInt = g := by
  obtain ⟨m, hm, least, a, ha, attained⟩ := leadMin_spec ob hring
  have lead : BitVec.ofInt 16 m = ob - a := by rw [← attained, BitVec.ofInt_toInt]
  have offset : r.blindOffset g = a + BitVec.ofNat 16 g := by
    unfold Circuit.blindOffset
    rw [hob]
    dsimp only [Option.getD_some]
    rw [hm]
    dsimp only [Option.getD_some]
    rw [lead]
    bv_omega
  have leads (e : Word) (he : e ∈ r.ring) : (r.blindOffset g - e).toInt = (ob - e).toInt - (ob - a).toInt + g := by
    rw [offset]
    exact lead_add_guard a e ob hg (h a ha).1 (h e he).2 (by rw [attained]; exact least e he)
  refine ⟨fun e he => ?_, a, ha, ?_⟩
  · rw [leads e he, attained]
    have := least e he
    omega
  · rw [leads a ha]
    omega

/-! ## The arrival -/

/-- The work on a cell in BRIDGING: the first cell gives Obase (R58, R60). -/
theorem Circuit.bridgeWork_of_bridging {f : Word} (h : r.state = .bridging) :
    r.bridgeWork f place = { r with
      ring := pushRing r.ring (f - ssnOf place)
      playout := r.written place
      align := { r.align with
        obase := some (r.align.obase.getD (f - ssnOf place))
        judging := windowEntered f (ssnOf place) (r.align.obase.getD (f - ssnOf place)) r.align.judging } } := by
  have obase : r.obaseAfter (f - ssnOf place) = some (r.align.obase.getD (f - ssnOf place)) := by
    unfold Circuit.obaseAfter
    cases r.align.obase with
    | some ob => rfl
    | none => exact if_pos h
  unfold Circuit.bridgeWork
  rw [obase]
  rfl

/-- The record of a circuit in BRIDGING whose cell has been heard and worked on, before what the arrival brings. -/
def Circuit.bridgedFrom (f : Word) (place : List Byte) (ph : Phase) (r : Circuit) : Circuit :=
  { (r.heard place).storePhase ph with
    ring := pushRing r.ring (f - ssnOf place)
    playout := ((r.heard place).storePhase ph).written place
    align := { r.align with
      obase := some (r.align.obase.getD (f - ssnOf place))
      judging := windowEntered f (ssnOf place) (r.align.obase.getD (f - ssnOf place)) r.align.judging } }

/-- A cell delivered in BRIDGING: the work on it is done, and it arrives at the splice unit. -/
theorem exec_bearerCell_inBridging {p : Nat} (hdel : s.delivers p place ph c) (hs : (s.circuit c).state = .bridging)
    (hph : ph ≠ .release) :
    ∃ w, s.trunk.onlyRecord c w ∧ w.circuit c = (s.circuit c).bridgedFrom s.frame place ph ∧
      exec (.bearerCell p place) s = .next { s with trunk := w.arriveBridging s.ctx c } := by
  have own : (s.trunk.stocked s.ctx c place ph).circuit c = (s.circuit c).bridgedFrom s.frame place ph :=
    (Trunk.stocked_circuit hdel.2.1 s.ctx s.trunk).trans (Circuit.bridgeWork_of_bridging hs)
  have arrived : (s.trunk.stocked s.ctx c place ph).arrive s.ctx c = (s.trunk.stocked s.ctx c place ph).arriveBridging s.ctx c := by
    unfold Trunk.arrive
    rw [own, show ((s.circuit c).bridgedFrom s.frame place ph).state = _ from hs]
  refine ⟨_, s.trunk.stocked_only s.ctx c place ph, own, ?_⟩
  rw [← arrived, ← Trunk.afterCell_beforeSplice hdel.2.1 (by rw [show (s.trunk.circuit c).state = _ from hs]; rfl) hph]
  exact exec_bearerCell_afterCell hdel

theorem Circuit.idleTest_iff (x : Ctx) (r : Circuit) :
    r.idleTest x = true ↔ x.settings.params.idleQualify ≤ r.align.idleQualify ∧ r.ring.length = 16 ∧ x.paused = false := by
  unfold Circuit.idleTest
  rw [Bool.and_eq_true, Bool.and_eq_true, decide_eq_true_eq, decide_eq_true_eq, Bool.not_eq_true', and_assoc]

theorem Trunk.arriveBridging_of_not (h : (t.circuit c).idleTest x = true → t.request x c = none) : t.arriveBridging x c = t := by
  unfold Trunk.arriveBridging
  split
  next hi => rw [h hi]
  next => rfl

theorem Trunk.arriveBridging_of_granted (hi : (t.circuit c).idleTest x = true) (h : t.request x c = some u) :
    t.arriveBridging x c = u.spliceAndServe x c .idle 0 false := by
  unfold Trunk.arriveBridging
  rw [if_pos hi, h]

/-- The blind IDLE splice of a circuit without a record, with no circuit waiting (R12, R77, R81, R96). -/
structure Trunk.BlindSpliced (x : Ctx) (c : Nat) (b : Binding) (t u : Trunk) : Prop where
  others : t.sameOthers c u
  fallback : u.fallback = t.fallback ++ [x.liveRecord c]
  waitQueue : u.waitQueue = t.waitQueue
  calendar : u.calendar = t.calendar
  circuit : ∃ l, u.circuit c = { (t.circuit c).spliceBlind x.settings.params.guard .idle with lastReported := l }
  entered : t.entered (aboutCircuit x.cycles c b .spliced (some (.splice .idle)) none ⟨false, true, false⟩) u

theorem Trunk.spliceAndServe_blind (x : Ctx) (hc : c < 256) (hb : (t.circuit c).binding = some b)
    (ho : (t.circuit c).align.offset = none) (hrec : t.recordOf c = none) (hroom : t.fallback.length < 8) (hq : t.waitQueue = []) :
    t.BlindSpliced x c b (t.spliceAndServe x c .idle 0 false) := by
  have spliced := Trunk.splice_spliced x .idle 0 false hc hb
  have own := spliced.circuit
  have entered := spliced.entered
  rw [Circuit.spliced_of_noOffset ho] at own entered
  unfold Trunk.spliceAndServe
  rw [spliced.serveLive hq]
  exact ⟨spliced.others, spliced.fallback.trans (Trunk.recordLive_fallback_of_none hrec hroom x), spliced.waitQueue,
    spliced.calendar, ⟨_, own⟩, entered⟩

/-- Settles O39: an idle test that is granted a record splices blind at the offset of the smallest lead; any other leaves the
circuit in BRIDGING. -/
theorem idleTestInBridging : Obligations.IdleTestInBridging := by
  refine ⟨?_, ?_, ?_⟩
  · intro s p c place ph b ob ring hdel hs hph hb hob ho hp hrec hq hroom hring hfull hg hleads hidle
    subst hring
    have hc : c < 256 := hdel.2.1
    obtain ⟨w, ⟨others, ⟨hfallback, hqueue, hcalendar⟩, reports⟩, own, done⟩ := exec_bearerCell_inBridging hdel hs hph
    have test : (w.circuit c).idleTest s.ctx = true := by
      rw [own]
      exact (Circuit.idleTest_iff _ _).mpr ⟨hidle, hfull, hp⟩
    have spliced := Trunk.spliceAndServe_blind (t := w) (b := b) s.ctx hc (by rw [own]; exact hb) (by rw [own]; exact ho)
      (by unfold Trunk.recordOf; rw [hfallback]; exact hrec) (by rw [hfallback]; exact hroom) (hqueue.trans hq)
    rw [Trunk.arriveBridging_of_granted test (Trunk.request_of_room (hqueue.trans hq) (by rw [hfallback]; exact hroom) _ _)] at done
    generalize w.spliceAndServe s.ctx c .idle 0 false = v at spliced done
    obtain ⟨l, said⟩ := spliced.circuit
    rw [own] at said
    have final : ({ s with trunk := v } : State).circuit c = _ := said
    have blind := Circuit.blindOffset_leads (r := (s.circuit c).bridgedFrom s.frame place ph) hg
      (by show some ((s.circuit c).align.obase.getD _) = _; rw [hob]; rfl) (List.ne_nil_of_length_pos (hfull ▸ Nat.succ_pos 15)) hleads
    refine ⟨_, ((s.circuit c).bridgedFrom s.frame place ph).blindOffset s.settings.params.guard, done, rfl, others.trans spliced.others, spliced.calendar.trans hcalendar,
      spliced.waitQueue.trans (hqueue.trans hq), ?_⟩
    rw [final]
    refine ⟨rfl, rfl, rfl, blind.1, blind.2, rfl, rfl, rfl, ho, ?_, spliced.entered.of_reports reports.1 reports.2⟩
    rw [← hfallback]
    exact spliced.fallback
  · intro s p c place ph hdel hs hph hcase
    obtain ⟨w, only, own, done⟩ := exec_bearerCell_inBridging hdel hs hph
    have ⟨hfallback, hqueue, hcalendar⟩ := only.2.1
    have stays : w.arriveBridging s.ctx c = w := by
      refine Trunk.arriveBridging_of_not fun htest => ?_
      rw [own] at htest
      obtain ⟨hi, hring, hp⟩ := (Circuit.idleTest_iff _ _).mp htest
      rcases hcase with h | h | h | h | ⟨hfull, h⟩
      · exact absurd hi (Nat.not_le.mpr h)
      · exact absurd hring h
      · rw [show s.ctx.paused = true from h] at hp
        cases hp
      · exact Trunk.request_of_queue (by rw [hqueue]; exact h) _ _
      · exact Trunk.request_of_refused (by rw [hfallback]; exact hfull) (by rw [hfallback]; exact h) c
    rw [stays] at done
    have final : ({ s with trunk := w } : State).circuit c = _ := own
    refine ⟨_, done, rfl, only, ?_⟩
    rw [final]
    exact ⟨Circuit.wroteCell_of_playout rfl, rfl⟩
  · intro s p c v place ph b bv ob ring before after f hdel hs hph hb hob ho hp hrec hq hfull hroll hsplit hbefore hlive hf hv hbv
      hflag hring hring16 hg hleads hidle
    subst hring
    have hc : c < 256 := hdel.2.1
    obtain ⟨w, ⟨others, ⟨hfallback, hqueue, hcalendar⟩, reports⟩, own, done⟩ := exec_bearerCell_inBridging hdel hs hph
    have test : (w.circuit c).idleTest s.ctx = true := by
      rw [own]
      exact (Circuit.idleTest_iff _ _).mpr ⟨hidle, hring16, hp⟩
    have noRecord : w.recordOf c = none := by
      unfold Trunk.recordOf
      rw [hfallback]
      exact hrec
    have mem : f ∈ w.fallback := by
      rw [hfallback, hsplit]
      exact List.mem_append_right _ List.mem_cons_self
    have hvc : v ≠ c := hf ▸ Trunk.ne_of_recordOf_none noRecord mem
    have oldest : w.oldestLive = some v := hf ▸ Trunk.oldestLive_of_split (hfallback.trans hsplit) hbefore hlive
    have committed := Trunk.commit_committed hv s.ctx .forcedCommit (some c) w
    have first (h : w.reports.length < 64) := Trunk.commit_reports_first s.ctx .forcedCommit (some c) hv
      (b := bv) (by rw [others v hvc]; exact hbv) h
    obtain ⟨room, unrecorded⟩ := Trunk.forcedCommit_room (f := f) s.ctx (by rw [hf]; exact hv) mem (by rw [hfallback]; exact hfull)
      noRecord
    rw [hf] at room unrecorded
    unfold Trunk.forcedCommit at room unrecorded
    rw [Trunk.arriveBridging_of_granted test
      (Trunk.request_of_roll (hqueue.trans hq) (by rw [hfallback, hfull]) hroll oldest c)] at done
    unfold Trunk.forcedCommit at done
    generalize w.commit s.ctx v .forcedCommit (some c) = u at committed first room unrecorded done
    have asker : u.circuit c = w.circuit c := committed.others c (Ne.symm hvc)
    have spliced := Trunk.spliceAndServe_blind (t := u) (b := b) s.ctx hc (by rw [asker, own]; exact hb) (by rw [asker, own]; exact ho)
      unrecorded room (committed.waitQueue.trans (hqueue.trans hq))
    generalize u.spliceAndServe s.ctx c .idle 0 false = t at spliced done
    obtain ⟨l, said⟩ := committed.circuit
    obtain ⟨k, saidOwn⟩ := spliced.circuit
    rw [asker, own] at saidOwn
    have other : ({ s with trunk := t } : State).circuit v = _ := ((spliced.others v hvc).trans said).trans
      (congrArg (Circuit.committedAs l) (others v hvc))
    have final : ({ s with trunk := t } : State).circuit c = _ := saidOwn
    have blind := Circuit.blindOffset_leads (r := (s.circuit c).bridgedFrom s.frame place ph) hg
      (by show some ((s.circuit c).align.obase.getD _) = _; rw [hob]; rfl) (List.ne_nil_of_length_pos (hring16 ▸ Nat.succ_pos 15)) hleads
    refine ⟨_, ((s.circuit c).bridgedFrom s.frame place ph).blindOffset s.settings.params.guard, done, rfl, fun e hec hev => ?_, spliced.calendar.trans (committed.calendar.trans hcalendar),
      spliced.waitQueue.trans (committed.waitQueue.trans (hqueue.trans hq)), ?_⟩
    · exact (spliced.others e hec).trans ((committed.others e hev).trans (others e hec))
    rw [other, final]
    refine ⟨rfl, rfl, rfl, rfl, rfl, (congrArg (· || _) hflag).trans (Bool.false_or _), fun h => ?_, rfl, rfl, rfl, blind.1, blind.2,
      rfl, rfl, rfl, ho, ?_⟩
    · obtain ⟨rest, hrest⟩ := (first (by rw [reports.1]; exact h)).trans spliced.entered.isPrefix
      refine ⟨rest, hrest.symm.trans ?_⟩
      rw [reports.1, List.append_assoc]
      rfl
    · rw [← hfallback, ← committed.fallback]
      exact spliced.fallback

end Sys2Proof.Machine
end

section
/-! The order unit (R141 to R149): what the command of an order does when its order is at the head of the queue. -/

namespace Sys2Proof.Machine

variable {s t : State} {u v w : Trunk} {x : Ctx} {c : Nat} {o : Order} {rest : List Order} {row : OrderRow}

/-! ## Rows of the order values -/

/-- The row of each value of Table 12.4 but 2, whose row its operand kind tells. -/
def OrderRow.value : OrderRow → Nat
  | .cut => 1
  | .revert | .revertLast => 2
  | .force => 3
  | .commit => 4
  | .pause => 5
  | .resume => 6
  | .queryCircuit => 7
  | .queryStation => 8
  | .takeReports => 9
  | .restart => 10

theorem Order.row_of_value (h : o.value = row.value) (hr : row = .revert → o.kind ≠ 4) (hl : row = .revertLast → o.kind = 4) :
    o.row = some row := by
  unfold Order.row
  rw [h]
  cases row
  case revert => exact congrArg some (if_neg (hr rfl))
  case revertLast => exact congrArg some (if_pos (hl rfl))
  all_goals rfl

/-- The commands of the orders are those of the rows. -/
theorem exists_commandOf {i : Instr} (h : i = .cut ∨ i = .revert ∨ i = .revertLast ∨ i = .force ∨ i = .commit ∨ i = .pause ∨
    i = .resume ∨ i = .queryCircuit ∨ i = .queryStation ∨ i = .takeReports ∨ i = .restart) : ∃ row, i = commandOf row := by
  rcases h with rfl | rfl | rfl | rfl | rfl | rfl | rfl | rfl | rfl | rfl | rfl
  exacts [⟨.cut, rfl⟩, ⟨.revert, rfl⟩, ⟨.revertLast, rfl⟩, ⟨.force, rfl⟩, ⟨.commit, rfl⟩, ⟨.pause, rfl⟩, ⟨.resume, rfl⟩,
    ⟨.queryCircuit, rfl⟩, ⟨.queryStation, rfl⟩, ⟨.takeReports, rfl⟩, ⟨.restart, rfl⟩]

/-! ## Orders that are not taken -/

theorem State.takeNameless_of_not_takes (h : s.takes = false) (n : Nat) : s.takeNameless n = s := by
  cases n with
  | zero => rfl
  | succ n =>
    unfold State.takeNameless
    split
    · exact if_neg (by rw [h, Bool.and_false]; decide)
    · rfl

/-- R141, R143, R149: no order is taken. -/
theorem State.takeAs_of_not (h : s.takes = false ∨ s.orderQueue = []) : s.takeAs row = s := by
  unfold State.takeAs
  rcases h with h | h
  · dsimp only
    rw [State.takeNameless_of_not_takes h]
    split
    · exact if_neg fun hn => by rw [h] at hn; cases hn.2
    · rfl
  · dsimp only
    rw [h]
    dsimp only [List.length_nil, State.takeNameless]
    rw [h]

/-! ## Orders that are carried out -/

/-- The station after order `o` has been carried out from the state in which it has left the queue, with its reply. -/
def State.replied (o : Order) (done : State × Answer) (s : State) : State :=
  { done.1 with replyQueue := s.replyQueue ++ [o.reply done.2] }

theorem exec_order (h : s.headIs o rest) (hrow : o.row = some row) :
    exec (commandOf row) s = .next (s.replied o ({ s with orderQueue := rest }.carryOut o)) :=
  (exec_commandOf_head h hrow).trans (congrArg Host.Outcome.next (State.takeHead_of_head h))

theorem State.carryOut_of_ok (hbad : s.stationState ≠ .configBad) (hrow : o.row = some row) (hok : o.operandOk row = true) :
    s.carryOut o = s.act row o := by
  unfold State.carryOut
  rw [if_neg hbad, hrow]
  exact if_pos hok

/-- An order whose operand is good, outside CONFIG_BAD. -/
theorem exec_order_of_ok (h : s.headIs o rest) (hrow : o.row = some row) (hbad : s.stationState ≠ .configBad)
    (hok : o.operandOk row = true) {done : State × Answer} (hdone : ({ s with orderQueue := rest } : State).act row o = done) :
    exec (commandOf row) s = .next (s.replied o done) := by
  rw [exec_order h hrow, State.carryOut_of_ok (s := { s with orderQueue := rest }) hbad hrow hok, hdone]

/-- Settles O45: an order command needs an order that the unit takes; a RESTART that has been taken stops it. -/
theorem ordersWaitAndRestartStopsThem : Obligations.OrdersWaitAndRestartStopsThem := by
  refine ⟨fun s i hi h => ?_, fun s o rest h hv hk => ?_⟩
  · obtain ⟨row, rfl⟩ := exists_commandOf hi
    rw [exec_commandOf, State.takeAs_of_not]
    rcases h with h | h | h | h
    · exact .inl (State.takes_eq_false (.inl h))
    · exact .inl (State.takes_eq_false (.inr (.inl h)))
    · exact .inl (State.takes_eq_false (.inr (.inr h)))
    · exact .inr h
  · have hrow : o.row = some .restart := Order.row_of_value hv nofun nofun
    have carried : ({ s with orderQueue := rest } : State).carryOut o = ({ s with orderQueue := rest } : State).doRestart := by
      by_cases hbad : s.stationState = .configBad
      · unfold State.carryOut State.carryOutUnconfigured
        rw [if_pos hbad, hrow]
      · exact State.carryOut_of_ok (s := { s with orderQueue := rest }) hbad hrow (decide_eq_true (hk.resolve_right hbad))
    refine ⟨_, (exec_order (row := .restart) h hrow).trans (congrArg (fun d => Host.Outcome.next (s.replied o d)) carried), ?_,
      fun i hi => ?_⟩
    · show ({ s with
        orderQueue := rest, restartTaken := true, replyQueue := s.replyQueue ++ [⟨o.source, o.tag, o.value, .done, none, []⟩] } : State) = _
      rw [hv]
    · obtain ⟨row, rfl⟩ := exists_commandOf hi
      exact (exec_commandOf _ _).trans (congrArg Host.Outcome.next (State.takeAs_of_not (.inl (State.takes_eq_false (.inr (.inr rfl))))))

/-! ## PAUSE and RESUME -/

theorem Trunk.serveLive_of_noLive (h : x.settings.policy = .hold ∨ ∀ f ∈ u.fallback, f.live = none) : u.serveLive x = u := by
  rcases h with h | h
  · exact Trunk.serveLive_of_not (Trunk.rollServes_eq_false (.inl h))
  · unfold Trunk.serveLive
    split
    · cases u.waitQueue.length with
      | zero => rfl
      | succ n =>
        unfold Trunk.serveRoll
        rw [Trunk.oldestLive_eq_none.mpr h]
        split
        next hv => cases hv
        next => rfl
    · rfl

theorem Trunk.serveLive_of_empty (h : u.waitQueue = []) (x : Ctx) : u.serveLive x = u :=
  Trunk.serveLive_of_not (Trunk.rollServes_eq_false (.inr (.inr (.inl h))))

theorem Trunk.resume_of_empty (h : u.waitQueue = []) (x : Ctx) : u.resume x = u := by
  unfold Trunk.resume
  rw [Trunk.serve_of_empty h, Trunk.serveLive_of_empty h, ite_self]

theorem Trunk.resume_of_room (h : u.fallback.length < 8) (x : Ctx) : u.resume x = u.serve x :=
  if_pos (Trunk.hasRoom_of_room h)

theorem Trunk.resume_of_full (h : 8 ≤ u.fallback.length) (x : Ctx) : u.resume x = u.serveLive x :=
  if_neg (by rw [Trunk.hasRoom_of_full h]; decide)

theorem exec_resume_paused (h : s.headIs o rest) (hbad : s.stationState ≠ .configBad) (hk : o.kind = 0) (hv : o.value = 6)
    (hp : s.paused = true) :
    exec .resume s = .next { s with
      paused := false
      orderQueue := rest
      trunk := s.trunk.resume { s.ctx with paused := false }
      replyQueue := s.replyQueue ++ [⟨o.source, o.tag, o.value, .done, none, []⟩] } :=
  exec_order_of_ok (row := .resume) h (Order.row_of_value hv nofun nofun) hbad (decide_eq_true hk) (if_pos hp)

/-- Settles O52: PAUSE and RESUME write the flag, and the RESUME that clears it serves. -/
theorem pauseAndResume : Obligations.PauseAndResume := by
  intro s o rest h hk hbad
  refine ⟨fun hv => ?_, fun hv hquiet => ?_, fun hv hp => ⟨_, exec_resume_paused h hbad hk hv hp, rfl, ⟨rfl, rfl⟩, ?_, ?_, ?_, ?_⟩⟩
  · rw [← hv]
    exact exec_order_of_ok (row := .pause) h (Order.row_of_value hv nofun nofun) hbad (decide_eq_true hk) rfl
  · cases hp : s.paused with
    | true =>
      have empty : s.trunk.waitQueue = [] := hquiet.resolve_left (by rw [hp]; decide)
      rw [exec_resume_paused h hbad hk hv hp, Trunk.resume_of_empty empty, hv]
    | false =>
      have resumed : ({ s with orderQueue := rest } : State).doResume = ({ s with orderQueue := rest }, .done []) :=
        if_neg (by show ¬ s.paused = true; rw [hp]; decide)
      rw [← hp, ← hv]
      exact exec_order_of_ok (row := .resume) h (Order.row_of_value hv nofun nofun) hbad (decide_eq_true hk) resumed
  · exact fun hroom => Trunk.resume_of_room hroom _
  · exact fun hfull _ => Trunk.resume_of_full hfull _
  · exact fun hfull hn => (Trunk.resume_of_full hfull _).trans (Trunk.serveLive_of_noLive hn)
  · rw [← hp]

end Sys2Proof.Machine
end

section
/-! Orders that name one circuit: CUT (R9, R145) and REVERT (R18, R146). -/

namespace Sys2Proof.Machine

variable {s t : State} {u v w : Trunk} {x : Ctx} {c : Nat} {r : Circuit} {b : Binding} {o : Order} {rest : List Order} {row : OrderRow}

/-! ## The answer about a circuit -/

/-- The station after an order that changes the trunk alone. -/
def State.answeredWith (o : Order) (rest : List Order) (v : Trunk) (a : Answer) (s : State) : State :=
  { s with trunk := v, orderQueue := rest, replyQueue := s.replyQueue ++ [o.reply a] }

theorem State.answeredWith_answered (o : Order) (rest : List Order) (v : Trunk) (a : Answer) (s : State) :
    s.answered o rest a.outcome a.reason a.payload (s.answeredWith o rest v a) ∧ s.sameButQueues (s.answeredWith o rest v a) :=
  ⟨⟨rfl, rfl⟩, rfl⟩

theorem Trunk.unchanged_refl (t : Trunk) : t.unchanged t := ⟨fun _ => rfl, ⟨rfl, rfl, rfl⟩, rfl, rfl⟩

theorem State.onNamed_circuit {f : Ctx → Nat → Trunk → Trunk × Option Reason} (hk : o.kind = 1) {reason : Option Reason}
    (hf : f s.ctx o.operand s.trunk = (v, reason)) : s.onNamed f o = ({ s with trunk := v }, circuitAnswer o.operand reason) := by
  have named : o.named s = .circuit o.operand := if_pos hk
  unfold State.onNamed
  rw [named]
  dsimp only
  rw [hf]

/-- An order that is carried out on the circuit it names. -/
theorem exec_circuitOrder {f : Ctx → Nat → Trunk → Trunk × Option Reason} (h : s.headIs o rest) (hrow : o.row = some row)
    (hbad : s.stationState ≠ .configBad) (hok : o.operandOk row = true) (hk : o.kind = 1) {reason : Option Reason}
    (hact : ({ s with orderQueue := rest } : State).act row o = ({ s with orderQueue := rest } : State).onNamed f o)
    (hf : f s.ctx o.operand s.trunk = (v, reason)) :
    exec (commandOf row) s = .next (s.answeredWith o rest v (circuitAnswer o.operand reason)) :=
  exec_order_of_ok h hrow hbad hok (hact.trans (State.onNamed_circuit (s := { s with orderQueue := rest }) hk hf))

theorem Order.circuitsOk_of_circuit (hk : o.kind = 1) : o.circuitsOk = true := by
  unfold Order.circuitsOk
  rw [decide_eq_true hk]
  rfl

/-! ## CUT -/

theorem State.ne_configBad_of_stage (h : s.stage = .listening ∨ s.stage = .operating) : s.stationState ≠ .configBad := by
  intro hbad
  rw [State.stage_of_not_listening s (by rw [hbad]; decide), hbad] at h
  rcases h with h | h <;> cases h

theorem exec_cut_operating (h : s.headIs o rest) (hv : o.value = 1) (hk : o.kind = 1) (hstage : s.stage = .operating)
    {reason : Option Reason} (hf : s.trunk.cutOne s.ctx o.operand = (v, reason)) :
    exec .cut s = .next (s.answeredWith o rest v (circuitAnswer o.operand reason)) :=
  exec_circuitOrder (row := .cut) (f := fun x c t => t.cutOne x c) h (Order.row_of_value hv nofun nofun)
    (State.ne_configBad_of_stage (.inr hstage)) (Order.circuitsOk_of_circuit hk) hk (if_pos hstage) hf

theorem exec_cut_listening (h : s.headIs o rest) (hv : o.value = 1) (hk : o.kind = 1) (hstage : s.stage = .listening) :
    exec .cut s = .next (s.answeredWith o rest s.trunk (.refused .notReady (circuitReply o.operand))) := by
  have cut : ({ s with orderQueue := rest } : State).doCut o =
      ({ s with orderQueue := rest }, .refused .notReady (circuitReply o.operand)) := by
    have named : o.named { s with orderQueue := rest } = .circuit o.operand := if_pos hk
    have waits : ¬ ({ s with orderQueue := rest } : State).stage = .operating := by
      show ¬ s.stage = .operating
      rw [hstage]
      decide
    unfold State.doCut
    rw [if_neg waits]
    unfold State.cutNotReady
    rw [named]
    rfl
  exact exec_order_of_ok (row := .cut) h (Order.row_of_value hv nofun nofun) (State.ne_configBad_of_stage (.inl hstage))
    (Order.circuitsOk_of_circuit hk) cut

theorem State.ctx_matched_iff (s : State) (n : Nat) : s.ctx.matched n = true ↔ ∃ w, s.windows[n]? = some w ∧ w.matched = true := by
  unfold Ctx.matched
  show (match s.windows[n]? with | some win => win.matched | none => false) = true ↔ _
  cases s.windows[n]? with
  | none => simp
  | some w => simp

theorem State.ctx_matched_eq_false (h : ∀ w, s.windows[b.window]? = some w → w.matched = false) : s.ctx.matched b.window = false := by
  rw [← Bool.not_eq_true, State.ctx_matched_iff]
  rintro ⟨w, hw, hm⟩
  rw [h w hw] at hm
  cases hm

/-- The first failed test of R9. -/
theorem State.cutOne_refused {reason : Reason}
    (h : ((s.circuit c).binding = none ∧ reason = .notBound) ∨
      (∃ b, (s.circuit c).binding = some b ∧
        (((s.circuit c).state ≠ .copper ∧ reason = .wrongState) ∨
          ((s.circuit c).state = .copper ∧
            (((s.circuit c).releaseCells ≠ 0 ∧ reason = .busy) ∨
              ((s.circuit c).releaseCells = 0 ∧
                (((∀ w, s.windows[b.window]? = some w → w.matched = false) ∧ reason = .mismatch) ∨
                  ((∃ w, s.windows[b.window]? = some w ∧ w.matched = true) ∧
                    (((s.peer b.peer).state ≠ .present ∧ reason = .peerAbsent) ∨
                      ((s.peer b.peer).state = .present ∧ (s.circuit c).calendarRow = none ∧
                        (∀ k, k < 40 → 6 ≤ (s.trunk.row k).length) ∧ reason = .laneFull)))))))))) :
    s.trunk.cutOne s.ctx c = (s.trunk, some reason) := by
  unfold Trunk.cutOne
  dsimp only
  rcases h with ⟨hb, rfl⟩ | ⟨b, hb, h⟩
  · rw [show (s.trunk.circuit c).binding = _ from hb]
  rw [show (s.trunk.circuit c).binding = _ from hb]
  dsimp only
  rcases h with ⟨hs, rfl⟩ | ⟨hs, h⟩
  · exact if_pos hs
  rw [if_neg (show ¬ (s.trunk.circuit c).state ≠ .copper from not_not.mpr hs)]
  rcases h with ⟨hcells, rfl⟩ | ⟨hcells, h⟩
  · exact if_pos hcells
  rw [if_neg (show ¬ (s.trunk.circuit c).releaseCells ≠ 0 from not_not.mpr hcells)]
  rcases h with ⟨hw, rfl⟩ | ⟨hw, h⟩
  · exact if_pos (State.ctx_matched_eq_false hw)
  rw [if_neg (by rw [(s.ctx_matched_iff b.window).mpr hw]; decide)]
  rcases h with ⟨hp, rfl⟩ | ⟨hp, hrow, hfull, rfl⟩
  · exact if_pos ((s.ctx_present_eq_false b.peer).mpr hp)
  rw [if_neg (by rw [(s.ctx_present_iff b.peer).mpr hp]; decide), Trunk.join_of_full hrow hfull]

theorem State.cutOne_granted {k : Nat} {w : Window} (hb : (s.circuit c).binding = some b) (hs : (s.circuit c).state = .copper)
    (hcells : (s.circuit c).releaseCells = 0) (hw : s.windows[b.window]? = some w) (hm : w.matched = true)
    (hp : (s.peer b.peer).state = .present) (hrow : (s.circuit c).calendarRow = none) (hk : s.trunk.emptiestRow = k)
    (hroom : (s.trunk.row k).length < 6) :
    s.trunk.cutOne s.ctx c = (s.trunk.bridged s.settings.params c k, none) := by
  unfold Trunk.cutOne
  dsimp only
  rw [show (s.trunk.circuit c).binding = _ from hb]
  dsimp only
  rw [if_neg (show ¬ (s.trunk.circuit c).state ≠ .copper from not_not.mpr hs),
    if_neg (show ¬ (s.trunk.circuit c).releaseCells ≠ 0 from not_not.mpr hcells),
    if_neg (by rw [(s.ctx_matched_iff b.window).mpr ⟨w, hw, hm⟩]; decide),
    if_neg (by rw [(s.ctx_present_iff b.peer).mpr hp]; decide), Trunk.join_of_room hrow hk hroom]
  rfl

theorem Circuit.toBridging_newly (p : Params) (k : Nat) (r : Circuit) :
    r.newlyBridging p k (({ r with calendarRow := some k } : Circuit).toBridging p) := by
  refine ⟨rfl, rfl, rfl, rfl, rfl, rfl, rfl, rfl, rfl, rfl, rfl, Bool.and_false _, rfl, rfl, rfl, rfl, rfl, rfl, rfl, rfl, rfl,
    fun w => ?_⟩
  refine if_neg ?_
  rw [show ((({ r with calendarRow := some k } : Circuit).toBridging p).positionOf w).tag = none from Circuit.clearTags_tag r w]
  nofun

/-- Settles O47: the first test that fails refuses the CUT; one that passes them all enters BRIDGING. -/
theorem cutTestsAndEntry : Obligations.CutTestsAndEntry := by
  refine ⟨fun s o rest reason h hv hk hc hcase => ?_, fun s o rest b w k h hv hk hc hstage hb hs hcells hw hm hp hrow hk40 hroom hleast => ?_⟩
  · rcases hcase with ⟨hstage, rfl⟩ | ⟨hstage, hcase⟩
    · obtain ⟨answered, same⟩ := s.answeredWith_answered o rest s.trunk (.refused .notReady (circuitReply o.operand))
      exact ⟨_, exec_cut_listening h hv hk hstage, answered, same, s.trunk.unchanged_refl⟩
    · obtain ⟨answered, same⟩ := s.answeredWith_answered o rest s.trunk (circuitAnswer o.operand (some reason))
      exact ⟨_, exec_cut_operating h hv hk hstage (State.cutOne_refused hcase), answered, same, s.trunk.unchanged_refl⟩
  · have granted := State.cutOne_granted hb hs hcells hw hm hp hrow (Trunk.emptiestRow_eq hk40 hleast) hroom
    obtain ⟨answered, same⟩ := s.answeredWith_answered o rest (s.trunk.bridged s.settings.params o.operand k)
      (circuitAnswer o.operand none)
    have row (j : Nat) := Trunk.bridged_row s.settings.params o.operand k s.trunk j
    refine ⟨_, exec_cut_operating h hv hk hstage granted, answered, same, Trunk.bridged_sameOthers _ _ _ _,
      (row k).trans (if_pos rfl), fun j hj => (row j).trans (if_neg hj), rfl, rfl, ⟨rfl, rfl⟩, ?_⟩
    have final : (s.answeredWith o rest (s.trunk.bridged s.settings.params o.operand k) (circuitAnswer o.operand none)).circuit
        o.operand = _ := Trunk.bridged_circuit hc _ k s.trunk
    rw [final]
    exact (s.trunk.circuit o.operand).toBridging_newly s.settings.params k

/-! ## REVERT -/

theorem exec_revert (h : s.headIs o rest) (hv : o.value = 2) (hk : o.kind = 1) (hbad : s.stationState ≠ .configBad)
    {reason : Option Reason} (hf : s.trunk.revertOne s.ctx o.operand = (v, reason)) :
    exec .revert s = .next (s.answeredWith o rest v (circuitAnswer o.operand reason)) :=
  exec_circuitOrder (row := .revert) (f := fun x c t => t.revertOne x c) h
    (Order.row_of_value hv (fun _ => by rw [hk]; decide) nofun) hbad (Order.circuitsOk_of_circuit hk) hk rfl hf

theorem Trunk.revertOne_refused {reason : Reason} (h : ((u.circuit c).state = .vacant ∧ reason = .notBound) ∨
    ((u.circuit c).state = .copper ∧ reason = .wrongState) ∨
      (((u.circuit c).state = .committed ∨ (u.circuit c).state = .held) ∧ reason = .noFallback)) (x : Ctx) :
    u.revertOne x c = (u, some reason) := by
  unfold Trunk.revertOne
  rcases h with ⟨h, rfl⟩ | ⟨h, rfl⟩ | ⟨h | h, rfl⟩ <;> rw [h]

theorem Trunk.revertOne_abandons (h : (u.circuit c).state.beforeSplice = true) (x : Ctx) :
    u.revertOne x c = (u.abandonWith x c none, none) := by
  unfold Trunk.revertOne
  rcases (CircuitState.beforeSplice_iff _).mp h with h | h | h | h <;> rw [h]

theorem Trunk.holdRuns_eq {l : LiveFields} (h : u.liveOf c = some l) : u.holdRuns c = l.hold.isSome := by
  unfold Trunk.liveOf at h
  unfold Trunk.holdRuns
  cases hf : u.recordOf c with
  | none =>
    rw [hf] at h
    cases h
  | some f =>
    rw [hf] at h
    dsimp only at h ⊢
    rw [h]

/-- The trunk in which the revert of circuit `c` waits for the end of its hold (R18). -/
def Trunk.deferred (c : Nat) (t : Trunk) : Trunk := t.modify c fun r => { r with deferredRevert := true }

theorem Trunk.revertOne_spliced {l : LiveFields} (hs : (u.circuit c).state = .spliced) (h : u.liveOf c = some l) (x : Ctx) :
    u.revertOne x c = (if l.hold.isSome then u.deferred c else u.toRevertWait c, none) := by
  unfold Trunk.revertOne
  rw [hs, Trunk.holdRuns_eq h]
  dsimp only
  split <;> rfl

theorem Trunk.revertOne_revertWait (h : (u.circuit c).state = .revertWait) (x : Ctx) : u.revertOne x c = (u, none) := by
  unfold Trunk.revertOne
  rw [h]

theorem Trunk.revertOne_down (h : (u.circuit c).state = .down) (x : Ctx) :
    u.revertOne x c = (u.modify c (Circuit.enter .copper), none) := by
  unfold Trunk.revertOne
  rw [h]

/-- The two outcomes of a REVERT on a SPLICED circuit (R18). -/
theorem Trunk.revertOne_spliced_frame {l : LiveFields} (hc : c < 256) (hs : (u.circuit c).state = .spliced)
    (h : u.liveOf c = some l) (x : Ctx) :
    ∃ v, u.revertOne x c = (v, none) ∧ u.onlyRecord c v ∧
      (l.hold ≠ none → v.circuit c = { u.circuit c with deferredRevert := true }) ∧
      (l.hold = none → v.circuit c = { (u.circuit c).enter .revertWait with deferredRevert := false }) := by
  have reverts := Trunk.revertOne_spliced hs h x
  cases hold : l.hold with
  | none =>
    rw [hold] at reverts
    exact ⟨u.toRevertWait c, reverts, ⟨Trunk.modify_sameOthers c _ u, ⟨rfl, rfl, rfl⟩, rfl, rfl⟩, fun hn => absurd rfl hn,
      fun _ => Trunk.circuit_modify_same u _ hc⟩
  | some n =>
    rw [hold] at reverts
    exact ⟨u.deferred c, reverts, ⟨Trunk.modify_sameOthers c _ u, ⟨rfl, rfl, rfl⟩, rfl, rfl⟩, fun _ => Trunk.circuit_modify_same u _ hc, nofun⟩

/-- Settles O48: a REVERT takes its circuit by its state. -/
theorem revertByState : Obligations.RevertByState := by
  intro s o rest h hv hk hc hbad
  refine ⟨fun reason hcase => ?_, fun hs hserve => ?_, fun l hs hl => ?_, fun hs => ?_, fun hs => ?_⟩
  · obtain ⟨answered, same⟩ := s.answeredWith_answered o rest s.trunk (circuitAnswer o.operand (some reason))
    exact ⟨_, exec_revert h hv hk hbad (Trunk.revertOne_refused hcase _), answered, same, s.trunk.unchanged_refl⟩
  · have abandons := (Trunk.revertOne_abandons hs s.ctx).trans (congrArg (·, none) (Trunk.abandonWith_none hserve.trunk))
    obtain ⟨answered, same⟩ := s.answeredWith_answered o rest (s.trunk.abandonCore o.operand) (circuitAnswer o.operand none)
    obtain ⟨others, fallback, queue, calendar⟩ := s.trunk.abandonCore_abandoned o.operand
    have final : (s.answeredWith o rest (s.trunk.abandonCore o.operand) (circuitAnswer o.operand none)).circuit o.operand = _ :=
      Trunk.abandonCore_circuit hc s.trunk
    refine ⟨_, exec_revert h hv hk hbad abandons, answered, same, others, ?_, fallback, queue, calendar, rfl, rfl⟩
    rw [final]
    exact (s.trunk.circuit o.operand).backOnCopper_toCopper
  · obtain ⟨v, reverts, ⟨others, lists, reports⟩, runs, ended⟩ := Trunk.revertOne_spliced_frame hc hs hl s.ctx
    obtain ⟨answered, same⟩ := s.answeredWith_answered o rest v (circuitAnswer o.operand none)
    refine ⟨_, exec_revert h hv hk hbad reverts, answered, same, others, lists, reports, runs, fun hn => ?_⟩
    have final : (s.answeredWith o rest v (circuitAnswer o.operand none)).circuit o.operand = _ := ended hn
    rw [final]
    exact ⟨rfl, rfl, rfl, rfl⟩
  · obtain ⟨answered, same⟩ := s.answeredWith_answered o rest s.trunk (circuitAnswer o.operand none)
    exact ⟨_, exec_revert h hv hk hbad (Trunk.revertOne_revertWait hs _), answered, same, s.trunk.unchanged_refl⟩
  · obtain ⟨answered, same⟩ := s.answeredWith_answered o rest (s.trunk.modify o.operand (Circuit.enter .copper))
      (circuitAnswer o.operand none)
    have final : (s.answeredWith o rest (s.trunk.modify o.operand (Circuit.enter .copper))
        (circuitAnswer o.operand none)).circuit o.operand = _ := Trunk.circuit_modify_same s.trunk _ hc
    refine ⟨_, exec_revert h hv hk hbad (Trunk.revertOne_down hs _), answered, same,
      ⟨Trunk.modify_sameOthers _ _ _, ⟨rfl, rfl, rfl⟩, rfl, rfl⟩, ?_⟩
    rw [final]
    exact ⟨rfl, Bool.and_false _, rfl, rfl, rfl⟩

end Sys2Proof.Machine
end

section
/-! REVERT naming LAST (R104, R146), FORCE and COMMIT (R79, R89, R147). -/

namespace Sys2Proof.Machine

variable {s t : State} {u v w : Trunk} {x : Ctx} {c : Nat} {r : Circuit} {b : Binding} {o : Order} {rest : List Order}

/-! ## LAST -/

/-- R104: the LIVE record nearest the tail. -/
theorem Trunk.newestLive_of_split {before after : List FallbackRecord} {f : FallbackRecord}
    (hsplit : u.fallback = before ++ f :: after) (hf : f.live ≠ none) (hafter : ∀ g ∈ after, g.live = none) :
    u.newestLive = some f.circuit := by
  have none : after.reverse.find? (fun f => f.live.isSome) = none := by simpa using hafter
  unfold Trunk.newestLive
  rw [hsplit, List.reverse_append, List.reverse_cons, List.append_assoc, List.find?_append, none]
  simp [Option.isSome_iff_ne_none.mpr hf]

theorem Trunk.newestLive_eq_none (h : ∀ f ∈ u.fallback, f.live = none) : u.newestLive = none := by
  simpa [Trunk.newestLive] using h

/-- The record of a circuit that no record before it names. -/
theorem Trunk.liveOf_of_split {before after : List FallbackRecord} {f : FallbackRecord}
    (hsplit : u.fallback = before ++ f :: after) (hbefore : ∀ g ∈ before, g.circuit ≠ f.circuit) :
    u.liveOf f.circuit = f.live := by
  have none : before.find? (fun g => decide (g.circuit = f.circuit)) = none := by simpa using hbefore
  have found : u.recordOf f.circuit = some f := by
    unfold Trunk.recordOf
    rw [hsplit, List.find?_append, none]
    simp
  unfold Trunk.liveOf
  rw [found]

theorem exec_revertLast (h : s.headIs o rest) (hv : o.value = 2) (hk : o.kind = 4) (hbad : s.stationState ≠ .configBad)
    {a : Answer} (hdone : ({ s with orderQueue := rest } : State).doRevertLast = ({ s with orderQueue := rest, trunk := v }, a)) :
    exec .revertLast s = .next (s.answeredWith o rest v a) :=
  exec_order_of_ok (row := .revertLast) h (Order.row_of_value hv nofun (fun _ => hk)) hbad (decide_eq_true hk) hdone

theorem State.doRevertLast_of_none (h : s.trunk.newestLive = none) :
    s.doRevertLast = (s, .refused .noFallback noCircuitPayload) := by
  unfold State.doRevertLast
  rw [h]

theorem State.doRevertLast_of_some {reason : Option Reason} (h : s.trunk.newestLive = some c)
    (hf : s.trunk.revertOne s.ctx c = (v, reason)) : s.doRevertLast = ({ s with trunk := v }, circuitAnswer c reason) := by
  unfold State.doRevertLast
  rw [h]
  dsimp only
  rw [hf]

/-- Settles O49: LAST is the REVERT of the circuit whose LIVE record is nearest the tail. -/
theorem revertLastSelectsNewestLive : Obligations.RevertLastSelectsNewestLive := by
  intro s o rest h hv hk hbad
  refine ⟨fun hnone => ?_, fun before after f l hsplit hl hafter hbefore hc hs => ?_⟩
  · obtain ⟨answered, same⟩ := s.answeredWith_answered o rest s.trunk (.refused .noFallback noCircuitPayload)
    have refused := State.doRevertLast_of_none (s := { s with orderQueue := rest }) (Trunk.newestLive_eq_none hnone)
    exact ⟨_, exec_revertLast h hv hk hbad refused, answered, same, s.trunk.unchanged_refl⟩
  · have newest : s.trunk.newestLive = some f.circuit := Trunk.newestLive_of_split hsplit (by rw [hl]; nofun) hafter
    have live : s.trunk.liveOf f.circuit = some l := (Trunk.liveOf_of_split hsplit hbefore).trans hl
    rcases hs with hs | hs
    · obtain ⟨v, reverts, ⟨others, lists, reports⟩, runs, ended⟩ := Trunk.revertOne_spliced_frame hc hs live s.ctx
      obtain ⟨answered, same⟩ := s.answeredWith_answered o rest v (circuitAnswer f.circuit none)
      refine ⟨_, exec_revertLast h hv hk hbad (State.doRevertLast_of_some (s := { s with orderQueue := rest }) newest reverts),
        answered, same, others, lists, reports, fun _ => runs, fun _ hn => ?_, fun hw => ?_⟩
      · have final : (s.answeredWith o rest v (circuitAnswer f.circuit none)).circuit f.circuit = _ := ended hn
        rw [final]
        exact ⟨rfl, rfl⟩
      · rw [show (s.circuit f.circuit).state = _ from hs] at hw
        cases hw
    · obtain ⟨answered, same⟩ := s.answeredWith_answered o rest s.trunk (circuitAnswer f.circuit none)
      refine ⟨_, exec_revertLast h hv hk hbad (State.doRevertLast_of_some (s := { s with orderQueue := rest }) newest
        (Trunk.revertOne_revertWait hs _)), answered, same, fun _ _ => rfl, ⟨rfl, rfl, rfl⟩, ⟨rfl, rfl⟩, fun hw => ?_, fun hw => ?_,
        fun _ => rfl⟩
      all_goals
        rw [show (s.circuit f.circuit).state = _ from hs] at hw
        cases hw

/-! ## FORCE -/

theorem exec_force (h : s.headIs o rest) (hv : o.value = 3) (hk : o.kind = 1) (hbad : s.stationState ≠ .configBad)
    {reason : Option Reason} (hf : s.trunk.forceOne s.ctx o.operand = (v, reason)) :
    exec .force s = .next (s.answeredWith o rest v (circuitAnswer o.operand reason)) :=
  exec_circuitOrder (row := .force) (f := fun x c t => t.forceOne x c) h (Order.row_of_value hv nofun nofun) hbad
    (decide_eq_true hk) hk rfl hf

theorem Trunk.forceOne_refused {reason : Reason} (h : ((u.circuit c).state = .vacant ∧ reason = .notBound) ∨
    ((u.circuit c).state ≠ .vacant ∧ (u.circuit c).state ≠ .spliceWait ∧ (u.circuit c).state ≠ .revertWait ∧
      reason = .wrongState)) (x : Ctx) : u.forceOne x c = (u, some reason) := by
  unfold Trunk.forceOne
  dsimp only
  rcases h with ⟨h, rfl⟩ | ⟨hv, hw, hr, rfl⟩
  · rw [h]
  · cases hs : (u.circuit c).state
    case vacant => exact absurd hs hv
    case spliceWait => exact absurd hs hw
    case revertWait => exact absurd hs hr
    all_goals rfl

theorem Trunk.forceOne_splices {d : Nat} (h : (u.circuit c).state = .spliceWait) (hd : (u.circuit c).splice.deficit = some d)
    (x : Ctx) :
    u.forceOne x c =
      (u.spliceAndServe x c .forced d (isActive x.settings ((u.circuit c).sampleOfFrame x c)), none) := by
  unfold Trunk.forceOne
  dsimp only
  rw [h, hd]
  rfl

theorem Trunk.forceOne_reverses (h : (u.circuit c).state = .revertWait) (x : Ctx) :
    u.forceOne x c = (u.reverseSplice x c .forced, none) := by
  unfold Trunk.forceOne
  dsimp only
  rw [h]

/-- R79: the sample delivered in the frame, given or still to be given. -/
theorem Circuit.sampleOfFrame_of_offFibre {smp : Byte} (hs : r.state.onFibre = false)
    (h : (r.path.given = true ∧ smp = r.path.lastSample) ∨
      (r.path.given = false ∧ r.path.source = .copper ∧ smp = (slotOf x.legacyIn c).sample)) : r.sampleOfFrame x c = smp := by
  unfold Circuit.sampleOfFrame
  rcases h with ⟨hgiven, rfl⟩ | ⟨hgiven, hsource, rfl⟩
  · exact if_pos hgiven
  · have filled : r.fillEnd x.frame = r := Circuit.fillEnd_of_not fun _ _ h => by rw [hs] at h; cases h
    rw [if_neg (by rw [hgiven]; decide), filled]
    exact Circuit.slotSample_copper hsource

/-! ## COMMIT -/

theorem exec_commit (h : s.headIs o rest) (hv : o.value = 4) (hk : o.kind = 1) (hbad : s.stationState ≠ .configBad)
    {reason : Option Reason} (hf : s.trunk.commitOne s.ctx o.operand = (v, reason)) :
    exec .commit s = .next (s.answeredWith o rest v (circuitAnswer o.operand reason)) :=
  exec_circuitOrder (row := .commit) (f := fun x c t => t.commitOne x c) h (Order.row_of_value hv nofun nofun) hbad
    (Order.circuitsOk_of_circuit hk) hk rfl hf

theorem Trunk.commitOne_refused {reason : Reason} (h : ((u.circuit c).state = .vacant ∧ reason = .notBound) ∨
    ((u.circuit c).state ≠ .vacant ∧ (u.circuit c).state ≠ .spliced ∧ reason = .wrongState)) (x : Ctx) :
    u.commitOne x c = (u, some reason) := by
  unfold Trunk.commitOne
  rcases h with ⟨h, rfl⟩ | ⟨hv, hs, rfl⟩
  · rw [h]
  · cases hst : (u.circuit c).state
    case vacant => exact absurd hst hv
    case spliced => exact absurd hst hs
    all_goals rfl

theorem Trunk.commitOne_commits (h : (u.circuit c).state = .spliced) (x : Ctx) :
    u.commitOne x c = ((u.commit x c .committed none).serve x, none) := by
  unfold Trunk.commitOne
  rw [h]

theorem State.spliced_serves_none {k : SpliceKind} {d : Nat} {gap : Bool} (h : s.trunk.Spliced s.ctx c b k d gap v)
    (hquiet : s.paused = true ∨ s.trunk.waitQueue = [] ∨ s.settings.policy = .hold) : v.serveLive s.ctx = v := by
  refine Trunk.serveLive_of_not (Trunk.rollServes_eq_false ?_)
  rw [h.waitQueue]
  rcases hquiet with h | h | h
  · exact .inr (.inl h)
  · exact .inr (.inr (.inl h))
  · exact .inl h

/-- Settles O50: FORCE splices or reverses, COMMIT commits, each by the state of its circuit. -/
theorem forceAndCommitByState : Obligations.ForceAndCommitByState := by
  refine ⟨?_, ?_⟩
  · intro s o rest h hv hk hc hbad
    refine ⟨fun reason hcase => ?_, fun b off d smp hs hb hoff hd hrec hquiet hsmp => ?_, fun b hs hb hserve => ?_⟩
    · obtain ⟨answered, same⟩ := s.answeredWith_answered o rest s.trunk (circuitAnswer o.operand (some reason))
      exact ⟨_, exec_force h hv hk hbad (Trunk.forceOne_refused hcase _), answered, same, s.trunk.unchanged_refl⟩
    · have sample : (s.circuit o.operand).sampleOfFrame s.ctx o.operand = smp :=
        Circuit.sampleOfFrame_of_offFibre (by rw [hs]; rfl) hsmp
      have spliced := Trunk.splice_spliced s.ctx .forced d (isActive s.settings smp) hc hb
      have forced : s.trunk.forceOne s.ctx o.operand = (s.trunk.splice s.ctx o.operand .forced d (isActive s.settings smp), none) := by
        rw [Trunk.forceOne_splices hs hd, show (s.trunk.circuit o.operand).sampleOfFrame s.ctx o.operand = smp from sample]
        exact congrArg (·, none) (State.spliced_serves_none spliced hquiet)
      generalize s.trunk.splice s.ctx o.operand .forced d (isActive s.settings smp) = v at spliced forced
      obtain ⟨answered, same⟩ := s.answeredWith_answered o rest v (circuitAnswer o.operand none)
      have own := spliced.circuit
      have entered := spliced.entered
      rw [Circuit.spliced_of_offset (r := s.trunk.circuit o.operand) hoff] at own entered
      have final : (s.answeredWith o rest v (circuitAnswer o.operand none)).circuit o.operand = _ := own
      refine ⟨_, exec_force h hv hk hbad forced, answered, same, spliced.others, spliced.waitQueue, spliced.calendar, ?_⟩
      rw [final]
      exact ⟨rfl, rfl, rfl, rfl, rfl, entered⟩
    · have forced := Trunk.forceOne_reverses hs s.ctx
      obtain ⟨reversed, own, entered⟩ := Trunk.reverseSplice_reported hserve.trunk .forced hc hb
      obtain ⟨back, kind, -⟩ := Circuit.backOnCopper_of_reversed own
      obtain ⟨answered, same⟩ := s.answeredWith_answered o rest (s.trunk.reverseSplice s.ctx o.operand .forced)
        (circuitAnswer o.operand none)
      exact ⟨_, exec_force h hv hk hbad forced, answered, same, reversed.others, back, kind, reversed.fallback,
        reversed.waitQueue, reversed.calendar, entered⟩
  · intro s o rest h hv hk hc hbad
    refine ⟨fun reason hcase => ?_, fun b hs hb hflag hquiet => ?_⟩
    · obtain ⟨answered, same⟩ := s.answeredWith_answered o rest s.trunk (circuitAnswer o.operand (some reason))
      exact ⟨_, exec_commit h hv hk hbad (Trunk.commitOne_refused hcase _), answered, same, s.trunk.unchanged_refl⟩
    · have committed := Trunk.commit_committed hc s.ctx .committed none s.trunk
      have first (hroom : s.trunk.reports.length < 64) := Trunk.commit_reports_first s.ctx .committed none hc hb hroom
      have commits : s.trunk.commitOne s.ctx o.operand = (s.trunk.commit s.ctx o.operand .committed none, none) := by
        rw [Trunk.commitOne_commits hs]
        rcases hquiet with hp | hq
        · rw [Trunk.serve_of_paused hp]
        · rw [Trunk.serve_of_empty (committed.waitQueue.trans hq)]
      generalize s.trunk.commit s.ctx o.operand .committed none = v at committed first commits
      obtain ⟨answered, same⟩ := s.answeredWith_answered o rest v (circuitAnswer o.operand none)
      obtain ⟨l, own⟩ := committed.circuit
      have final : (s.answeredWith o rest v (circuitAnswer o.operand none)).circuit o.operand = _ := own
      refine ⟨_, exec_commit h hv hk hbad commits, answered, same, committed.others, committed.fallback, committed.waitQueue,
        committed.calendar, ?_⟩
      rw [final]
      refine ⟨rfl, rfl, rfl, rfl, (congrArg (· || _) hflag).trans (Bool.false_or _), fun hroom => ?_⟩
      obtain ⟨more, hmore⟩ := first hroom
      exact ⟨more, hmore.symm.trans (List.append_assoc _ _ _)⟩

end Sys2Proof.Machine
end

section
/-! R98, R100, R101: the first step of a serving, and the circuits that a serving leaves alone. -/

namespace Sys2Proof.Machine

variable {s : State} {t u v w : Trunk} {x : Ctx} {c h d : Nat} {r : Circuit} {b : Binding} {rest : List Nat}

/-! ## The head of the wait queue -/

/-- R100: a head above Dmax goes back to ALIGNED, and the serving goes on. -/
theorem Trunk.serve_of_head_exceeds (hp : x.paused = false) (hq : t.waitQueue = h :: rest) (hroom : t.fallback.length < 8)
    (hh : h < 256) (hb : (t.circuit h).binding = some b) (hd : (t.circuit h).deficitNow x.settings.params = some d)
    (hx : x.settings.params.dmax < d) : ∃ u, (t.dequeued rest).Exceeded x h b d u ∧ t.serve x = u.serve x :=
  ⟨_, Trunk.delayExcess_exceeded (t := t.dequeued rest) x d hh hb, Trunk.serve_of_excess hp hq hroom hd hx⟩

/-- R100: a head with a deficit of 1 to Dmax gets a PENDING record, and the serving goes on. -/
theorem Trunk.serve_of_head_waits (hp : x.paused = false) (hq : t.waitQueue = h :: rest) (hroom : t.fallback.length < 8)
    (hh : h < 256) (hd : (t.circuit h).deficitNow x.settings.params = some d) (hpos : 0 < d)
    (hx : d ≤ x.settings.params.dmax) : ∃ u, (t.dequeued rest).Waits h d u ∧ t.serve x = u.serve x := by
  have waits := Trunk.toSpliceWait_waits (t := t.dequeued rest) hh d hroom
  refine ⟨_, waits, ?_⟩
  rw [Trunk.serve_of_grant hp hq hroom hd hx (Trunk.grant_of_pos hpos x h _) waits.waitQueue]
  exact if_neg fun hz => absurd hz.1 (Nat.pos_iff_ne_zero.mp hpos)

/-- R77, R96, R100: a head with a deficit of 0 splices SEAMLESS with a LIVE record; under ROLL a record that fills the list
serves on by R101. -/
theorem Trunk.serve_of_head_seamless (hp : x.paused = false) (hq : t.waitQueue = h :: rest) (hroom : t.fallback.length < 8)
    (hh : h < 256) (hb : (t.circuit h).binding = some b) (hd : (t.circuit h).deficitNow x.settings.params = some 0) :
    ∃ u, (t.dequeued rest).Spliced x h b .seamless 0 false u ∧
      t.serve x = if u.rollServes x = true then u.serveLive x else u.serve x := by
  have spliced := Trunk.splice_spliced (t := t.dequeued rest) x .seamless 0 false hh hb
  refine ⟨_, spliced, ?_⟩
  rw [Trunk.serve_of_grant hp hq hroom hd (Nat.zero_le _) (Trunk.grant_of_zero x h _) spliced.waitQueue]
  simp only [true_and]

/-- A SEAMLESS splice of a circuit without a record, from room (R93, R96). -/
theorem Trunk.Spliced.fallback_of_room (hs : (t.dequeued rest).Spliced x h b .seamless 0 false u) (hrec : t.recordOf h = none)
    (hroom : t.fallback.length < 8) : u.fallback = t.fallback ++ [x.liveRecord h] :=
  hs.fallback.trans (Trunk.recordLive_fallback_of_none (t := t.dequeued rest) hrec hroom x)

theorem Circuit.spliceAt_splicedSeamless (p o : Word) (l : Option ReportKind) (r : Circuit) :
    r.splicedSeamless o { r.spliceAt p .seamless o 0 false with lastReported := l } := by
  have flag : (r.legacyReleased && CircuitState.spliced.keepsRelease) = false := Bool.and_false _
  have offset : some (o + BitVec.ofNat 16 0) = some o := congrArg some (BitVec.add_zero o)
  unfold Circuit.splicedSeamless Circuit.spliceAt Circuit.enter
  dsimp only
  rw [offset, flag]
  rfl

/-- What a SEAMLESS splice at O leaves of the record and of the reports. -/
theorem Trunk.Spliced.seamless {o : Word} (hs : t.Spliced x h b .seamless 0 false u) (ho : (t.circuit h).align.offset = some o) :
    (t.circuit h).splicedSeamless o (u.circuit h) ∧
      t.entered (aboutCircuit x.cycles h b .spliced (some (.splice .seamless)) (some 0) ⟨false, false, false⟩) u := by
  have own := hs.circuit
  have entered := hs.entered
  rw [Circuit.spliced_of_offset ho] at own entered
  rw [own]
  exact ⟨Circuit.spliceAt_splicedSeamless _ _ _ _, entered⟩

/-! ## A forced commit in a full list -/

/-- What the forced commit of the oldest LIVE record leaves to the head of the queue (R95, R101). -/
theorem Trunk.serveLive_of_head_waits {o : Nat} (hroll : x.settings.policy = .roll) (hp : x.paused = false)
    (hq : t.waitQueue = h :: rest) (hfull : t.fallback.length = 8) (hlive : t.oldestLive = some o) (ho : o < 256) (hh : h < 256)
    (hroom : (withoutRecord o t.fallback).length < 8) (hd : (t.circuit h).deficitNow x.settings.params = some d) (hpos : 0 < d)
    (hx : d ≤ x.settings.params.dmax) :
    ∃ v, (t.dequeued rest).Committed o v ∧ v.Waits h d (t.serveLive x) := by
  have committed := Trunk.commit_committed ho x .forcedCommit (some h) (t.dequeued rest)
  have waits := Trunk.toSpliceWait_waits (t := (t.dequeued rest).forcedCommit x o h) hh d
    (by rw [show ((t.dequeued rest).forcedCommit x o h).fallback = _ from committed.fallback]; exact hroom)
  refine ⟨_, committed, ?_⟩
  rw [Trunk.serveLive_of_grant hroll hp hq (Nat.le_of_eq hfull.symm) hlive hd hx (Trunk.grant_of_pos hpos x h _)
    (waits.waitQueue.trans committed.waitQueue), if_neg (Nat.pos_iff_ne_zero.mp hpos)]
  exact waits

theorem Trunk.serveLive_of_head_seamless {o : Nat} (hroll : x.settings.policy = .roll) (hp : x.paused = false)
    (hq : t.waitQueue = h :: rest) (hfull : t.fallback.length = 8) (hlive : t.oldestLive = some o) (ho : o < 256) (hh : h < 256)
    (hoh : h ≠ o) (hb : (t.circuit h).binding = some b) (hd : (t.circuit h).deficitNow x.settings.params = some 0) :
    ∃ u, ((t.dequeued rest).forcedCommit x o h).Spliced x h b .seamless 0 false u ∧ t.serveLive x = u.serveLive x := by
  have committed := Trunk.commit_committed ho x .forcedCommit (some h) (t.dequeued rest)
  have spliced := Trunk.splice_spliced (t := (t.dequeued rest).forcedCommit x o h) x .seamless 0 false hh (b := b)
    (by rw [show ((t.dequeued rest).forcedCommit x o h).circuit h = _ from committed.others h hoh]; exact hb)
  refine ⟨_, spliced, ?_⟩
  rw [Trunk.serveLive_of_grant hroll hp hq (Nat.le_of_eq hfull.symm) hlive hd (Nat.zero_le _) (Trunk.grant_of_zero x h _)
    (spliced.waitQueue.trans committed.waitQueue)]
  exact if_pos rfl

/-! ## The circuits that a serving leaves alone -/

/-- Circuit `c` neither waits nor has a record, and from `t` to `u` stays so, its own record the same. -/
structure Trunk.Spares (c : Nat) (t u : Trunk) : Prop where
  circuit : u.circuit c = t.circuit c
  unrecorded : (∀ f ∈ t.fallback, f.circuit ≠ c) → ∀ f ∈ u.fallback, f.circuit ≠ c
  unqueued : u.waitQueue = t.waitQueue

theorem Trunk.Spares.trans (h : t.Spares c u) (g : u.Spares c v) : t.Spares c v :=
  ⟨g.circuit.trans h.circuit, fun hn => g.unrecorded (h.unrecorded hn), g.unqueued.trans h.unqueued⟩

theorem Trunk.Spares.modify (hd : c ≠ d) (f : Circuit → Circuit) (t : Trunk) : t.Spares c (t.modify d f) :=
  ⟨Trunk.circuit_modify_ne _ _ hd, fun h => h, rfl⟩

theorem Trunk.Spares.report (hd : c ≠ d) (x : Ctx) (k : ReportKind) (vr : Option ReportVariant) (n : Option Nat) (fl : SpliceFlags)
    (t : Trunk) : t.Spares c (t.report x d k vr n fl) := by
  obtain ⟨others, lists, -⟩ := t.report_frame x d k vr n fl
  exact ⟨others c hd, fun h => by rw [lists.1]; exact h, lists.2.1⟩

theorem Trunk.Spares.legacyRelease (hd : c ≠ d) (x : Ctx) (t : Trunk) : t.Spares c (t.legacyRelease x d) := by
  unfold Trunk.legacyRelease
  dsimp only
  split
  · exact (Trunk.Spares.modify hd _ t).trans (.report hd x _ _ _ _ _)
  · exact ⟨rfl, fun h => h, rfl⟩

theorem Trunk.Spares.forcedCommit (hd : c ≠ d) (x : Ctx) (a : Nat) (t : Trunk) : t.Spares c (t.forcedCommit x d a) := by
  have removed : t.Spares c (t.removeRecord d) := ⟨rfl, fun h f hf => h f (List.mem_of_mem_filter hf), rfl⟩
  exact ((removed.trans (.modify hd _ _)).trans (.report hd x _ _ _ _ _)).trans (.legacyRelease hd x _)

theorem mem_appendRecord {f g : FallbackRecord} (h : g ∈ (t.appendRecord f).fallback) : g ∈ t.fallback ∨ g = f := by
  unfold Trunk.appendRecord at h
  split at h
  · exact (List.mem_append.mp h).imp_right List.mem_singleton.mp
  · exact .inl h

theorem Trunk.Spares.appendRecord {f : FallbackRecord} (hf : f.circuit ≠ c) (t : Trunk) : t.Spares c (t.appendRecord f) := by
  refine ⟨?_, fun h g hg => ?_, ?_⟩
  · unfold Trunk.appendRecord
    split <;> rfl
  · rcases mem_appendRecord hg with hg | rfl
    · exact h g hg
    · exact hf
  · unfold Trunk.appendRecord
    split <;> rfl

theorem Trunk.Spares.recordLive (hd : c ≠ d) (x : Ctx) (t : Trunk) : t.Spares c (t.recordLive x d) := by
  refine ⟨Trunk.circuit_recordLive x d t c, fun h g hg => ?_, Trunk.recordLive_waitQueue x d t⟩
  cases hrec : t.recordOf d with
  | some f =>
    rw [Trunk.recordLive_fallback_of_some hrec] at hg
    obtain ⟨f', hf', rfl⟩ := List.mem_map.mp hg
    split
    · exact h f' hf'
    · exact h f' hf'
  | none =>
    unfold Trunk.recordLive at hg
    rw [hrec] at hg
    rcases mem_appendRecord hg with hg | rfl
    · exact h g hg
    · exact Ne.symm hd

theorem Trunk.Spares.grant (hd : c ≠ d) (x : Ctx) (n : Nat) (t : Trunk) : t.Spares c (t.grant x d n) := by
  unfold Trunk.grant
  split
  · exact ((Trunk.Spares.modify hd _ t).trans (.recordLive hd x _)).trans (.report hd x _ _ _ _ _)
  · exact (Trunk.Spares.appendRecord (Ne.symm hd) t).trans (.modify hd _ _)

theorem Trunk.Spares.delayExcess (hd : c ≠ d) (x : Ctx) (n : Nat) (t : Trunk) : t.Spares c (t.delayExcess x d n) :=
  (Trunk.Spares.modify hd _ t).trans (.report hd x _ _ _ _ _)

theorem Trunk.oldestLive_record {a : Nat} (h : t.oldestLive = some a) : ∃ f ∈ t.fallback, f.circuit = a := by
  unfold Trunk.oldestLive at h
  obtain ⟨f, hf, rfl⟩ := Option.map_eq_some_iff.mp h
  exact ⟨f, List.mem_of_find?_eq_some hf, rfl⟩

/-- Circuit `c` neither waits nor has a record. -/
def Trunk.standsClear (c : Nat) (t : Trunk) : Prop := c ∉ t.waitQueue ∧ ∀ f ∈ t.fallback, f.circuit ≠ c

theorem Trunk.Spares.standsClear (h : (t.dequeued rest).Spares c u) (hq : c ∉ rest) (hf : ∀ f ∈ t.fallback, f.circuit ≠ c) :
    u.standsClear c := ⟨by rw [h.unqueued]; exact hq, h.unrecorded hf⟩

theorem Trunk.serveRoll_spares (x : Ctx) (n : Nat) :
    ∀ t : Trunk, t.standsClear c → (Trunk.serveRoll x n t).circuit c = t.circuit c := by
  induction n with
  | zero => exact fun _ _ => rfl
  | succ n ih =>
    intro t ⟨hq, hf⟩
    unfold Trunk.serveRoll
    split
    next h rest a hqueue hlive =>
      rw [hqueue, List.mem_cons, not_or] at hq
      obtain ⟨f, hmem, rfl⟩ := Trunk.oldestLive_record hlive
      have goOn {u : Trunk} (g : (t.dequeued rest).Spares c u) : (Trunk.serveRoll x n u).circuit c = t.circuit c :=
        (ih u (g.standsClear hq.2 hf)).trans g.circuit
      dsimp only
      split
      · exact goOn (.modify hq.1 _ _)
      next n _ =>
        split
        · exact goOn (.delayExcess hq.1 x _ _)
        · have granted : (t.dequeued rest).Spares c (((t.dequeued rest).forcedCommit x f.circuit h).grant x h n) :=
            (Trunk.Spares.forcedCommit (Ne.symm (hf f hmem)) x h _).trans (.grant hq.1 x _ _)
          split
          · exact goOn granted
          · exact granted.circuit
    next => rfl

theorem Trunk.serveRoom_spares (x : Ctx) (n : Nat) :
    ∀ t : Trunk, t.standsClear c → (Trunk.serveRoom x n t).circuit c = t.circuit c := by
  induction n with
  | zero => exact fun _ _ => rfl
  | succ n ih =>
    intro t ⟨hq, hf⟩
    unfold Trunk.serveRoom
    split
    next => rfl
    next h rest hqueue =>
      rw [hqueue, List.mem_cons, not_or] at hq
      have goOn {u : Trunk} (g : (t.dequeued rest).Spares c u) : (Trunk.serveRoom x n u).circuit c = t.circuit c :=
        (ih u (g.standsClear hq.2 hf)).trans g.circuit
      split
      · dsimp only
        split
        · exact goOn (.modify hq.1 _ _)
        next d _ =>
          split
          · exact goOn (.delayExcess hq.1 x _ _)
          · have granted := Trunk.Spares.grant hq.1 x d (t.dequeued rest)
            split
            · exact (Trunk.serveRoll_spares x _ _ (granted.standsClear hq.2 hf)).trans granted.circuit
            · exact goOn granted
      · rfl

/-- R98, R100: a serving changes no circuit that neither waits nor has a record. -/
theorem Trunk.serve_spares (x : Ctx) (h : t.standsClear c) : (t.serve x).circuit c = t.circuit c :=
  Trunk.serveRoom_spares x _ t h

end Sys2Proof.Machine
end

section
/-! R98, R100: what starts a serving. -/

namespace Sys2Proof.Machine

variable {s : State} {t u v w : Trunk} {x : Ctx} {c d : Nat} {r : Circuit} {b : Binding} {place : List Byte} {ph : Phase}

/-! ## Removals of a record -/

theorem ite_recordOf {α : Type} {y z : α} (h : ∃ f, t.recordOf c = some f) : (if (t.recordOf c).isSome then y else z) = y := by
  obtain ⟨f, hf⟩ := h
  rw [hf]
  rfl

theorem Trunk.abandonWith_some_serves (h : ∃ f, t.recordOf c = some f) (x : Ctx) (k : ReportKind) :
    t.abandonWith x c (some k) = ((t.abandonCore c).reportPlain x c k).serve x := ite_recordOf h

theorem Trunk.abandonWith_none_serves (h : ∃ f, t.recordOf c = some f) (x : Ctx) :
    t.abandonWith x c none = (t.abandonCore c).serve x := ite_recordOf h

theorem Trunk.reverseSplice_serves (h : ∃ f, t.recordOf c = some f) (x : Ctx) (k : ReverseKind) :
    t.reverseSplice x c k = (t.reversedReported x c k).serve x := ite_recordOf h

/-- The abandon or the URGENT reverse splice of a circuit that leaves the fallback list, by its state. -/
def Trunk.drop (x : Ctx) (c : Nat) (t : Trunk) : Trunk :=
  if (t.circuit c).state.beforeSplice = true then t.abandonWith x c none else t.reverseSplice x c .urgent

/-- What such a removal leaves before its serving. -/
structure Trunk.LeftList (c : Nat) (t v : Trunk) : Prop where
  fallback : v.fallback = withoutRecord c t.fallback
  waitQueue : v.waitQueue =
    if (t.circuit c).state.beforeSplice = true then t.waitQueue.filter (fun d => decide (d ≠ c)) else t.waitQueue
  calendar : v.calendar = t.calendar
  others : t.sameOthers c v
  copper : (v.circuit c).state = .copper
  cells : (v.circuit c).releaseCells = 4

theorem Trunk.reversedReported_circuit (hc : c < 256) (x : Ctx) (k : ReverseKind) (t : Trunk) :
    ∃ l, (t.reversedReported x c k).circuit c = { ((t.circuit c).markReverse k (t.verdict x c).1).toCopper with lastReported := l } := by
  obtain ⟨-, -, l, own⟩ := (t.reversed x c k).report_frame x c .reverted (some (.reverse k)) (t.verdict x c).2 (t.verdict x c).1
  rw [Trunk.reversed_circuit hc] at own
  exact ⟨l, own⟩

theorem Trunk.drop_serves (hc : c < 256) (h : ∃ f, t.recordOf c = some f) (x : Ctx) :
    ∃ v, t.drop x c = v.serve x ∧ t.LeftList c v := by
  unfold Trunk.drop
  by_cases hs : (t.circuit c).state.beforeSplice = true
  · rw [if_pos hs, Trunk.abandonWith_none_serves h]
    have abandoned := t.abandonCore_abandoned c
    have own := Trunk.abandonCore_circuit hc t
    exact ⟨_, rfl, abandoned.fallback, by rw [if_pos hs]; exact abandoned.waitQueue, abandoned.calendar, abandoned.others,
      by rw [own]; rfl, by rw [own]; rfl⟩
  · rw [if_neg hs, Trunk.reverseSplice_serves h]
    have reversed := t.reversedReported_reversed x c .urgent
    obtain ⟨l, own⟩ := Trunk.reversedReported_circuit hc x .urgent t
    exact ⟨_, rfl, reversed.fallback, by rw [if_neg hs]; exact reversed.waitQueue, reversed.calendar, reversed.others,
      by rw [own]; rfl, by rw [own]; rfl⟩

theorem CircuitState.not_beforeSplice {st : CircuitState} (h : st = .spliced ∨ st = .revertWait) : ¬ st.beforeSplice = true := by
  rcases h with rfl | rfl <;> decide

/-- R7: RELEASE takes a circuit that leaves the list out of it. -/
theorem Trunk.react_release_drops (h : (t.circuit c).state.leavesList) (x : Ctx) : t.react x c .release = t.drop x c := by
  unfold Trunk.drop
  rcases h with h | h
  · rw [if_pos h, Trunk.react_release_beforeSplice h]
  · rw [if_neg (CircuitState.not_beforeSplice h)]
    exact Trunk.react_release_reverses (h.imp_right .inl)

/-- R127: so does the loss of the peer station. -/
theorem Trunk.peerEvent_drops (hc : c < 256) (h : (t.circuit c).state.leavesList) (x : Ctx) :
    t.peerEvent x c = (t.modify c Circuit.unphased).drop x c := by
  have own : ((t.modify c Circuit.unphased).circuit c).state = (t.circuit c).state := by
    rw [Trunk.circuit_modify_same _ _ hc]
    rfl
  unfold Trunk.drop
  rw [own]
  rcases h with h | h
  · rw [if_pos h, Trunk.peerEvent_beforeSplice hc h]
  · rw [if_neg (CircuitState.not_beforeSplice h), Trunk.peerEvent_reverses hc h]

/-! ## The loss of a station with one bound circuit -/

theorem Trunk.peerEvents_foldl_unbound (x : Ctx) {p : Nat} : ∀ (cs : List Nat), (∀ d ∈ cs, t.boundTo d p = false) →
    cs.foldl (fun t c => if t.boundTo c p then t.peerEvent x c else t) t = t := by
  intro cs
  induction cs with
  | nil => exact fun _ => rfl
  | cons d cs ih =>
    intro h
    rw [List.foldl_cons, if_neg (by rw [h d List.mem_cons_self]; decide)]
    exact ih fun e he => h e (List.mem_cons_of_mem _ he)

theorem Trunk.boundTo_peerEvent (x : Ctx) (c d p : Nat) (t : Trunk) : (t.peerEvent x c).boundTo d p = t.boundTo d p := by
  have bindings : (t.peerEvent x c).All fun e r => r.binding = (t.circuit e).binding :=
    Trunk.All.peerEvent (Circuit.binding_rule x fun e => (t.circuit e).binding) fun _ => rfl
  unfold Trunk.boundTo
  rw [show ((t.peerEvent x c).circuit d).binding = (t.circuit d).binding from bindings d]

/-- R127: the event is that of the one circuit that is bound to the station. -/
theorem Trunk.peerEvents_single {p : Nat} (hc : c < 256) (h : t.boundTo c p = true) (others : ∀ d, d ≠ c → t.boundTo d p = false)
    (x : Ctx) : t.peerEvents x p = t.peerEvent x c := by
  obtain ⟨before, after, hsplit⟩ := List.append_of_mem (List.mem_range.mpr hc)
  have nodup : (before ++ c :: after).Nodup := hsplit ▸ List.nodup_range
  have hbefore : c ∉ before := fun hm => (List.nodup_append.mp nodup).2.2 c hm c List.mem_cons_self rfl
  have hafter : c ∉ after := (List.nodup_cons.mp (List.nodup_append.mp nodup).2.1).1
  unfold Trunk.peerEvents Trunk.forEach
  rw [show List.range Config.circuits = _ from hsplit, List.foldl_append, List.foldl_cons]
  dsimp only
  rw [Trunk.peerEvents_foldl_unbound x before fun d hd => others d fun he => hbefore (he ▸ hd), if_pos h]
  refine Trunk.peerEvents_foldl_unbound x after fun d hd => ?_
  rw [Trunk.boundTo_peerEvent]
  exact others d fun he => hafter (he ▸ hd)

theorem Trunk.boundTo_eq_false {p : Nat} (h : ∀ e, (t.circuit d).binding = some e → e.peer ≠ p) : t.boundTo d p = false := by
  rw [← Bool.not_eq_true, Trunk.boundTo_iff]
  exact fun ⟨e, he, hp⟩ => h e he hp

/-! ## A splice decided by a command -/

/-- What a splice leaves before the serving that its record starts (R96, R101). -/
structure Trunk.MadeLive (x : Ctx) (c d : Nat) (k : SpliceKind) (t v : Trunk) : Prop where
  waitQueue : v.waitQueue = t.waitQueue
  calendar : v.calendar = t.calendar
  others : t.sameOthers c v
  state : (v.circuit c).state = .spliced
  kind : (v.circuit c).splice.lastKind = some (.splice k)
  deficit : (v.circuit c).splice.deficit = some d
  live : v.liveOf c ≠ none
  named : v.fallback.map FallbackRecord.circuit = t.fallback.map FallbackRecord.circuit

theorem Trunk.splice_madeLive {o : Word} (x : Ctx) (k : SpliceKind) (d : Nat) (gap : Bool) (hc : c < 256)
    (hb : (t.circuit c).binding = some b) (ho : (t.circuit c).align.offset = some o) (h : ∃ f, t.recordOf c = some f) :
    t.MadeLive x c d k (t.splice x c k d gap) := by
  obtain ⟨f, hf⟩ := h
  have spliced := Trunk.splice_spliced x k d gap hc hb
  have own := spliced.circuit
  rw [Circuit.spliced_of_offset ho] at own
  have fallback := spliced.fallback.trans (Trunk.recordLive_fallback_of_some hf x)
  exact ⟨spliced.waitQueue, spliced.calendar, spliced.others, by rw [own]; rfl, by rw [own]; rfl, by rw [own]; rfl,
    by rw [Trunk.liveOf_madeLive hf fallback]; nofun,
    (congrArg (List.map FallbackRecord.circuit) fallback).trans (madeLive_circuits _ _ _)⟩

/-- The same from a trunk in which only the record of the circuit has changed. -/
theorem Trunk.MadeLive.of_only {k : SpliceKind} (h : t.MadeLive x c d k v) (others : u.sameOthers c t) (lists : u.sameLists t) :
    u.MadeLive x c d k v :=
  ⟨h.waitQueue.trans lists.2.1, h.calendar.trans lists.2.2, others.trans h.others, h.state, h.kind, h.deficit, h.live,
    h.named.trans (congrArg (List.map FallbackRecord.circuit) lists.1)⟩

theorem Trunk.recordOf_of_lists (h : t.sameLists u) : u.recordOf c = t.recordOf c := by
  unfold Trunk.recordOf
  rw [h.1]

end Sys2Proof.Machine
end

section
/-! Requests for a record, the servings of the wait queue, and what starts a serving (R94 to R101). -/

namespace Sys2Proof.Machine

variable {s : State} {t u v w : Trunk} {x : Ctx} {c d : Nat} {r : Circuit} {b : Binding} {place : List Byte} {ph : Phase}

/-! ## What starts a serving, command by command -/

/-- The two watchdogs (R14, R15, R98). -/
theorem exec_abandons_serves {i : Instr} {k : ReportKind} {u : State} (hu : u = s.settleBoundary) (hc : c < 256)
    (hb : (u.circuit c).binding = some b) (hrec : ∃ f, u.trunk.recordOf c = some f)
    (h : (i = .alignmentTimeout c ∧ k = .alignTimeout ∧ (u.circuit c).state = .bridging ∧ (u.circuit c).stateTimer = 0) ∨
      (i = .bridgeIdleWatchdog c ∧ k = .bridgeIdle ∧ (u.circuit c).state.beforeSplice = true ∧ u.ctx.counted = true ∧
        u.settings.params.bridgeIdle ≤ (u.circuit c).silence)) :
    ∃ v, exec i s = .next { u with trunk := v.serve u.ctx } ∧ u.trunk.Abandoned c v ∧
      v.circuit c = { (u.circuit c).toCopper with lastReported := Trunk.kindAfter k u.trunk } ∧
      u.trunk.entered (aboutCircuit u.cycleCount c b k none none ⟨false, false, false⟩) v := by
  obtain ⟨abandoned, own, entered⟩ := Trunk.abandonCore_reported (t := u.trunk) u.ctx k hc hb
  refine ⟨_, ?_, abandoned, own, entered⟩
  rw [← Trunk.abandonWith_some_serves hrec]
  exact exec_abandons hu h

/-- RELEASE from the peer (R7, R98). -/
theorem exec_release_serves {p : Nat} (hdel : s.delivers p place .release c) (hrec : ∃ f, s.trunk.recordOf c = some f)
    (hq : c ∉ s.trunk.waitQueue) (hs : (s.circuit c).state.leavesList) :
    ∃ v, exec (.bearerCell p place) s =
        .next { s with trunk := (v.serve s.ctx).modify c (Circuit.storePhase .release) } ∧ (s.trunk.hear c place).LeftList c v := by
  have hc : c < 256 := hdel.2.1
  have heard := Trunk.hear_circuit (place := place) hc s.trunk
  have leaves : ((s.trunk.hear c place).circuit c).state.leavesList := by rw [heard]; exact hs
  obtain ⟨v, served, left⟩ := Trunk.drop_serves (t := s.trunk.hear c place) hc hrec s.ctx
  have react : (s.trunk.hear c place).react s.ctx c .release = v.serve s.ctx := (Trunk.react_release_drops leaves s.ctx).trans served
  have clear : v.standsClear c := by
    refine ⟨?_, fun f hf => ?_⟩
    · rw [left.waitQueue]
      split
      · exact fun hm => hq (List.mem_of_mem_filter hm)
      · exact hq
    · rw [left.fallback] at hf
      exact of_decide_eq_true (List.mem_filter.mp hf).2
  have copper : (((s.trunk.hear c place).react s.ctx c .release).circuit c).state = .copper := by
    rw [react, Trunk.serve_spares s.ctx clear]
    exact left.copper
  refine ⟨v, ?_, left⟩
  rw [exec_bearerCell_afterCell hdel, Trunk.afterCell_unworked hc (.inl copper), Trunk.phased_eq react]

/-- Alignment lost by the third mismatch before the splice (R66, R98). -/
theorem exec_alignmentLost_serves {e : JudgeEntry} {o : Word} (hc : c < 256) (hb : (s.circuit c).binding = some b)
    (hrec : ∃ f, s.trunk.recordOf c = some f) (hdue : s.trunk.dueWindow s.ctx c = some e)
    (ho : (s.circuit c).align.offset = some o)
    (hs : (s.circuit c).state = .aligned ∨ (s.circuit c).state = .splicePending ∨ (s.circuit c).state = .spliceWait)
    (hcon : (s.circuit c).conclusive s.settings e.ssn = true) (hmat : (s.circuit c).matchesAt e.ssn o = false)
    (hthird : (s.circuit c).align.verifyMiss = 2) :
    ∃ v, exec (.windowJudgement c) s = .next { s with trunk := v.serve s.ctx } ∧ s.trunk.Abandoned c v ∧
      (v.circuit c).state = .bridging ∧ (v.circuit c).align.offset = none ∧
      s.trunk.entered (aboutCircuit s.cycleCount c b .alignLost none none ⟨false, false, false⟩) v := by
  have verifies : (s.circuit c).verifies := hs.elim .inl fun h => .inr (h.imp_right .inl)
  have verified := Circuit.verify_mismatch (r := (s.circuit c).dropWindow e) (st := s.settings) hcon hmat
  have run : min (((s.circuit c).dropWindow e).align.verifyMiss + 1) 3 = 3 := by
    show min ((s.circuit c).align.verifyMiss + 1) 3 = 3
    rw [hthird]
    rfl
  rw [run] at verified
  obtain ⟨w, ⟨others, lists, reports⟩, record, own, done⟩ := exec_windowJudgement_verifies hc hdue verifies ho verified (n := 3) rfl
  obtain ⟨abandoned, final, entered⟩ := Trunk.lostBridge_reported (t := w) hc (b := b) (by rw [own]; exact hb) s.ctx
  rw [if_pos (Nat.le_refl 3), Trunk.alignmentLost_beforeSplice hc (by rw [own]; exact hs), ite_recordOf (by rw [record]; exact hrec)]
    at done
  refine ⟨_, done, ⟨others.trans abandoned.others, ?_, ?_, abandoned.calendar.trans lists.2.2⟩, ?_, ?_,
    entered.of_reports reports.1 reports.2⟩
  · rw [← lists.1]
    exact abandoned.fallback
  · rw [← lists.2.1]
    exact abandoned.waitQueue
  · rw [final]
    rfl
  · rw [final]
    rfl

/-- The loss of a station to which one circuit is bound (R98, R125, R127). -/
theorem exec_peerLoss_serves {u : State} {p : Nat} (hu : u = s.settleBoundary) (hc : c < 256) (hb : (u.circuit c).binding = some b)
    (hrec : ∃ f, u.trunk.recordOf c = some f) (hp : b.peer = p)
    (honly : ∀ d e, d ≠ c → (u.circuit d).binding = some e → e.peer ≠ p) (hstate : (u.peer p).state = .present)
    (hmiss : 4 ≤ (u.peer p).miss) (hs : (u.circuit c).state.leavesList) :
    ∃ v, exec (.peerLoss p) s = .next { u.setPeer p { u.peer p with state := .lost } with
        trunk := v.serve (u.setPeer p { u.peer p with state := .lost }).ctx } ∧ u.trunk.LeftList c v := by
  subst hu
  let x := (s.settleBoundary.setPeer p { s.settleBoundary.peer p with state := .lost }).ctx
  let t := s.settleBoundary.trunk.reportStation x p .peerLost
  have circuits := s.settleBoundary.trunk.reportStation_circuit x p .peerLost
  have lists := s.settleBoundary.trunk.reportStation_sameLists x p .peerLost
  have lost : exec (.peerLoss p) s = .next
      { s.settleBoundary.setPeer p { s.settleBoundary.peer p with state := .lost } with trunk := t.peerEvents x p } :=
    congrArg Host.Outcome.next (if_pos ((PeerEntry.lossDue_iff _).mpr ⟨hstate, hmiss⟩))
  have bound : t.boundTo c p = true := (Trunk.boundTo_iff t c p).mpr ⟨b, by rw [circuits]; exact hb, hp⟩
  have unbound (d : Nat) (hd : d ≠ c) : t.boundTo d p = false :=
    Trunk.boundTo_eq_false fun e he => honly d e hd (by rw [circuits] at he; exact he)
  have leaves : (t.circuit c).state.leavesList := by rw [circuits]; exact hs
  have state : ((t.modify c Circuit.unphased).circuit c).state = (s.settleBoundary.circuit c).state := by
    rw [Trunk.circuit_modify_same _ _ hc, circuits]
    rfl
  obtain ⟨v, served, left⟩ := Trunk.drop_serves (t := t.modify c Circuit.unphased) hc
    (by rw [show (t.modify c Circuit.unphased).recordOf c = _ from Trunk.recordOf_of_lists lists]; exact hrec) x
  rw [Trunk.peerEvents_single hc bound unbound, Trunk.peerEvent_drops hc leaves, served] at lost
  refine ⟨v, lost, ?_, ?_, left.calendar.trans lists.2.2, fun d hd => ?_, left.copper, left.cells⟩
  · rw [← lists.1]
    exact left.fallback
  · rw [left.waitQueue, state]
    show (if _ then t.waitQueue.filter _ else t.waitQueue) = _
    rw [show t.waitQueue = _ from lists.2.1]
    rfl
  · exact (left.others d hd).trans ((Trunk.circuit_modify_ne _ _ hd).trans (circuits d))

/-- An arrival in SPLICE_WAIT, with the deficit known (R75). -/
theorem exec_arrivalInWait {p : Nat} {o : Word} (hdel : s.delivers p place ph c) (hs : (s.circuit c).state = .spliceWait)
    (hph : ph ≠ .release) (hb : (s.circuit c).binding = some b) (ho : (s.circuit c).align.offset = some o)
    (hrec : ∃ f, s.trunk.recordOf c = some f)
    (hd : { s.circuit c with ring := pushRing (s.circuit c).ring (s.frame - ssnOf place) }.deficitNow s.settings.params = some d) :
    (s.settings.params.dmax < d →
      ∃ v, exec (.bearerCell p place) s = .next { s with trunk := v.serve s.ctx } ∧
        v.fallback = withoutRecord c s.trunk.fallback ∧ v.waitQueue = s.trunk.waitQueue ∧ v.calendar = s.trunk.calendar ∧
        s.trunk.sameOthers c v ∧ (v.circuit c).state = .aligned ∧ (v.circuit c).splice.deficit = none ∧
        s.trunk.entered (aboutCircuit s.cycleCount c b .delayExcess none (some d) ⟨false, false, false⟩) v) ∧
    (d = 0 ∨ (d ≤ s.settings.params.dmax ∧ s.settings.params.idleQualify ≤ (s.circuit c).align.idleQualify) →
      ∃ v k, exec (.bearerCell p place) s = .next { s with trunk := v.serveLive s.ctx } ∧ s.trunk.MadeLive s.ctx c d k v) := by
  have hc : c < 256 := hdel.2.1
  obtain ⟨w, ⟨others, lists, reports⟩, own, done⟩ := exec_bearerCell_arrives hdel (by rw [hs]; rfl) (by rw [hs]; decide) hph
  have bound : (w.circuit c).binding = some b := by rw [own]; exact hb
  have offset : (w.circuit c).align.offset = some o := by rw [own]; exact ho
  have record : ∃ f, w.recordOf c = some f := by rw [Trunk.recordOf_of_lists lists]; exact hrec
  rw [Trunk.arrive_waiting (by rw [own]; exact hs), Trunk.arriveWaiting_of_deficit (d := d) (by rw [own]; exact hd)] at done
  refine ⟨fun hx => ?_, fun hlive => ?_⟩
  · rw [if_pos (show s.ctx.settings.params.dmax < d from hx)] at done
    have exceeded := Trunk.delayExcess_exceeded (t := w.removeRecord c) s.ctx d hc bound
    refine ⟨_, done, ?_, exceeded.lists.2.1.trans lists.2.1, exceeded.lists.2.2.trans lists.2.2, others.trans exceeded.others, ?_, ?_,
      exceeded.entered.of_reports reports.1 reports.2⟩
    · rw [← lists.1]
      exact exceeded.lists.1.trans (w.removeRecord_fallback c)
    · rw [exceeded.circuit]
      rfl
    · rw [exceeded.circuit]
  · by_cases hz : d = 0
    · subst hz
      rw [if_neg (Nat.not_lt.mpr (Nat.zero_le _)), if_pos rfl] at done
      exact ⟨_, _, done, (Trunk.splice_madeLive s.ctx .seamless 0 false hc bound offset record).of_only others lists⟩
    · obtain ⟨hx, hidle⟩ := hlive.resolve_left hz
      have known : (w.withDeficit c d).circuit c = { w.circuit c with splice := { (w.circuit c).splice with deficit := some d } } :=
        Trunk.circuit_modify_same _ _ hc
      rw [if_neg (show ¬ s.ctx.settings.params.dmax < d from Nat.not_lt.mpr hx), if_neg hz, if_pos (by rw [own]; exact hidle)] at done
      exact ⟨_, _, done, (Trunk.splice_madeLive (t := w.withDeficit c d) s.ctx .idle d false hc (by rw [known]; exact bound)
        (by rw [known]; exact offset) record).of_only (others.trans (Trunk.modify_sameOthers c _ w)) lists⟩

/-- What REVERT, FORCE and COMMIT leave of a circuit whose record they remove (R98, R146, R147). -/
theorem exec_order_serves {o : Order} {rest : List Order} {i : Instr} (h : s.headIs o rest) (hk : o.kind = 1) (ho : o.operand = c)
    (hbad : s.stationState ≠ .configBad) (hc : c < 256) (hrec : ∃ f, s.trunk.recordOf c = some f)
    (hi : (i = .revert ∧ o.value = 2 ∧ (s.circuit c).state.beforeSplice = true) ∨
      (i = .force ∧ o.value = 3 ∧ (s.circuit c).state = .revertWait) ∨
        (i = .commit ∧ o.value = 4 ∧ (s.circuit c).state = .spliced)) :
    ∃ v, exec i s = .next (s.answeredWith o rest (v.serve s.ctx) (circuitAnswer c none)) ∧
      v.fallback = withoutRecord c s.trunk.fallback ∧
      v.waitQueue = (if o.value = 2 then s.trunk.waitQueue.filter (fun d => decide (d ≠ c)) else s.trunk.waitQueue) ∧
      v.calendar = s.trunk.calendar ∧ s.trunk.sameOthers c v ∧
      (o.value ≠ 4 → (v.circuit c).state = .copper ∧ (v.circuit c).releaseCells = 4) ∧
      (o.value = 4 → (v.circuit c).state = .committed ∧ (v.circuit c).deferredRevert = false) := by
  subst ho
  rcases hi with ⟨rfl, hv, hs⟩ | ⟨rfl, hv, hs⟩ | ⟨rfl, hv, hs⟩
  · have abandoned := s.trunk.abandonCore_abandoned o.operand
    have own := Trunk.abandonCore_circuit hc s.trunk
    refine ⟨_, exec_revert h hv hk hbad ((Trunk.revertOne_abandons hs _).trans (congrArg (·, none)
      (Trunk.abandonWith_none_serves hrec _))), abandoned.fallback, by rw [if_pos hv]; exact abandoned.waitQueue,
      abandoned.calendar, abandoned.others, fun _ => ?_, fun h => by omega⟩
    rw [own]
    exact ⟨rfl, rfl⟩
  · have reversed := s.trunk.reversedReported_reversed s.ctx o.operand .forced
    obtain ⟨l, own⟩ := Trunk.reversedReported_circuit hc s.ctx .forced s.trunk
    refine ⟨_, exec_force h hv hk hbad ((Trunk.forceOne_reverses hs _).trans (congrArg (·, none)
      (Trunk.reverseSplice_serves hrec _ _))), reversed.fallback, by rw [if_neg (by omega)]; exact reversed.waitQueue,
      reversed.calendar, reversed.others, fun _ => ?_, fun h => by omega⟩
    rw [own]
    exact ⟨rfl, rfl⟩
  · have committed := Trunk.commit_committed hc s.ctx .committed none s.trunk
    obtain ⟨l, own⟩ := committed.circuit
    refine ⟨_, exec_commit h hv hk hbad (Trunk.commitOne_commits hs _), committed.fallback, by rw [if_neg (by omega)]; exact committed.waitQueue,
      committed.calendar, committed.others, fun h => absurd hv h, fun _ => ?_⟩
    rw [own]
    exact ⟨rfl, rfl⟩

end Sys2Proof.Machine
end

section
/-! O40: requests, servings and what starts them. -/

namespace Sys2Proof.Machine

variable {s : State} {t u v w : Trunk} {x : Ctx} {c d : Nat} {r : Circuit} {b : Binding} {place : List Byte} {ph : Phase}

/-- The records of a list that is full, after the oldest LIVE one has gone. -/
theorem withoutRecord_room {before after : List FallbackRecord} {f : FallbackRecord} (hfull : t.fallback.length = 8)
    (hsplit : t.fallback = before ++ f :: after) : (withoutRecord f.circuit t.fallback).length < 8 := by
  rw [← hfull]
  exact withoutRecord_length_lt (by rw [hsplit]; exact List.mem_append_right _ List.mem_cons_self)

/-- The forced commit of the oldest LIVE record, with the SEAMLESS splice of the head (R77, R95, R101). -/
theorem Trunk.serveLive_forced {h v : Nat} {rest : List Nat} {bv : Binding} {o : Word} {before after : List FallbackRecord}
    {f : FallbackRecord} (hp : x.paused = false) (hq : t.waitQueue = h :: rest) (hh : h < 256) (hrec : t.recordOf h = none)
    (hb : (t.circuit h).binding = some b) (ho : (t.circuit h).align.offset = some o)
    (hd : (t.circuit h).deficitNow x.settings.params = some 0) (hroll : x.settings.policy = .roll) (hfull : t.fallback.length = 8)
    (hsplit : t.fallback = before ++ f :: after) (hbefore : ∀ g ∈ before, g.live = none) (hlive : f.live ≠ none)
    (hf : f.circuit = v) (hv : v < 256) (hbv : (t.circuit v).binding = some bv) :
    ∃ u : Trunk, t.serveLive x = u.serveLive x ∧ u.waitQueue = rest ∧
      u.fallback = withoutRecord v t.fallback ++ [x.liveRecord h] ∧ u.calendar = t.calendar ∧
      (∀ c, c ≠ h → c ≠ v → u.circuit c = t.circuit c) ∧
      (t.circuit h).splicedSeamless o (u.circuit h) ∧ (t.circuit v).committedFrom (u.circuit v) ∧
      (t.reports.length ≤ 61 → u.reports = t.reports ++
        [aboutCircuit x.cycles v bv .forcedCommit none (some h) ⟨false, false, false⟩] ++
        (if (t.circuit v).peerPhase = some .committed ∧ (t.circuit v).legacyReleased = false then
          [aboutCircuit x.cycles v bv .legacyReleased none none ⟨false, false, false⟩] else []) ++
        [aboutCircuit x.cycles h b .spliced (some (.splice .seamless)) (some 0) ⟨false, false, false⟩]) := by
  subst hf
  have mem : f ∈ t.fallback := by
    rw [hsplit]
    exact List.mem_append_right _ List.mem_cons_self
  have hvh : f.circuit ≠ h := Trunk.ne_of_recordOf_none hrec mem
  have oldest : t.oldestLive = some f.circuit := Trunk.oldestLive_of_split hsplit hbefore hlive
  obtain ⟨u, spliced, served⟩ := Trunk.serveLive_of_head_seamless hroll hp hq hfull oldest hv hh (Ne.symm hvh) hb hd
  obtain ⟨room, unrecorded⟩ := Trunk.forcedCommit_room (t := t.dequeued rest) (f := f) x hv mem hfull hrec
  have committed := Trunk.commit_committed hv x .forcedCommit (some h) (t.dequeued rest)
  have reports (hr : t.reports.length < 63) := Trunk.commit_reports (t := t.dequeued rest) x .forcedCommit (some h) hv hbv (by decide) hr
  have fallback := spliced.fallback.trans (Trunk.recordLive_fallback_of_none unrecorded room x)
  have asker : ((t.dequeued rest).forcedCommit x f.circuit h).circuit h = t.circuit h := committed.others h (Ne.symm hvh)
  obtain ⟨own, entered⟩ := spliced.seamless (o := o) (by rw [asker]; exact ho)
  rw [asker] at own
  obtain ⟨l, said⟩ := committed.circuit
  refine ⟨u, served, spliced.waitQueue.trans committed.waitQueue, ?_, spliced.calendar.trans committed.calendar,
    fun e heh hev => (spliced.others e heh).trans (committed.others e hev), own, ?_, fun hr => ?_⟩
  · rw [fallback]
    exact congrArg (· ++ [x.liveRecord h]) committed.fallback
  · rw [spliced.others f.circuit hvh, show ((t.dequeued rest).forcedCommit x f.circuit h).circuit f.circuit = _ from said]
    exact Circuit.committedFrom_committedAs l _
  · have first := reports (by omega)
    refine (entered.1 ?_).1.trans (congrArg (· ++ [_]) first)
    rw [show ((t.dequeued rest).forcedCommit x f.circuit h).reports = _ from first, List.length_append, List.length_append]
    have one : (if ((t.dequeued rest).circuit f.circuit).peerPhase = some .committed ∧
        ((t.dequeued rest).circuit f.circuit).legacyReleased = false then
        [aboutCircuit x.cycles f.circuit bv .legacyReleased none none ⟨false, false, false⟩] else []).length ≤ 1 := by
      split
      · exact Nat.le_refl 1
      · exact Nat.zero_le 1
    have base : (t.dequeued rest).reports.length ≤ 61 := hr
    rw [List.length_singleton]
    omega

theorem withoutRecord_of_full {n : Nat} {g : FallbackRecord} (h : t.fallback.length = n) (hu : u.fallback = t.fallback ++ [g]) :
    u.fallback.length = n + 1 := by
  rw [hu, List.length_append, h]
  rfl

theorem Circuit.giveSlot_binding (x : Ctx) (c : Nat) (r : Circuit) : (r.giveSlot x c).binding = r.binding := by
  have guard : r.guardEnd.binding = r.binding := by
    unfold Circuit.guardEnd
    split
    · split <;> rfl
    · rfl
  show (r.guardEnd.fillEnd x.frame).binding = r.binding
  unfold Circuit.fillEnd
  split
  · split
    · exact guard
    · exact guard
  · exact guard

theorem State.giveSlotNow_binding (hc : c < 256) (s : State) : ((s.giveSlotNow c).circuit c).binding = (s.circuit c).binding := by
  cases h : (s.circuit c).path.given with
  | true => rw [State.giveSlotNow_given h]
  | false => rw [State.giveSlotNow_circuit hc h, Circuit.giveSlot_binding]

/-- Settles O40: requests and servings by their equations, and every start of a serving by the removal or the splice that
brings it. -/
theorem requestsAndServings : Obligations.RequestsAndServings := by
  refine ⟨fun x t c => ⟨fun hq => Trunk.request_of_queue hq x c, fun hq hroom => Trunk.request_of_room hq hroom x c,
      fun _ hfull h => Trunk.request_of_refused hfull h c, ?_⟩, fun x t => ⟨?_, ?_⟩, ?_, ?_, ?_, ?_, ?_⟩
  · intro v before after f b hq hfull hroll hsplit hbefore hlive hf hv hb
    have oldest : t.oldestLive = some v := hf ▸ Trunk.oldestLive_of_split hsplit hbefore hlive
    have committed := Trunk.commit_committed hv x .forcedCommit (some c) t
    obtain ⟨l, own⟩ := committed.circuit
    have own : (t.forcedCommit x v c).circuit v = _ := own
    refine ⟨_, Trunk.request_of_roll hq hfull hroll oldest c, committed.fallback, committed.waitQueue.trans hq, committed.calendar,
      committed.others, ?_⟩
    rw [own]
    refine ⟨rfl, rfl, rfl, rfl, fun hroom => ?_⟩
    obtain ⟨rest, hrest⟩ := Trunk.commit_reports_first x .forcedCommit (some c) hv hb hroom
    exact ⟨rest, hrest.symm.trans (List.append_assoc _ _ _)⟩
  · rintro (h | h | h)
    · exact Trunk.serve_of_paused h t
    · exact Trunk.serve_of_full h x
    · exact Trunk.serve_of_empty h x
  · intro h d rest b o hp hq hseven hh hrec hb ho hd
    have hroom : t.fallback.length < 8 := by omega
    refine ⟨fun hpos hx => ?_, fun hz hpol => ?_, fun hx hrest => ?_⟩
    · obtain ⟨u, waits, served⟩ := Trunk.serve_of_head_waits hp hq hroom hh hd hpos hx
      rw [served, Trunk.serve_of_full (Nat.le_of_eq (withoutRecord_of_full (t := t) hseven waits.fallback).symm), waits.circuit]
      exact ⟨waits.waitQueue, waits.fallback, rfl, rfl, waits.others, waits.reports, waits.calendar⟩
    · subst hz
      obtain ⟨u, spliced, served⟩ := Trunk.serve_of_head_seamless hp hq hroom hh hb hd
      have fallback := spliced.fallback_of_room hrec hroom
      rw [if_neg (by rw [Trunk.rollServes_eq_false (.inl hpol)]; decide),
        Trunk.serve_of_full (Nat.le_of_eq (withoutRecord_of_full (t := t) hseven fallback).symm)] at served
      have own := spliced.circuit
      rw [Circuit.spliced_of_offset (r := (t.dequeued rest).circuit h) ho] at own
      rw [served, own]
      exact ⟨spliced.waitQueue, fallback, rfl, congrArg some (BitVec.add_zero o), rfl, spliced.others⟩
    · obtain ⟨u, exceeded, served⟩ := Trunk.serve_of_head_exceeds hp hq hroom hh hb hd hx
      rw [served, Trunk.serve_of_empty (exceeded.lists.2.1.trans hrest), exceeded.circuit]
      exact ⟨exceeded.lists.2.1.trans hrest, exceeded.lists.1, rfl, rfl, exceeded.others, exceeded.entered⟩
  · intro x t h d v rest before after f hroll hp hq hfull hsplit hbefore hlive hf hv hh hhv hrec hd hpos hx
    subst hf
    obtain ⟨w, committed, waits⟩ := Trunk.serveLive_of_head_waits hroll hp hq hfull
      (Trunk.oldestLive_of_split hsplit hbefore hlive) hv hh (withoutRecord_room hfull hsplit) hd hpos hx
    obtain ⟨l, own⟩ := committed.circuit
    refine ⟨waits.waitQueue.trans committed.waitQueue, waits.fallback.trans (congrArg (· ++ [_]) committed.fallback), ?_, ?_, ?_,
      fun c hch hcv => (waits.others c hch).trans (committed.others c hcv)⟩
    · rw [waits.others f.circuit (Ne.symm hhv), own]
      rfl
    · rw [waits.circuit]
      rfl
    · rw [waits.circuit]
  · intro x t h rest b o hp hq hh hrec hb ho hd
    refine ⟨fun hroom => ?_, fun v bv before after f hroll hfull hsplit hbefore hlive hf hv hbv =>
      Trunk.serveLive_forced hp hq hh hrec hb ho hd hroll hfull hsplit hbefore hlive hf hv hbv⟩
    obtain ⟨u, spliced, served⟩ := Trunk.serve_of_head_seamless hp hq hroom hh hb hd
    have fallback := spliced.fallback_of_room hrec hroom
    obtain ⟨own, entered⟩ := spliced.seamless ho
    refine ⟨u, spliced.waitQueue, fallback, spliced.calendar, spliced.others, own, entered, fun hno => ?_, fun hroll hseven => ?_⟩
    · refine served.trans (if_neg ?_)
      have quiet : u.rollServes x = false := by
        refine Trunk.rollServes_eq_false (hno.imp_right fun h => .inr (.inr ?_))
        rw [withoutRecord_of_full rfl fallback]
        omega
      rw [quiet]
      decide
    · cases hserves : u.rollServes x with
      | true => exact served.trans (if_pos hserves)
      | false =>
        rw [served, if_neg (by rw [hserves]; decide), Trunk.serveLive_of_not hserves]
        exact Trunk.serve_of_full (Nat.le_of_eq (withoutRecord_of_full hseven fallback).symm) x
  · intro x t h d rest b hp hq hh hb hd
    refine ⟨fun hroom hx => ?_, fun hroom hpos hx => ?_, fun hfull hroll hlive hx => ?_⟩
    · obtain ⟨u, exceeded, served⟩ := Trunk.serve_of_head_exceeds hp hq hroom hh hb hd hx
      exact ⟨u, served, exceeded.lists.2.1, exceeded.lists.1, exceeded.lists.2.2, exceeded.others, by rw [exceeded.circuit]; rfl,
        by rw [exceeded.circuit], exceeded.entered⟩
    · obtain ⟨u, waits, served⟩ := Trunk.serve_of_head_waits hp hq hroom hh hd hpos hx
      exact ⟨u, served, waits.waitQueue, waits.fallback, waits.calendar, waits.others, waits.reports, by rw [waits.circuit]; rfl,
        by rw [waits.circuit]⟩
    · obtain ⟨o, ho⟩ : ∃ o, t.oldestLive = some o := by
        cases ho : t.oldestLive with
        | some o => exact ⟨o, rfl⟩
        | none =>
          obtain ⟨f, hf, hlive⟩ := hlive
          exact absurd (Trunk.oldestLive_eq_none.mp ho f hf) hlive
      have exceeded := Trunk.delayExcess_exceeded (t := t.dequeued rest) x d hh hb
      exact ⟨_, Trunk.serveLive_of_excess hroll hp hq (Nat.le_of_eq hfull.symm) ho hd hx, exceeded.lists.2.1, exceeded.lists.1,
        exceeded.others, by rw [exceeded.circuit]; rfl, exceeded.entered⟩
  · intro s c b u hc hb hrec
    refine ⟨fun i k h => ?_, fun l hl hz hs hd => ?_, fun hs hx hi => ?_, fun p w hp hbp honly hstate hmiss hw hs => ?_⟩
    · obtain ⟨v, done, abandoned, own, entered⟩ := exec_abandons_serves (u := u) rfl hc hb hrec h
      exact ⟨v, done, abandoned.fallback, abandoned.waitQueue, abandoned.calendar, abandoned.others, by rw [own]; rfl,
        by rw [own]; rfl, entered⟩
    · have committed := Trunk.commit_committed hc u.ctx .committed none u.trunk
      obtain ⟨l, own⟩ := committed.circuit
      refine ⟨_, ?_, committed.fallback, committed.waitQueue, committed.calendar, committed.others, by rw [own]; rfl⟩
      rw [← Trunk.settleExpiry_commits hl hz hs hd]
      rfl
    · have reversed := u.trunk.reversedReported_reversed u.ctx c .urgent
      obtain ⟨l, own⟩ := Trunk.reversedReported_circuit hc u.ctx .urgent u.trunk
      refine ⟨_, ?_, reversed.fallback, reversed.waitQueue, reversed.calendar, reversed.others, by rw [own]; rfl, by rw [own]; rfl⟩
      rw [← Trunk.reverseSplice_serves hrec, ← Trunk.streamLoss_reverses hs hx hi]
      rfl
    · subst hw
      obtain ⟨v, done, left⟩ := exec_peerLoss_serves (u := u) rfl hc hb hrec hbp honly hstate hmiss hs
      exact ⟨v, done, left.fallback, left.waitQueue, left.calendar, left.others, left.copper, left.cells⟩
  · intro s c b hc hb hrec
    refine ⟨fun p place hdel hq hs => ?_, fun e o hdue ho hs hcon hmat hthird => ?_, fun p place ph o d hdel hs hph ho hd => ?_,
      fun u hu hripe => ⟨fun hs => ?_, fun o d hs ho hd => ?_⟩, fun o rest h hk ho hbad => ⟨fun i hi => ?_, fun off d hv hs hoff hd => ?_⟩⟩
    · obtain ⟨v, done, left⟩ := exec_release_serves hdel hrec hq hs
      have heard := Trunk.hear_circuit (place := place) hc s.trunk
      have queue : v.waitQueue = s.trunk.waitQueue := by
        rw [left.waitQueue]
        split
        · exact List.filter_eq_self.mpr fun d hd => decide_eq_true fun he => hq (he ▸ hd)
        · rfl
      exact ⟨v, done, left.fallback, queue, left.calendar, (s.trunk.hear_sameOthers c).trans left.others, left.copper, left.cells⟩
    · obtain ⟨v, done, abandoned, state, offset, entered⟩ := exec_alignmentLost_serves hc hb hrec hdue ho hs hcon hmat hthird
      exact ⟨v, done, abandoned.fallback, abandoned.waitQueue, abandoned.calendar, abandoned.others, state, offset, entered⟩
    · obtain ⟨excess, live⟩ := exec_arrivalInWait hdel hs hph hb ho hrec hd
      refine ⟨excess, fun h => ?_⟩
      obtain ⟨v, k, done, made⟩ := live h
      exact ⟨v, done, made.waitQueue, made.calendar, made.others, made.state, made.deficit, made.live, made.named⟩
    · subst hu
      obtain ⟨others, lists, -⟩ := s.giveSlotNow_only c
      have reversed := (s.giveSlotNow c).trunk.reversedReported_reversed (s.giveSlotNow c).ctx c .planned
      obtain ⟨l, own⟩ := Trunk.reversedReported_circuit hc (s.giveSlotNow c).ctx .planned (s.giveSlotNow c).trunk
      have done := exec_quietRunReverseSplice_ripe (u := s.giveSlotNow c) rfl hs hripe
      rw [Trunk.reverseSplice_serves (by rw [Trunk.recordOf_of_lists lists]; exact hrec)] at done
      exact ⟨_, done, reversed.fallback.trans (congrArg _ lists.1), reversed.waitQueue.trans lists.2.1,
        reversed.calendar.trans lists.2.2, others.trans reversed.others, by rw [own]; rfl, by rw [own]; rfl, by rw [own]; rfl⟩
    · subst hu
      obtain ⟨others, lists, -⟩ := s.giveSlotNow_only c
      have bound : ((s.giveSlotNow c).circuit c).binding = some b := (State.giveSlotNow_binding hc s).trans hb
      have made := (Trunk.splice_madeLive (t := (s.giveSlotNow c).trunk) (s.giveSlotNow c).ctx .quiet d false hc bound ho
        (by rw [Trunk.recordOf_of_lists lists]; exact hrec)).of_only others lists
      exact ⟨_, exec_quietRunSplice_ripe (u := s.giveSlotNow c) rfl hs hripe hd, made.waitQueue, made.calendar, made.others,
        made.state, made.kind, made.deficit, made.live, made.named⟩
    · obtain ⟨v, done, rest⟩ := exec_order_serves h hk ho hbad hc hrec hi
      exact ⟨v, done, rest⟩
    · subst ho
      have made := Trunk.splice_madeLive s.ctx .forced d
        (isActive s.settings ((s.trunk.circuit o.operand).sampleOfFrame s.ctx o.operand)) hc hb hoff hrec
      refine ⟨_, ?_, made.waitQueue, made.calendar, made.others, made.state, made.kind, made.deficit, made.live, made.named⟩
      rw [← hv]
      exact exec_force h hv hk hbad (Trunk.forceOne_splices hs hd _)

end Sys2Proof.Machine
end

section
/-! Orders that are refused as a whole (R142 to R144). -/

namespace Sys2Proof.Machine

variable {s t : State} {o : Order} {rest : List Order} {row : OrderRow} {reason : Reason}

/-! ## The row of an order -/

theorem Order.row_of_nameless (h : o.value = 0 ∨ 10 < o.value) : o.row = none := by
  unfold Order.row
  split
  case h_11 => rfl
  all_goals omega

theorem Order.value_of_row (h : o.row = some row) : o.value = row.value ∧ (row = .revertLast → o.kind = 4) := by
  unfold Order.row at h
  split at h
  case h_2 hv =>
    split at h
    next hk =>
      cases h
      exact ⟨hv, fun _ => hk⟩
    next =>
      cases h
      exact ⟨hv, nofun⟩
  case h_11 => cases h
  all_goals
    cases h
    exact ⟨by assumption, nofun⟩

/-- An order command and the order of its row (Table 12.4). -/
theorem Order.row_of_command {i : Instr}
    (h : (i = .cut ∧ o.value = 1) ∨ (i = .revert ∧ o.value = 2 ∧ o.kind ≠ 4) ∨ (i = .revertLast ∧ o.value = 2 ∧ o.kind = 4) ∨
      (i = .force ∧ o.value = 3) ∨ (i = .commit ∧ o.value = 4) ∨ (i = .pause ∧ o.value = 5) ∨ (i = .resume ∧ o.value = 6) ∨
      (i = .queryCircuit ∧ o.value = 7) ∨ (i = .queryStation ∧ o.value = 8) ∨ (i = .takeReports ∧ o.value = 9) ∨
      (i = .restart ∧ o.value = 10)) :
    ∃ row, i = commandOf row ∧ o.row = some row ∧ o.value = row.value := by
  rcases h with ⟨rfl, hv⟩ | ⟨rfl, hv, hk⟩ | ⟨rfl, hv, hk⟩ | ⟨rfl, hv⟩ | ⟨rfl, hv⟩ | ⟨rfl, hv⟩ | ⟨rfl, hv⟩ | ⟨rfl, hv⟩ | ⟨rfl, hv⟩ |
    ⟨rfl, hv⟩ | ⟨rfl, hv⟩
  · exact ⟨.cut, rfl, Order.row_of_value hv nofun nofun, hv⟩
  · exact ⟨.revert, rfl, Order.row_of_value hv (fun _ => hk) nofun, hv⟩
  · exact ⟨.revertLast, rfl, Order.row_of_value hv nofun (fun _ => hk), hv⟩
  · exact ⟨.force, rfl, Order.row_of_value hv nofun nofun, hv⟩
  · exact ⟨.commit, rfl, Order.row_of_value hv nofun nofun, hv⟩
  · exact ⟨.pause, rfl, Order.row_of_value hv nofun nofun, hv⟩
  · exact ⟨.resume, rfl, Order.row_of_value hv nofun nofun, hv⟩
  · exact ⟨.queryCircuit, rfl, Order.row_of_value hv nofun nofun, hv⟩
  · exact ⟨.queryStation, rfl, Order.row_of_value hv nofun nofun, hv⟩
  · exact ⟨.takeReports, rfl, Order.row_of_value hv nofun nofun, hv⟩
  · exact ⟨.restart, rfl, Order.row_of_value hv nofun nofun, hv⟩

/-! ## Bad operands -/

/-- The operand is of a kind that the order does not take, or out of range (Table 12.4). -/
def Order.badOperand (o : Order) : Prop :=
  (o.value = 1 ∧ o.kind ≠ 1 ∧ (o.kind ≠ 2 ∨ 7 < o.operand) ∧ o.kind ≠ 3) ∨
    (o.value = 2 ∧ o.kind ≠ 1 ∧ (o.kind ≠ 2 ∨ 7 < o.operand) ∧ o.kind ≠ 3 ∧ o.kind ≠ 4) ∨
    (o.value = 3 ∧ o.kind ≠ 1) ∨ (o.value = 4 ∧ o.kind ≠ 1 ∧ (o.kind ≠ 2 ∨ 7 < o.operand) ∧ o.kind ≠ 3) ∨
    ((o.value = 5 ∨ o.value = 6 ∨ o.value = 10) ∧ o.kind ≠ 0) ∨ (o.value = 7 ∧ (o.kind ≠ 1 ∨ 1 < o.segment)) ∨
    (o.value = 8 ∧ (o.kind ≠ 5 ∨ 3 < o.operand ∨ (o.operand = 2 ∧ 14 < o.segment) ∨ (o.operand = 3 ∧ 1 < o.segment) ∨
      ((o.operand = 0 ∨ o.operand = 1) ∧ 0 < o.segment))) ∨
    (o.value = 9 ∧ (o.kind ≠ 6 ∨ o.operand = 0 ∨ 4 < o.operand))

theorem Order.circuitsOk_iff (o : Order) : o.circuitsOk = true ↔ o.kind = 1 ∨ (o.kind = 2 ∧ o.operand ≤ 7) ∨ o.kind = 3 := by
  simp [Order.circuitsOk, or_assoc]

theorem Order.queryStationOk_iff (o : Order) :
    o.operandOk .queryStation = true ↔ o.kind = 5 ∧ o.operand ≤ 3 ∧ o.segment ≤ lastSegment o.operand := by
  simp [Order.operandOk, and_assoc]

theorem Order.operandOk_of_bad (hrow : o.row = some row) (hv : o.value = row.value) (h : o.badOperand) : o.operandOk row = false := by
  rw [← Bool.not_eq_true]
  intro hok
  unfold Order.badOperand at h
  rw [hv] at h
  cases row with
  | cut | revert | commit =>
    have named := o.circuitsOk_iff.mp hok
    simp only [OrderRow.value] at h
    omega
  | revertLast =>
    have last : o.kind = 4 := of_decide_eq_true hok
    simp only [OrderRow.value] at h
    omega
  | force =>
    have circuit : o.kind = 1 := of_decide_eq_true hok
    simp only [OrderRow.value] at h
    omega
  | pause | resume | restart =>
    have none : o.kind = 0 := of_decide_eq_true hok
    simp only [OrderRow.value] at h
    omega
  | queryCircuit =>
    have segment : o.kind = 1 ∧ o.segment ≤ 1 := by simpa [Order.operandOk] using hok
    simp only [OrderRow.value] at h
    omega
  | queryStation =>
    obtain ⟨hk, hpart, hsegment⟩ := o.queryStationOk_iff.mp hok
    simp only [OrderRow.value] at h
    unfold lastSegment at hsegment
    split at hsegment <;> omega
  | takeReports =>
    have count : (o.kind = 6 ∧ 1 ≤ o.operand) ∧ o.operand ≤ 4 := by simpa [Order.operandOk] using hok
    simp only [OrderRow.value] at h
    omega

/-! ## The payload of a refusal -/

theorem Order.refusedPayload_length (used : Nat) (o : Order) : (o.refusedPayload used).length ≤ 56 := by
  unfold Order.refusedPayload
  split <;> simp [circuitPayload, groupPayload, noCircuitPayload, reportsPayload] <;> omega

/-- A circuit operand, of an order that acts on circuits. -/
theorem Order.refusedPayload_circuit (used : Nat) (hrow : o.row = some row) (hk : o.kind = 1) (h4 : o.value ≤ 4) :
    o.refusedPayload used = circuitReply o.operand := by
  obtain ⟨hv, hlast⟩ := Order.value_of_row hrow
  unfold Order.refusedPayload
  rw [hrow, hk]
  rw [hv] at h4
  cases row
  case revertLast => exact absurd ((hlast rfl).symm.trans hk) (by decide)
  case cut | revert | force | commit => rfl
  all_goals exact absurd h4 (by decide)

/-- A group operand. -/
theorem Order.refusedPayload_group (used : Nat) (hrow : o.row = some row) (hk : o.kind = 2 ∨ o.kind = 3)
    (h : o.value = 1 ∨ o.value = 2 ∨ o.value = 4) : o.refusedPayload used = [0, 0, 0, 0] := by
  obtain ⟨hv, hlast⟩ := Order.value_of_row hrow
  unfold Order.refusedPayload
  rw [hrow]
  rw [hv] at h
  cases row
  case revertLast =>
    have four := hlast rfl
    omega
  case cut | revert | commit => rcases hk with hk | hk <;> rw [hk] <;> rfl
  all_goals exact absurd h (by decide)

/-! ## Refusals -/

theorem State.carryOut_unconfigured (hbad : s.stationState = .configBad) (hstation : o.value ≠ 8) (hrestart : o.value ≠ 10) :
    s.carryOut o = s.refuse .notConfigured o := by
  unfold State.carryOut State.carryOutUnconfigured
  rw [if_pos hbad]
  split
  next hrow => exact absurd (Order.value_of_row hrow).1 hstation
  next hrow => exact absurd (Order.value_of_row hrow).1 hrestart
  next => rfl

theorem State.carryOut_badOperand (hrow : o.row = some row) (hstation : s.stationState = .configBad → o.value = 8)
    (h : o.badOperand) : s.carryOut o = s.refuse .badOperand o := by
  obtain ⟨hv, -⟩ := Order.value_of_row hrow
  have bad := Order.operandOk_of_bad hrow hv h
  unfold State.carryOut State.carryOutUnconfigured
  split
  next hbad =>
    have station : row = .queryStation := by
      have hv := hv.symm.trans (hstation hbad)
      cases row
      case queryStation => rfl
      all_goals cases hv
    subst station
    rw [hrow]
    exact if_neg (by rw [bad]; decide)
  next =>
    rw [hrow]
    exact if_neg (by rw [bad]; decide)

theorem State.carryOut_nameless (h : o.row = none) :
    s.carryOut o = s.refuse (if s.stationState = .configBad then .notConfigured else .badOperand) o := by
  unfold State.carryOut State.carryOutUnconfigured
  rw [h]
  split <;> rfl

/-- The station after an order that has been refused as a whole. -/
def State.refusedWhole (o : Order) (rest : List Order) (reason : Reason) (s : State) : State :=
  s.replied o (({ s with orderQueue := rest } : State).refuse reason o)

theorem State.refusedWhole_frame (o : Order) (rest : List Order) (reason : Reason) (s : State) :
    s.answered o rest .refused (some reason) (o.refusedPayload s.freeUsed) (s.refusedWhole o rest reason) ∧
      { s.refusedWhole o rest reason with
        orderQueue := s.orderQueue, replyQueue := s.replyQueue, freeUsed := s.freeUsed } = s := ⟨⟨rfl, rfl⟩, rfl⟩

theorem State.takeHead_nameless (h : s.headIs o rest) (hrow : o.row = none) :
    s.takeHead = s.refusedWhole o rest (if s.stationState = .configBad then .notConfigured else .badOperand) := by
  rw [State.takeHead_of_head h, State.carryOut_nameless hrow]
  rfl

/-- An order without a row is taken in front of the order behind it (log 9). -/
theorem State.takeNameless_succ (h : s.headIs o rest) (hrow : o.row = none) (n : Nat) :
    s.takeNameless (n + 1) = s.takeHead.takeNameless n := by
  conv_lhs => unfold State.takeNameless
  rw [h.2.2.2]
  exact if_pos (by rw [hrow, h.takes]; rfl)

theorem State.takeAs_nameless {p : Order} {more : List Order} (h : s.headIs o (p :: more)) (hrow : o.row = none)
    (hp : p.row = some row) (hv : s.takeHead.headIs p more) : s.takeAs row = s.takeHead.takeAs row := by
  rw [State.takeAs_of_head hv hp]
  unfold State.takeAs
  dsimp only
  rw [h.2.2.2, List.length_cons, State.takeNameless_succ h hrow, State.takeNameless_of_head hv (by rw [hp]; rfl), hv.2.2.2]
  exact if_pos ⟨hp, hv.takes⟩

theorem State.takeAs_nameless_alone (h : s.headIs o []) (hrow : o.row = none) : s.takeAs row = s := by
  have empty : s.takeHead.orderQueue = [] := State.takeHead_orderQueue h.2.2.2
  unfold State.takeAs
  dsimp only
  rw [h.2.2.2, List.length_cons, State.takeNameless_succ h hrow]
  dsimp only [List.length_nil, State.takeNameless]
  rw [empty]

/-- Settles O46: an order that the station does not admit, or whose operand is bad, is refused with its layout; one that names
no order is taken on the way to the order behind it. -/
theorem ordersRefusedAsAWhole : Obligations.OrdersRefusedAsAWhole := by
  refine ⟨fun s i o rest reason h hi hcase => ?_, fun s o rest h hnameless => ?_⟩
  · obtain ⟨row, rfl, hrow, hv⟩ := Order.row_of_command hi
    have carried : ({ s with orderQueue := rest } : State).carryOut o = ({ s with orderQueue := rest } : State).refuse reason o := by
      rcases hcase with ⟨hbad, h8, h10, rfl⟩ | ⟨hstation, rfl, hoperand⟩
      · exact State.carryOut_unconfigured (s := { s with orderQueue := rest }) hbad h8 h10
      · exact State.carryOut_badOperand (s := { s with orderQueue := rest }) hrow hstation hoperand
    have done : exec (commandOf row) s = .next (s.refusedWhole o rest reason) :=
      (exec_order h hrow).trans (congrArg (fun d => Host.Outcome.next (s.replied o d)) carried)
    obtain ⟨answered, same⟩ := s.refusedWhole_frame o rest reason
    refine ⟨_, _, done, answered, same, o.refusedPayload_length _, fun hk _ h4 => Order.refusedPayload_circuit _ hrow hk h4,
      fun hk hvalue => Order.refusedPayload_group _ hrow hk hvalue, ?_, ?_, ?_, ?_⟩
    all_goals
      unfold Order.refusedPayload
      rw [hrow]
    · intro hk h2
      rw [hk]
      have last : row = .revertLast := by
        rw [Order.row_of_value (row := .revertLast) h2 nofun fun _ => hk] at hrow
        exact (Option.some.inj hrow).symm
      rw [last]
      rfl
    · intro hk hvalue
      rw [hk]
      rw [hv] at hvalue
      cases row
      case pause | resume => rfl
      all_goals exact absurd hvalue (by decide)
    · intro hk hvalue
      rw [hk]
      rw [hv] at hvalue
      cases row
      case queryCircuit => rfl
      all_goals exact absurd hvalue (by decide)
    · intro hvalue
      rw [hv] at hvalue
      cases row
      case takeReports => rfl
      all_goals exact absurd hvalue (by decide)
  · have hrow := Order.row_of_nameless hnameless
    have taken := State.takeHead_nameless h hrow
    obtain ⟨answered, same⟩ := s.refusedWhole_frame o rest (if s.stationState = .configBad then .notConfigured else .badOperand)
    rw [← taken] at answered same
    refine ⟨s.takeHead, _, answered, same, o.refusedPayload_length _, State.takeAll_of_head h, fun p more row hrest hp hroom => ?_,
      fun hrest row => ?_⟩
    · subst hrest
      have head : s.takeHead.headIs p more := by
        refine ⟨?_, ?_, ?_, answered.1⟩
        · rw [taken]
          exact h.1
        · rw [answered.2, List.length_append]
          exact Nat.add_lt_add_right hroom 1
        · rw [taken]
          exact h.2.2.1
      rw [exec_commandOf, exec_commandOf, State.takeAs_nameless h hrow hp head]
    · subst hrest
      rw [exec_commandOf, State.takeAs_nameless_alone h hrow]

end Sys2Proof.Machine
end

section
/-! Orders that name a group of circuits (R143, R144): what the run over the circuits gives, and how it is answered. -/

namespace Sys2Proof.Machine

variable {s : State} {i : Instr} {o : Order} {rest : List Order} {row : OrderRow} {cs : List Nat}
  {act : Ctx → Nat → Trunk → Trunk × Option Reason}

/-! ## The run over the circuits -/

section
variable (f : Nat → Trunk → Trunk × Option Reason)

theorem runGroup_trunk : ∀ (cs : List Nat) (t : Trunk), (runGroup f cs t).1 = cs.foldl (fun u c => (f c u).1) t
  | [], _ => rfl
  | c :: cs, t => runGroup_trunk cs (f c t).1

theorem runGroup_circuits : ∀ (cs : List Nat) (t : Trunk), (runGroup f cs t).2.map Prod.fst = cs
  | [], _ => rfl
  | c :: cs, t => congrArg (c :: ·) (runGroup_circuits cs (f c t).1)

/-- Each circuit's outcome is judged on what those before it left. -/
theorem runGroup_outcome : ∀ (cs : List Nat) (t : Trunk) (j c : Nat), cs[j]? = some c →
    (runGroup f cs t).2[j]? = some (c, (f c ((cs.take j).foldl (fun u c => (f c u).1) t)).2)
  | d :: cs, t, 0, c, h => by
    obtain rfl : d = c := Option.some.inj h
    rfl
  | d :: cs, t, j + 1, c, h => runGroup_outcome cs (f d t).1 j c h

theorem runGroup_length (cs : List Nat) (t : Trunk) : (runGroup f cs t).2.length = cs.length := by
  rw [← List.length_map (f := Prod.fst), runGroup_circuits]

end

/-! ## The outcome and the lowest refused circuit -/

variable {res : List (Nat × Option Reason)}

theorem acceptedOf_le (res : List (Nat × Option Reason)) : acceptedOf res ≤ res.length := List.length_filter_le _ _

theorem acceptedOf_eq_length_iff : acceptedOf res = res.length ↔ ∀ e ∈ res, e.2 = none := by
  unfold acceptedOf
  rw [List.length_filter_eq_length_iff]
  exact forall₂_congr fun _ _ => Option.isNone_iff_eq_none

theorem acceptedOf_eq_zero_iff : acceptedOf res = 0 ↔ ∀ e ∈ res, e.2 ≠ none := by
  unfold acceptedOf
  rw [List.length_eq_zero_iff, List.filter_eq_nil_iff]
  exact forall₂_congr fun _ _ => by rw [Option.isNone_iff_eq_none]

theorem groupOutcome_done_iff : groupOutcome res = .done ↔ ∀ e ∈ res, e.2 = none := by
  rw [← acceptedOf_eq_length_iff]
  unfold groupOutcome
  split
  · exact ⟨fun _ => ‹_›, fun _ => rfl⟩
  · split <;> exact ⟨nofun, fun h => absurd h ‹_›⟩

theorem groupOutcome_refused_iff : groupOutcome res = .refused ↔ res ≠ [] ∧ ∀ e ∈ res, e.2 ≠ none := by
  rw [← acceptedOf_eq_zero_iff, ← List.length_pos_iff]
  unfold groupOutcome
  split
  · exact ⟨nofun, fun ⟨hpos, hzero⟩ => by omega⟩
  · next hlt =>
    have le := acceptedOf_le res
    split
    · exact ⟨fun _ => ⟨by omega, ‹_›⟩, fun _ => rfl⟩
    · exact ⟨nofun, fun ⟨_, hzero⟩ => absurd hzero ‹_›⟩

theorem firstRefused_of_done (h : ∀ e ∈ res, e.2 = none) : firstRefused res = none :=
  List.find?_eq_none.mpr fun e he => by rw [h e he]; decide

theorem firstRefused_of_split {before after : List (Nat × Option Reason)} {c : Nat} {r : Reason}
    (h : res = before ++ (c, some r) :: after) (hbefore : ∀ e ∈ before, e.2 = none) : firstRefused res = some (c, some r) := by
  subst h
  unfold firstRefused
  rw [List.find?_append, List.find?_eq_none.mpr fun e he => by rw [hbefore e he]; decide]
  rfl

/-! ## The answer, the counts fitting their bytes -/

theorem groupPayload_of_lt {named accepted : Nat} (hn : named < 256) (ha : accepted < 256) (used : Nat) (lowest : Option Nat) :
    groupPayload used named accepted lowest =
      [BitVec.ofNat 8 named, BitVec.ofNat 8 accepted, byteOf (lowest.getD 0), if lowest.isSome then 0x80 else 0] := by
  unfold groupPayload countByte
  rw [if_pos hn, if_pos ha]
  rfl

theorem groupAnswer_payload (hlen : res.length < 256) (used : Nat) :
    (groupAnswer used res).payload =
      [BitVec.ofNat 8 res.length, BitVec.ofNat 8 (acceptedOf res), byteOf (((firstRefused res).map Prod.fst).getD 0),
        if ((firstRefused res).map Prod.fst).isSome then 0x80 else 0] :=
  groupPayload_of_lt hlen (Nat.lt_of_le_of_lt (acceptedOf_le res) hlen) used _

theorem groupAnswer_of_done (hlen : res.length < 256) (h : ∀ e ∈ res, e.2 = none) (used : Nat) :
    (groupAnswer used res).reason = none ∧
      (groupAnswer used res).payload = [BitVec.ofNat 8 res.length, BitVec.ofNat 8 res.length, 0, 0] := by
  constructor
  · unfold groupAnswer
    rw [firstRefused_of_done h]
    rfl
  · rw [groupAnswer_payload hlen, firstRefused_of_done h, acceptedOf_eq_length_iff.mpr h]
    rfl

theorem groupAnswer_of_split {before after : List (Nat × Option Reason)} {c : Nat} {r : Reason} (hlen : res.length < 256)
    (h : res = before ++ (c, some r) :: after) (hbefore : ∀ e ∈ before, e.2 = none) (used : Nat) :
    (groupAnswer used res).reason = some r ∧
      (groupAnswer used res).payload =
        [BitVec.ofNat 8 res.length, BitVec.ofNat 8 (res.filter (fun e => e.2.isNone)).length, BitVec.ofNat 8 c, 0x80] := by
  constructor
  · unfold groupAnswer
    rw [firstRefused_of_split h hbefore]
    rfl
  · rw [groupAnswer_payload hlen, firstRefused_of_split h hbefore]
    rfl

/-! ## What the operand names, and the orders that act on it -/

/-- The circuits a group order names. -/
def State.namesGroup (o : Order) (cs : List Nat) (s : State) : Prop :=
  (o.kind = 3 ∧ cs = (List.range 256).filter (fun c => (s.circuit c).binding.isSome)) ∨
    (o.kind = 2 ∧ o.operand ≤ 7 ∧ ∃ w, s.windows[o.operand]? = some w ∧ w.validity = .valid ∧
      cs = (List.range w.length).map (fun k => w.localBase + k))

/-- The operand names a window that is not VALID. -/
def State.namesInvalid (o : Order) (s : State) : Prop :=
  o.kind = 2 ∧ o.operand ≤ 7 ∧ ∃ w, s.windows[o.operand]? = some w ∧ w.validity ≠ .valid

theorem State.named_of_group (h : s.namesGroup o cs) : o.named s = .group cs := by
  unfold Order.named
  rcases h with ⟨hk, rfl⟩ | ⟨hk, -, w, hw, hvalid, rfl⟩
  · rw [hk]
    rfl
  · rw [if_neg (by omega), if_pos hk, hw]
    exact if_pos hvalid

theorem State.named_of_invalid (h : s.namesInvalid o) : o.named s = .invalidWindow := by
  obtain ⟨hk, -, w, hw, hinvalid⟩ := h
  unfold Order.named
  rw [if_neg (by omega), if_pos hk, hw]
  exact if_neg hinvalid

theorem State.circuitsOk_of_names (h : s.namesGroup o cs ∨ s.namesInvalid o) : o.circuitsOk = true ∧ o.kind ≠ 4 := by
  rw [Order.circuitsOk_iff]
  rcases h with (⟨hk, -⟩ | ⟨hk, hle, -⟩) | ⟨hk, hle, -⟩ <;> omega

/-- A command that carries `act` out on what its order names. -/
def State.actsOnNamed (i : Instr) (o : Order) (act : Ctx → Nat → Trunk → Trunk × Option Reason) (s : State) : Prop :=
  (i = .cut ∧ o.value = 1 ∧ act = Trunk.cutOne ∧ s.stage = .operating) ∨
    (i = .revert ∧ o.value = 2 ∧ act = Trunk.revertOne ∧ s.stationState ≠ .configBad) ∨
    (i = .commit ∧ o.value = 4 ∧ act = Trunk.commitOne ∧ s.stationState ≠ .configBad)

theorem State.exec_onNamed (h : s.headIs o rest) (hi : s.actsOnNamed i o act) (hok : o.circuitsOk = true) (hk : o.kind ≠ 4) :
    exec i s = .next (s.replied o (({ s with orderQueue := rest } : State).onNamed act o)) := by
  rcases hi with ⟨rfl, hv, rfl, hstage⟩ | ⟨rfl, hv, rfl, hbad⟩ | ⟨rfl, hv, rfl, hbad⟩
  · exact exec_order_of_ok (row := .cut) h (Order.row_of_value hv nofun nofun) (State.ne_configBad_of_stage (.inr hstage)) hok
      (if_pos hstage)
  · exact exec_order_of_ok (row := .revert) h (Order.row_of_value hv (fun _ => hk) nofun) hbad hok rfl
  · exact exec_order_of_ok (row := .commit) h (Order.row_of_value hv nofun nofun) hbad hok rfl

theorem State.onNamed_group (h : s.namesGroup o cs) (hlen : cs.length < 256) :
    s.onNamed act o = ({ s with trunk := (runGroup (act s.ctx) cs s.trunk).1 },
      groupAnswer s.freeUsed (runGroup (act s.ctx) cs s.trunk).2) := by
  unfold State.onNamed
  rw [State.named_of_group h]
  unfold freeAfter
  dsimp only
  rw [if_pos hlen]

theorem State.onNamed_invalid (h : s.namesInvalid o) : s.onNamed act o = (s, .refused .notBound [0, 0, 0, 0]) := by
  unfold State.onNamed
  rw [State.named_of_invalid h]
  rfl

/-! ## A CUT in LISTENING -/

theorem State.exec_cutNotReady (h : s.headIs o rest) (hv : o.value = 1) (hstage : s.stage = .listening) (hok : o.circuitsOk = true) :
    exec .cut s = .next (s.replied o (({ s with orderQueue := rest } : State).cutNotReady o)) := by
  refine exec_order_of_ok (row := .cut) h (Order.row_of_value hv nofun nofun) (State.ne_configBad_of_stage (.inl hstage)) hok
    (if_neg ?_)
  show ¬ s.stage = .operating
  rw [hstage]
  decide

theorem State.cutNotReady_group (h : s.namesGroup o cs) (hlen : cs.length < 256) :
    s.cutNotReady o = (s, .refused .notReady (groupPayload s.freeUsed cs.length 0 cs.head?)) := by
  unfold State.cutNotReady
  rw [State.named_of_group h]
  unfold freeAfter
  dsimp only
  rw [if_pos hlen]

theorem State.cutNotReady_invalid (h : s.namesInvalid o) : s.cutNotReady o = (s, .refused .notReady [0, 0, 0, 0]) := by
  unfold State.cutNotReady
  rw [State.named_of_invalid h]
  rfl

theorem State.exec_group (h : s.headIs o rest) (hi : s.actsOnNamed i o act) (hg : s.namesGroup o cs) (hlen : cs.length < 256) :
    exec i s = .next (s.answeredWith o rest (runGroup (act s.ctx) cs s.trunk).1
      (groupAnswer s.freeUsed (runGroup (act s.ctx) cs s.trunk).2)) := by
  obtain ⟨hok, hk⟩ := State.circuitsOk_of_names (.inl hg)
  rw [State.exec_onNamed h hi hok hk]
  have group : ({ s with orderQueue := rest } : State).onNamed act o = _ := State.onNamed_group hg hlen
  rw [group]
  rfl

theorem State.exec_group_invalid (h : s.headIs o rest) (hi : s.actsOnNamed i o act) (hw : s.namesInvalid o) :
    exec i s = .next (s.answeredWith o rest s.trunk (.refused .notBound [0, 0, 0, 0])) := by
  obtain ⟨hok, hk⟩ := State.circuitsOk_of_names (.inr hw) (cs := [])
  rw [State.exec_onNamed h hi hok hk]
  have invalid : ({ s with orderQueue := rest } : State).onNamed act o = _ := State.onNamed_invalid hw
  rw [invalid]
  rfl

theorem State.exec_cut_group_listening (h : s.headIs o rest) (hv : o.value = 1) (hstage : s.stage = .listening)
    (hg : s.namesGroup o cs) (hlen : cs.length < 256) :
    exec .cut s = .next (s.answeredWith o rest s.trunk (.refused .notReady (groupPayload s.freeUsed cs.length 0 cs.head?))) := by
  rw [State.exec_cutNotReady h hv hstage (State.circuitsOk_of_names (.inl hg)).1]
  have group : ({ s with orderQueue := rest } : State).cutNotReady o = _ := State.cutNotReady_group hg hlen
  rw [group]
  rfl

theorem State.exec_cut_invalid_listening (h : s.headIs o rest) (hv : o.value = 1) (hstage : s.stage = .listening)
    (hw : s.namesInvalid o) :
    exec .cut s = .next (s.answeredWith o rest s.trunk (.refused .notReady [0, 0, 0, 0])) := by
  rw [State.exec_cutNotReady h hv hstage (State.circuitsOk_of_names (.inr hw) (cs := [])).1]
  have invalid : ({ s with orderQueue := rest } : State).cutNotReady o = _ := State.cutNotReady_invalid hw
  rw [invalid]
  rfl

/-- Settles O51: the group order is the run over its circuits, answered by its counts and its lowest refusal. -/
theorem groupOrdersAnswered : Obligations.GroupOrdersAnswered := by
  intro s i o rest act cs h
  refine ⟨fun hi => ⟨fun hg hlen => ?_, fun hk ⟨w, hw, hinvalid⟩ hle => ?_⟩,
    fun hcut hv hstage => ⟨fun hg hlen => ?_, fun hk ⟨w, hw, hinvalid⟩ hle => ?_⟩⟩
  · have hlength := runGroup_length (act s.ctx) cs s.trunk
    obtain ⟨answered, same⟩ := s.answeredWith_answered o rest (runGroup (act s.ctx) cs s.trunk).1
      (groupAnswer s.freeUsed (runGroup (act s.ctx) cs s.trunk).2)
    have hres : (runGroup (act s.ctx) cs s.trunk).2.length < 256 := by rw [hlength]; exact hlen
    refine ⟨_, (runGroup (act s.ctx) cs s.trunk).2, _, _, _, State.exec_group h hi hg hlen, answered, same,
      runGroup_circuits _ _ _, runGroup_trunk _ _ _, runGroup_outcome _ _ _, groupOutcome_done_iff, groupOutcome_refused_iff,
      fun hdone => ?_, fun before after c r hsplit hbefore => ?_⟩
    · rw [← hlength]
      exact groupAnswer_of_done hres (groupOutcome_done_iff.mp hdone) _
    · rw [← hlength]
      exact groupAnswer_of_split hres hsplit hbefore _
  · obtain ⟨answered, same⟩ := s.answeredWith_answered o rest s.trunk (.refused .notBound [0, 0, 0, 0])
    exact ⟨_, State.exec_group_invalid h hi ⟨hk, hle, w, hw, hinvalid⟩, answered, same, s.trunk.unchanged_refl⟩
  · subst hcut
    obtain ⟨answered, same⟩ := s.answeredWith_answered o rest s.trunk
      (.refused .notReady (groupPayload s.freeUsed cs.length 0 cs.head?))
    refine ⟨_, _, State.exec_cut_group_listening h hv hstage hg hlen, answered, same, s.trunk.unchanged_refl, fun hnil => ?_,
      fun c more hcons => ?_⟩
    · rw [hnil]
      rfl
    · show groupPayload s.freeUsed cs.length 0 cs.head? = _
      rw [groupPayload_of_lt hlen (by decide), hcons]
      rfl
  · subst hcut
    obtain ⟨answered, same⟩ := s.answeredWith_answered o rest s.trunk (.refused .notReady [0, 0, 0, 0])
    exact ⟨_, State.exec_cut_invalid_listening h hv hstage ⟨hk, hle, w, hw, hinvalid⟩, answered, same, s.trunk.unchanged_refl⟩

end Sys2Proof.Machine

end

section
/-! Reading what was laid out: bytes, fields and flag bits at a place of a byte list (R157, R160). -/

namespace Sys2Proof.Machine

variable {bs xs ys zs : List Byte} {i j k n v : Nat} {b : Byte}

/-! ## The bytes that stand at a place -/

/-- The bytes `xs` stand in `bs` from byte `i` on. -/
def standsAt (bs : List Byte) (i : Nat) (xs : List Byte) : Prop := (bs.drop i).take xs.length = xs

theorem standsAt_append_right (h : standsAt ys i xs) (hj : j = zs.length + i) : standsAt (zs ++ ys) j xs := by
  unfold standsAt
  rw [hj, List.drop_append, List.drop_eq_nil_of_le (by omega), Nat.add_sub_cancel_left, List.nil_append]
  exact h

theorem standsAt_append_left (h : standsAt ys i xs) (hle : i + xs.length ≤ ys.length) : standsAt (ys ++ zs) i xs := by
  unfold standsAt
  rw [List.drop_append_of_le_length (by omega), List.take_append_of_le_length (by rw [List.length_drop]; omega)]
  exact h

theorem standsAt_zero : standsAt (xs ++ zs) 0 xs := List.take_left

theorem byteAt_add_of_standsAt (h : standsAt bs i xs) (hk : k < xs.length) : byteAt bs (i + k) = byteAt xs k := by
  have hxs : byteAt xs k = byteAt ((bs.drop i).take xs.length) k := congrArg (byteAt · k) h.symm
  rw [hxs]
  unfold byteAt
  rw [List.getD_eq_getElem?_getD, List.getD_eq_getElem?_getD, List.getElem?_take, if_pos hk, List.getElem?_drop]

theorem byteAt_of_standsAt (h : standsAt bs i [b]) : byteAt bs i = b := byteAt_add_of_standsAt (k := 0) h Nat.one_pos

theorem byteAt_append_right (h : xs.length ≤ i) : byteAt (xs ++ ys) i = byteAt ys (i - xs.length) := by
  unfold byteAt
  rw [List.getD_eq_getElem?_getD, List.getD_eq_getElem?_getD, List.getElem?_append_right h]

theorem byteAt_append_left (h : i < xs.length) : byteAt (xs ++ ys) i = byteAt xs i := by
  unfold byteAt
  rw [List.getD_eq_getElem?_getD, List.getD_eq_getElem?_getD, List.getElem?_append_left h]

theorem byteAt_of_length_le (h : bs.length ≤ i) : byteAt bs i = 0 := by
  unfold byteAt
  rw [List.getD_eq_getElem?_getD, List.getElem?_eq_none h]
  rfl

theorem byteAt_replicate_zero : byteAt (List.replicate n 0) i = 0 := by
  unfold byteAt
  rw [List.getD_eq_getElem?_getD, List.getElem?_replicate]
  split <;> rfl

/-- Behind the listed bytes a padded list holds zeros. -/
theorem byteAt_padTo_of_le (h : bs.length ≤ i) : byteAt (padTo n bs) i = 0 := by
  unfold padTo
  rw [byteAt_append_right h, byteAt_replicate_zero]

theorem padTo_length (h : bs.length ≤ n) : (padTo n bs).length = n := by
  unfold padTo
  rw [List.length_append, List.length_replicate]
  omega

theorem padTo_of_length (h : bs.length = n) : padTo n bs = bs := by
  unfold padTo
  rw [h, Nat.sub_self]
  exact List.append_nil bs

/-- The bytes taken from within a list. -/
theorem bytesFrom_eq_of_standsAt (h : standsAt bs i xs) : bytesFrom bs i xs.length = xs := by
  refine List.ext_getElem (by simp [bytesFrom]) fun k hk hxs => ?_
  have entry : (bytesFrom bs i xs.length)[k] = byteAt bs (i + k) := by simp [bytesFrom]
  rw [entry, byteAt_add_of_standsAt h hxs]
  exact List.getD_eq_getElem (l := xs) (d := 0) hxs

/-! ## Fields -/

theorem be_length : ∀ n v, (be n v).length = n
  | 0, _ => rfl
  | n + 1, v => congrArg (· + 1) (be_length n v)

theorem byteAt_be : ∀ (n v k : Nat), k < n → byteAt (be n v) k = BitVec.ofNat 8 (v / 256 ^ (n - 1 - k))
  | n + 1, v, 0, _ => rfl
  | n + 1, v, k + 1, h => by
    have le : n - 1 - k = n + 1 - 1 - (k + 1) := by omega
    rw [← le]
    exact byteAt_be n v k (by omega)

theorem fieldAt_succ (bs : List Byte) (i n : Nat) : fieldAt bs i (n + 1) = fieldAt bs i n * 256 + (byteAt bs (i + n)).toNat := by
  unfold fieldAt
  rw [List.range_succ, List.foldl_append]
  rfl

/-- The first `m` bytes of a laid-out value are its leading digits. -/
theorem fieldAt_be_leading (h : ∀ k, k < n → byteAt bs (i + k) = byteAt (be n v) k) :
    ∀ m, m ≤ n → fieldAt bs i m = v / 256 ^ (n - m) % 256 ^ m
  | 0, _ => (Nat.mod_one _).symm
  | m + 1, hm => by
    have power : 256 ^ (n - m) = 256 ^ (n - (m + 1)) * 256 := by
      rw [← pow_succ]
      congr 1
      omega
    have digit : n - 1 - m = n - (m + 1) := by omega
    rw [fieldAt_succ, fieldAt_be_leading h m (by omega), h m hm, byteAt_be n v m hm, power, ← Nat.div_div_eq_div_mul, digit,
      BitVec.toNat_ofNat, pow_succ' 256 m, Nat.mod_mul, Nat.add_comm,
      Nat.mul_comm 256]

theorem fieldAt_of_standsAt (h : standsAt bs i (be n v)) : fieldAt bs i n = v % 256 ^ n := by
  rw [fieldAt_be_leading (v := v) (fun k hk => byteAt_add_of_standsAt h (by rw [be_length]; exact hk)) n le_rfl, Nat.sub_self,
    pow_zero, Nat.div_one]

theorem fieldAt_of_lt (h : standsAt bs i (be n v)) (hv : v < 256 ^ n) : fieldAt bs i n = v := by
  rw [fieldAt_of_standsAt h, Nat.mod_eq_of_lt hv]

theorem fieldAt_word {w : Word} (h : standsAt bs i (be 2 w.toNat)) : fieldAt bs i 2 = w.toNat := fieldAt_of_lt h w.isLt

theorem byteOf_toNat (h : v < 256) : (byteOf v).toNat = v := by
  unfold byteOf
  rw [BitVec.toNat_ofNat]
  exact Nat.mod_eq_of_lt h

theorem byteAt_byteOf (h : standsAt bs i [byteOf v]) (hv : v < 256) : (byteAt bs i).toNat = v := by
  rw [byteAt_of_standsAt h, byteOf_toNat hv]

/-! ## Optional items -/

section
variable {item : Option Nat}

theorem fieldAt_some (h : standsAt bs i (optBytes n item)) (hv : item = some v) (hlt : v < 256 ^ n) : fieldAt bs i n = v := by
  subst hv
  exact fieldAt_of_lt h hlt

theorem fieldAt_none (h : standsAt bs i (optBytes n item)) (hv : item = none) : fieldAt bs i n = 0 := by
  subst hv
  exact fieldAt_of_lt (v := 0) h (by positivity)

theorem optBytes_one (item : Option Nat) : optBytes 1 item = [byteOf (item.getD 0)] := by
  unfold optBytes be
  rw [pow_zero, Nat.div_one]
  rfl

theorem byteAt_some (h : standsAt bs i (optBytes 1 item)) (hv : item = some v) (hlt : v < 256) : (byteAt bs i).toNat = v := by
  subst hv
  rw [optBytes_one] at h
  exact byteAt_byteOf h hlt

theorem byteAt_none (h : standsAt bs i (optBytes 1 item)) (hv : item = none) : byteAt bs i = 0 := by
  subst hv
  rw [optBytes_one] at h
  exact byteAt_of_standsAt h

/-- An absent word's field is 0, a present one's is its value. -/
theorem fieldAt_someWord {item : Option Word} {w : Word} (h : standsAt bs i (optBytes 2 (item.map BitVec.toNat)))
    (hv : item = some w) : fieldAt bs i 2 = w.toNat :=
  fieldAt_some h (congrArg (Option.map BitVec.toNat) hv) w.isLt

theorem optBytes_length (n : Nat) (item : Option Nat) : (optBytes n item).length = n := be_length _ _

end

/-! ## Flags -/

variable {fs : List Bool}

/-- The top bit shifted down by `k`. -/
theorem topBit_shifted_getLsbD (k j : Nat) : (0x80#8 >>> k).getLsbD j = decide (k + j = 7) := by
  have top : 0x80#8 = BitVec.twoPow 8 7 := by decide
  rw [BitVec.getLsbD_ushiftRight, top, BitVec.getLsbD_twoPow]
  simp [eq_comm]

theorem flagFold_getLsbD (hj : j < 8) : ∀ (fs : List Bool) (k : Nat) (b : Byte),
    ((fs.zipIdx k).foldl (fun b f => if f.1 then b ||| (0x80#8 >>> f.2) else b) b).getLsbD j =
      (b.getLsbD j || (decide (k + j ≤ 7) && fs.getD (7 - j - k) false))
  | [], k, b => by simp
  | f :: fs, k, b => by
    rw [List.zipIdx_cons, List.foldl_cons, flagFold_getLsbD hj fs (k + 1)]
    have head : (if f then b ||| (0x80#8 >>> k) else b).getLsbD j = (b.getLsbD j || (f && decide (k + j = 7))) := by
      cases f
      · simp
      · rw [if_pos rfl, BitVec.getLsbD_or, topBit_shifted_getLsbD, Bool.true_and]
    rw [head]
    rcases Nat.lt_trichotomy (k + j) 7 with h | h | h
    · have shift : 7 - j - k = (7 - j - (k + 1)) + 1 := by omega
      rw [shift, List.getD_cons_succ]
      simp [show ¬ k + j = 7 by omega, show k + 1 + j ≤ 7 by omega, show k + j ≤ 7 by omega]
    · have place : 7 - j - k = 0 := by omega
      rw [place, List.getD_cons_zero]
      simp [h, show ¬ k + 1 + j ≤ 7 by omega]
    · simp [show ¬ k + j = 7 by omega, show ¬ k + 1 + j ≤ 7 by omega, show ¬ k + j ≤ 7 by omega]

/-- The flags of a byte stand from bit 7 downward. -/
theorem flagByte_getLsbD (hj : j < 8) (fs : List Bool) : (flagByte fs).getLsbD j = fs.getD (7 - j) false := by
  unfold flagByte
  rw [flagFold_getLsbD hj, List.getD_eq_getElem?_getD, List.getD_eq_getElem?_getD, List.getElem?_take, if_pos (by omega)]
  simp [Nat.le_of_lt_succ hj]

theorem presenceBytes_length : ∀ n fs, (presenceBytes n fs).length = n
  | 0, _ => rfl
  | n + 1, fs => congrArg (· + 1) (presenceBytes_length n (fs.drop 8))

theorem byteAt_presenceBytes : ∀ (n : Nat) (fs : List Bool) (k : Nat), k < n →
    byteAt (presenceBytes n fs) k = flagByte (fs.drop (8 * k))
  | n + 1, fs, 0, _ => rfl
  | n + 1, fs, k + 1, h => by
    have split : 8 * (k + 1) = 8 + 8 * k := by omega
    rw [split, ← List.drop_drop]
    exact byteAt_presenceBytes n (fs.drop 8) k (by omega)

/-- The presence bits of a segment are the flags in item order. -/
theorem presenceBit_presenceBytes (hi : i < 8 * n) (fs : List Bool) (ys : List Byte) :
    presenceBit (presenceBytes n fs ++ ys) i = fs.getD i false := by
  unfold presenceBit
  rw [byteAt_append_left (by rw [presenceBytes_length]; omega), byteAt_presenceBytes n fs _ (by omega),
    flagByte_getLsbD (by omega), List.getD_eq_getElem?_getD, List.getD_eq_getElem?_getD, List.getElem?_drop]
  congr 2
  omega

/-- The flags of a flag byte stand from bit 0 upward. -/
theorem bits_testBit : ∀ (fs : List Bool) (j : Nat), (bits fs).testBit j = fs.getD j false
  | [], j => Nat.zero_testBit j
  | f :: fs, 0 => by
    show (2 * bits fs + if f then 1 else 0).testBit 0 = f
    rw [Nat.testBit_zero]
    cases f <;> simp
  | f :: fs, j + 1 => by
    show (2 * bits fs + if f then 1 else 0).testBit (j + 1) = fs.getD j false
    rw [Nat.testBit_succ, ← bits_testBit fs j]
    congr 1
    cases f
    · simp
    · simp
      omega

theorem byteOf_bits_getLsbD (h : fs.length ≤ 8) (j : Nat) : (byteOf (bits fs)).getLsbD j = fs.getD j false := by
  unfold byteOf
  rw [BitVec.getLsbD_ofNat, bits_testBit]
  by_cases hj : j < 8
  · simp [hj]
  · rw [List.getD_eq_getElem?_getD, List.getElem?_eq_none (by omega)]
    simp [hj]

end Sys2Proof.Machine

end

section
/-! TAKE REPORTS (R148, R156): what it removes, and the bytes of a report (Table 12.5). -/

namespace Sys2Proof.Machine

variable {s : State} {o : Order} {rest : List Order} {r : Report} {rs : List Report}

/-! ## The bytes of a report -/

theorem Report.bytes_length (r : Report) : r.bytes.length = 11 := rfl

theorem reportCode_lt (k : ReportKind) : reportCode k < 256 := by cases k <;> decide

theorem variantCode_lt (v : ReportVariant) : variantCode v < 256 := by
  rcases v with v | v | v <;> cases v <;> decide

theorem reportKinds_code : ∀ k ∈ reportKinds, reportCode k.1 = k.2 := by decide

theorem reportVariants_code : ∀ v ∈ reportVariants, variantCode v.1 = v.2 := by decide

theorem Report.bytes_laidOutAs (r : Report) : r.laidOutAs r.bytes := by
  refine ⟨rfl, fun k hk hkind => ?_, fun i => ?_, fun c hc hlt => byteAt_some (i := 2) rfl hc hlt, byteAt_none (i := 2) rfl,
    fun p hp hlt => byteAt_some (i := 3) rfl hp hlt, byteAt_none (i := 3) rfl, fun v hv hvar => ?_, fun hvar => ?_,
    fun d hd hlt => fieldAt_some (i := 5) rfl hd hlt, fieldAt_none (i := 5) rfl, fun hlt => fieldAt_of_lt (i := 7) rfl hlt⟩
  · rw [← reportKinds_code k hk, hkind]
    exact byteAt_byteOf (i := 0) rfl (reportCode_lt _)
  · have flags : byteAt r.bytes 1 = byteOf (bits [r.circuit.isSome, r.station.isSome, r.variant.isSome, r.detail.isSome,
        r.flags.lostActivity, r.flags.blind, r.flags.activityGap]) := rfl
    unfold bitOf
    rw [flags, byteOf_bits_getLsbD (by exact Nat.le_succ 7)]
    match i with
    | 0 | 1 | 2 | 3 | 4 | 5 | 6 | 7 => rfl
    | _ + 8 => rfl
  · rw [← reportVariants_code v hv]
    exact byteAt_some (i := 4) (item := r.variant.map variantCode) rfl (congrArg (Option.map variantCode) hvar) (variantCode_lt _)
  · exact byteAt_none (i := 4) (item := r.variant.map variantCode) rfl (congrArg (Option.map variantCode) hvar)

/-! ## The reports of a reply, eleven bytes each -/

theorem flatten_length_of_forall {α : Type} {f : α → List Byte} {n : Nat} (h : ∀ a, (f a).length = n) (as : List α) :
    (as.map f).flatten.length = n * as.length := by
  simp [List.length_flatten, Function.comp_def, h, Nat.mul_comm]

/-- The `j`-th of pieces of equal length stands behind the `j` before it. -/
theorem flatten_standsAt {α : Type} {f : α → List Byte} {n : Nat} (h : ∀ a, (f a).length = n) :
    ∀ (as : List α) (j : Nat) (a : α), as[j]? = some a → standsAt (as.map f).flatten (n * j) (f a)
  | b :: as, 0, a, ha => by
    obtain rfl : b = a := Option.some.inj ha
    exact standsAt_zero
  | b :: as, j + 1, a, ha => by
    refine standsAt_append_right (ys := (as.map f).flatten) (flatten_standsAt h as j a ha) ?_
    rw [h b, Nat.mul_succ, Nat.add_comm]

theorem reportsPayload_length (rs : List Report) : (reportsPayload rs).length = 11 * rs.length :=
  flatten_length_of_forall Report.bytes_length rs

theorem reportsPayload_entry {j : Nat} (h : rs[j]? = some r) : ((reportsPayload rs).drop (11 * j)).take 11 = r.bytes :=
  flatten_standsAt Report.bytes_length rs j r h

/-! ## The order -/

theorem exec_takeReports (h : s.headIs o rest) (hv : o.value = 9) (hk : o.kind = 6) (h1 : 1 ≤ o.operand) (h4 : o.operand ≤ 4)
    (hbad : s.stationState ≠ .configBad) :
    exec .takeReports s = .next (s.answeredWith o rest { s.trunk with reports := s.trunk.reports.drop o.operand }
      (.done (reportsPayload (s.trunk.reports.take o.operand)))) := by
  have ok : o.operandOk .takeReports = true := by
    unfold Order.operandOk
    simp [hk, h1, h4]
  exact exec_order_of_ok (row := .takeReports) h (Order.row_of_value hv nofun nofun) hbad ok rfl

theorem exec_takeReports_unconfigured (h : s.headIs o rest) (hv : o.value = 9) (hbad : s.stationState = .configBad) :
    ∃ t, exec .takeReports s = .next t ∧ s.answered o rest .refused (some .notConfigured) [] t ∧ s.trunk.unchanged t.trunk := by
  have hrow : o.row = some .takeReports := Order.row_of_value hv nofun nofun
  have refused : ({ s with orderQueue := rest } : State).carryOut o = ({ s with orderQueue := rest } : State).refuse .notConfigured o :=
    State.carryOut_unconfigured hbad (by omega) (by omega)
  have empty : o.refusedPayload s.freeUsed = [] := by
    unfold Order.refusedPayload
    rw [hrow]
    rfl
  refine ⟨_, exec_order (row := .takeReports) h hrow, ?_, ?_⟩
  · rw [refused]
    refine ⟨rfl, ?_⟩
    show s.replyQueue ++ [o.reply (.refused .notConfigured (o.refusedPayload s.freeUsed))] = _
    rw [empty]
    rfl
  · rw [refused]
    exact s.trunk.unchanged_refl

/-- Settles O53: the oldest reports leave the queue and stand in the payload, eleven bytes each. -/
theorem takeReportsDrains : Obligations.TakeReportsDrains := by
  intro s o rest h hv hk h1 h4
  refine ⟨fun hbad => ?_, exec_takeReports_unconfigured h hv⟩
  obtain ⟨answered, same⟩ := s.answeredWith_answered o rest { s.trunk with reports := s.trunk.reports.drop o.operand }
    (.done (reportsPayload (s.trunk.reports.take o.operand)))
  refine ⟨_, _, exec_takeReports h hv hk h1 h4 hbad, answered, same, rfl, ?_, ?_, ?_, fun j r hj hr => ?_⟩
  · show s.trunk.reports = s.trunk.reports.take (min o.operand s.trunk.reports.length) ++ s.trunk.reports.drop o.operand
    rw [← List.take_eq_take_min, List.take_append_drop]
  · show (s.trunk.reports.drop o.operand).length = _
    rw [List.length_drop]
    omega
  · show (reportsPayload (s.trunk.reports.take o.operand)).length = _
    rw [reportsPayload_length, List.length_take]
  · have entry : (s.trunk.reports.take o.operand)[j]? = some r := by rw [List.getElem?_take, if_pos hj, hr]
    have bytes : ((reportsPayload (s.trunk.reports.take o.operand)).drop (11 * j)).take 11 = r.bytes := reportsPayload_entry entry
    exact ⟨bytes, bytes ▸ r.bytes_laidOutAs⟩

end Sys2Proof.Machine

end

section
/-! QUERY CIRCUIT: the two segments of a circuit record (R150, R159, R160, Tables 12.8 and 12.9). -/

namespace Sys2Proof.Machine

variable {s : State} {t : Trunk} {o : Order} {rest : List Order} {r : Circuit} {c k : Nat} {bs xs : List Byte}

/-! ## Ranges of the items shown -/

theorem circuitStateCode_lt (st : CircuitState) : circuitStateCode st < 256 := by cases st <;> decide

theorem phaseCode_lt (ph : Phase) : phaseCode ph < 256 := by cases ph <;> decide

theorem lastKindCode_lt (k : LastKind) : lastKindCode k < 256 := by rcases k with k | k <;> cases k <;> decide

theorem Candidates.size_le {a : Candidates} (h : a.inRange) : a.size ≤ 449 := by
  cases a with
  | whole => exact le_rfl
  | positions ks =>
    obtain ⟨-, rising, below⟩ := h
    have sub : ks ⊆ List.range 449 := fun k hk => List.mem_range.mpr (below k hk)
    exact (rising.nodup.subperm sub).length_le.trans_eq List.length_range

/-! ## A flag of a flag byte that stands in a segment -/

theorem flag_of_standsAt {i j : Nat} {fs : List Bool} (h : standsAt bs i [flagByte fs]) (hj : j < 8) :
    (byteAt bs i).getLsbD j = fs.getD (7 - j) false := by rw [byteAt_of_standsAt h, flagByte_getLsbD hj]

theorem bit_of_standsAt {i : Nat} {fs : List Bool} (h : standsAt bs i [byteOf (bits fs)]) (hlen : fs.length ≤ 8) (j : Nat) :
    (byteAt bs i).getLsbD j = fs.getD j false := by rw [byteAt_of_standsAt h, byteOf_bits_getLsbD hlen]

/-! ## A layout, part by part -/

/-- `bs` is the parts one after another, whose lengths are `ls`. -/
structure laidOut (parts : List (List Byte)) (ls : List Nat) (bs : List Byte) : Prop where
  bytes : bs = parts.flatten
  lengths : parts.map List.length = ls

variable {parts : List (List Byte)} {ls : List Nat} {ys : List Byte}

theorem laidOut.length (h : laidOut parts ls bs) : bs.length = ls.sum := by rw [h.bytes, List.length_flatten, h.lengths]

theorem standsAt_flatten : ∀ (parts : List (List Byte)) (j : Nat) (ys : List Byte), parts[j]? = some ys →
    standsAt parts.flatten ((parts.map List.length).take j).sum ys
  | p :: ps, 0, ys, h => by
    obtain rfl : p = ys := Option.some.inj h
    exact standsAt_zero
  | p :: ps, j + 1, ys, h => standsAt_append_right (standsAt_flatten ps j ys h) rfl

theorem standsAt_within {i k j : Nat} (h : standsAt bs i ys) (sub : standsAt ys k xs) (hj : i + k = j) : standsAt bs j xs := by
  have le : xs.length ≤ ys.length - k := by
    rw [← sub, List.length_take, List.length_drop]
    omega
  unfold standsAt at *
  subst hj
  rw [← h, List.drop_take, List.drop_drop, List.take_take, min_eq_left le] at sub
  exact sub

/-- A part stands behind the parts before it. -/
theorem laidOut.part {i j : Nat} (h : laidOut parts ls bs) (part : parts[j]? = some xs)
    (place : (ls.take j).sum = i := by decide) : standsAt bs i xs := by
  rw [h.bytes, ← place, ← h.lengths]
  exact standsAt_flatten parts j xs part

/-- What stands within a part. -/
theorem laidOut.within {i j k : Nat} (h : laidOut parts ls bs) (part : parts[j]? = some ys) (sub : standsAt ys k xs)
    (place : (ls.take j).sum + k = i := by decide) : standsAt bs i xs :=
  standsAt_within (h.part part rfl) sub place

/-! ## Segment 0 -/

/-- The binding of Table 12.8, zeros where there is none. -/
def bindingBytes (b : Option Binding) : List Byte :=
  [byteOf ((b.map Binding.window).getD 0), byteOf ((b.map Binding.peer).getD 0), byteOf ((b.map Binding.circuit).getD 0)]

/-- The parts of segment 0 in order. -/
def Circuit.parts0 (c : Nat) (r : Circuit) : List (List Byte) :=
  [circuitPayload c,
   presenceBytes 2
    [r.binding.isSome, r.align.obase.isSome, r.lowestOffset.isSome, r.align.offset.isSome, r.splice.playOffset.isSome,
     r.splice.deficit.isSome, r.splice.lastKind.isSome, r.leadStats.1.isSome, r.leadStats.2.isSome],
   [byteOf (circuitStateCode r.state)], bindingBytes r.binding,
   [byteOf (bits [r.legacyReleased, r.deferredRevert])], [byteOf ((r.peerPhase.map phaseCode).getD 0)],
   optBytes 2 (r.align.obase.map BitVec.toNat), be 2 r.align.candidates.size,
   optBytes 2 (r.lowestOffset.map BitVec.toNat), [byteOf r.align.contributing],
   optBytes 2 (r.align.offset.map BitVec.toNat), [byteOf r.align.verifyMiss],
   be 2 r.align.idleQualify, be 2 r.counters.mismatches,
   optBytes 2 (r.splice.playOffset.map BitVec.toNat), optBytes 1 r.splice.deficit,
   optBytes 1 (r.splice.lastKind.map lastKindCode), [byteOf r.splice.flags.bits], be 2 r.splice.quietRun,
   optBytes 2 (r.leadStats.1.map signed16), optBytes 2 (r.leadStats.2.map signed16)]

/-- The lengths of the parts of segment 0. -/
def lengths0 : List Nat := [2, 2, 1, 3, 1, 1, 2, 2, 2, 1, 2, 1, 2, 2, 2, 1, 1, 1, 2, 2, 2]

theorem Circuit.segment0_bytes (r : Circuit) (c : Nat) : circuitPayload c ++ r.segment0 = (r.parts0 c).flatten := by
  unfold Circuit.segment0 Circuit.parts0 bindingBytes
  cases r.binding <;> simp only [List.flatten_cons, List.flatten_nil, List.append_assoc, List.append_nil, List.cons_append,
    List.nil_append] <;> rfl

theorem Trunk.laidOut0 (t : Trunk) (c : Nat) : laidOut ((t.circuit c).parts0 c) lengths0 (t.circuitSegment c 0) :=
  ⟨(t.circuit c).segment0_bytes c, rfl⟩

/-- The presence bits of Table 12.8. -/
theorem Circuit.presence0 (h : laidOut (r.parts0 c) lengths0 bs) :
    (byteAt bs 2).getLsbD 7 = r.binding.isSome ∧ (byteAt bs 2).getLsbD 6 = r.align.obase.isSome ∧
      (byteAt bs 2).getLsbD 5 = r.lowestOffset.isSome ∧ (byteAt bs 2).getLsbD 4 = r.align.offset.isSome ∧
      (byteAt bs 2).getLsbD 3 = r.splice.playOffset.isSome ∧
      (byteAt bs 2).getLsbD 2 = r.splice.deficit.isSome ∧ (byteAt bs 2).getLsbD 1 = r.splice.lastKind.isSome ∧
      (byteAt bs 2).getLsbD 0 = r.leadStats.1.isSome ∧ (byteAt bs 3).getLsbD 7 = r.leadStats.2.isSome ∧
      ∀ i, i < 7 → (byteAt bs 3).getLsbD i = false := by
  have first : standsAt bs 2 [flagByte [r.binding.isSome, r.align.obase.isSome, r.lowestOffset.isSome,
    r.align.offset.isSome, r.splice.playOffset.isSome, r.splice.deficit.isSome, r.splice.lastKind.isSome,
    r.leadStats.1.isSome, r.leadStats.2.isSome]] := h.within (j := 1) (k := 0) rfl rfl
  have second : standsAt bs 3 [flagByte [r.leadStats.2.isSome]] := h.within (j := 1) (k := 1) rfl rfl
  refine ⟨flag_of_standsAt first (by decide), flag_of_standsAt first (by decide), flag_of_standsAt first (by decide),
    flag_of_standsAt first (by decide), flag_of_standsAt first (by decide), flag_of_standsAt first (by decide),
    flag_of_standsAt first (by decide), flag_of_standsAt first (by decide), flag_of_standsAt second (by decide), fun i hi => ?_⟩
  obtain ⟨m, hm⟩ : ∃ m, 7 - i = m + 1 := ⟨6 - i, by omega⟩
  rw [flag_of_standsAt second (by omega), hm]
  rfl

/-- The flag bytes of Table 12.8. -/
theorem Circuit.flags0 (h : laidOut (r.parts0 c) lengths0 bs) :
    ((byteAt bs 8).getLsbD 0 = r.legacyReleased ∧ (byteAt bs 8).getLsbD 1 = r.deferredRevert ∧
        ∀ i, 2 ≤ i → (byteAt bs 8).getLsbD i = false) ∧
      (byteAt bs 28).getLsbD 0 = r.splice.flags.lostActivity ∧ (byteAt bs 28).getLsbD 1 = r.splice.flags.blind ∧
      (byteAt bs 28).getLsbD 2 = r.splice.flags.activityGap ∧ ∀ i, 3 ≤ i → (byteAt bs 28).getLsbD i = false := by
  have flags := bit_of_standsAt (h.part (j := 4) (i := 8) rfl) (by exact Nat.le_add_left 2 6)
  have splice := bit_of_standsAt (fs := [r.splice.flags.lostActivity, r.splice.flags.blind, r.splice.flags.activityGap])
    (h.part (j := 17) (i := 28) rfl) (by exact Nat.le_add_left 3 5)
  refine ⟨⟨flags 0, flags 1, fun i hi => ?_⟩, splice 0, splice 1, splice 2, fun i hi => ?_⟩
  · rw [flags i]
    exact List.getD_eq_default _ _ hi
  · rw [splice i]
    exact List.getD_eq_default _ _ hi

theorem Circuit.binding0 (h : laidOut (r.parts0 c) lengths0 bs) (bound : ∀ b, r.binding = some b → b.inRange) :
    (∀ b, r.binding = some b →
        (byteAt bs 5).toNat = b.window ∧ (byteAt bs 6).toNat = b.peer ∧ (byteAt bs 7).toNat = b.circuit) ∧
      (r.binding = none → byteAt bs 5 = 0 ∧ byteAt bs 6 = 0 ∧ byteAt bs 7 = 0) := by
  have window : standsAt bs 5 [byteOf ((r.binding.map Binding.window).getD 0)] := h.within (j := 3) (k := 0) rfl rfl
  have peer : standsAt bs 6 [byteOf ((r.binding.map Binding.peer).getD 0)] := h.within (j := 3) (k := 1) rfl rfl
  have circuit : standsAt bs 7 [byteOf ((r.binding.map Binding.circuit).getD 0)] := h.within (j := 3) (k := 2) rfl rfl
  constructor
  · intro b hb
    obtain ⟨hw, hp, hc⟩ := bound b hb
    rw [hb] at window peer circuit
    exact ⟨byteAt_byteOf window (Nat.lt_of_le_of_lt hw (by decide)), byteAt_byteOf peer (Nat.lt_of_le_of_lt hp (by decide)),
      byteAt_byteOf circuit (Nat.lt_of_le_of_lt hc (by decide))⟩
  · intro hb
    rw [hb] at window peer circuit
    exact ⟨byteAt_of_standsAt window, byteAt_of_standsAt peer, byteAt_of_standsAt circuit⟩

/-! ## Places in a list -/

theorem placeIn_isSome (c : Nat) (cs : List Nat) : (placeIn c cs).isSome = decide (c ∈ cs) := by
  unfold placeIn
  rw [Option.isSome_map, Bool.eq_iff_iff, List.isSome_idxOf?, decide_eq_true_iff]

theorem placeIn_of_split {before after : List Nat} (h : c ∉ before) : placeIn c (before ++ c :: after) = some (before.length + 1) := by
  have index : (before ++ c :: after).idxOf? c = some before.length := by
    rw [List.idxOf?_eq_some_iff]
    refine ⟨by rw [List.length_append, List.length_cons]; omega, ?_, fun j hj hc => h ?_⟩
    · rw [List.getElem_append_right le_rfl]
      simp
    · rw [List.getElem_append_left hj] at hc
      exact hc ▸ List.getElem_mem hj
  unfold placeIn
  rw [index]
  rfl

theorem placeIn_of_notMem {cs : List Nat} (h : c ∉ cs) : placeIn c cs = none := by
  unfold placeIn
  rw [List.idxOf?_eq_none_iff.mpr h]
  rfl

theorem Trunk.rowPlace_of_row (h : (t.circuit c).calendarRow = some k) : t.rowPlace c = placeIn c (t.row k) := by
  unfold Trunk.rowPlace
  rw [h]

/-! ## The record that is shown -/

theorem Trunk.recordOf_settle (t : Trunk) (c : Nat) :
    (t.recordOf c).bind FallbackRecord.settle? = (t.liveOf c).map LiveFields.settle := by
  unfold Trunk.liveOf
  cases t.recordOf c <;> rfl

theorem Trunk.recordOf_hold (t : Trunk) (c : Nat) :
    (t.recordOf c).bind FallbackRecord.hold? = (t.liveOf c).bind LiveFields.holdShown := by
  unfold Trunk.liveOf
  cases t.recordOf c <;> rfl

variable {l : LiveFields} {h : Nat}

/-- A hold that has reached 0 is shown as absent (log 29). -/
theorem LiveFields.holdShown_isSome_iff (l : LiveFields) : l.holdShown.isSome = true ↔ ∃ h, l.hold = some h ∧ 0 < h := by
  unfold LiveFields.holdShown
  rcases l.hold with _ | _ | h
  · simp
  · simp
  · simp

theorem LiveFields.holdShown_of_none (hl : l.hold = none) : l.holdShown = none := by
  unfold LiveFields.holdShown
  rw [hl]

theorem LiveFields.holdShown_getD (hl : l.hold = some h) : l.holdShown.getD 0 = h := by
  unfold LiveFields.holdShown
  rw [hl]
  cases h <;> rfl

/-- The hold field of a LIVE record: its value, and 0 where the hold has ended. -/
theorem fieldAt_hold {i : Nat} (hs : standsAt bs i (optBytes 2 l.holdShown)) :
    (∀ h, l.hold = some h → h ≤ 2000 → fieldAt bs i 2 = h) ∧ (l.hold = none → fieldAt bs i 2 = 0) := by
  constructor
  · intro h hl hle
    unfold optBytes at hs
    rw [LiveFields.holdShown_getD hl] at hs
    exact fieldAt_of_lt hs (by omega)
  · intro hl
    exact fieldAt_none hs (LiveFields.holdShown_of_none hl)

/-! ## Segment 1 -/

/-- The parts of segment 1 in order. -/
def Trunk.parts1 (c : Nat) (t : Trunk) : List (List Byte) :=
  [circuitPayload c,
   presenceBytes 1
    [(t.circuit c).calendarRow.isSome, (t.rowPlace c).isSome, (placeIn c t.waitQueue).isSome, (t.recordOf c).isSome,
     ((t.recordOf c).bind FallbackRecord.settle?).isSome, ((t.recordOf c).bind FallbackRecord.hold?).isSome],
   [byteOf ((t.circuit c).copperCode.toNat * 16 + (t.circuit c).fibreCode.toNat), byteOf (t.circuit c).deliveredCode.toNat,
    byteOf (((t.circuit c).guard.map Guard.left).getD 0)],
   be 2 (t.circuit c).stateTimer, be 2 (t.circuit c).silence, [byteOf (t.circuit c).releaseCells],
   optBytes 1 (t.circuit c).calendarRow, optBytes 1 (t.rowPlace c), optBytes 1 (placeIn c t.waitQueue),
   optBytes 1 ((t.recordOf c).map FallbackRecord.statusCode), optBytes 3 ((t.recordOf c).bind FallbackRecord.settle?),
   optBytes 2 ((t.recordOf c).bind FallbackRecord.hold?),
   be 2 (t.circuit c).counters.received, be 2 (t.circuit c).counters.late, be 2 (t.circuit c).counters.early,
   be 2 (t.circuit c).counters.concealed, be 2 (t.circuit c).counters.mismatches, be 2 (t.circuit c).counters.fills]

/-- The lengths of the parts of segment 1. -/
def lengths1 : List Nat := [2, 1, 3, 2, 2, 1, 1, 1, 1, 1, 3, 2, 2, 2, 2, 2, 2, 2]

theorem Trunk.segment1_bytes (t : Trunk) (c : Nat) : circuitPayload c ++ t.segment1 c = (t.parts1 c).flatten := by
  unfold Trunk.segment1 Trunk.parts1
  simp only [List.flatten_cons, List.flatten_nil, List.append_assoc, List.append_nil, List.cons_append, List.nil_append]

theorem Trunk.laidOut1 (t : Trunk) (c : Nat) : laidOut (t.parts1 c) lengths1 (t.circuitSegment c 1) := ⟨t.segment1_bytes c, rfl⟩

theorem Trunk.presence1 (h : laidOut (t.parts1 c) lengths1 bs) :
    (byteAt bs 2).getLsbD 7 = (t.circuit c).calendarRow.isSome ∧
      (byteAt bs 2).getLsbD 6 = (t.rowPlace c).isSome ∧
      (byteAt bs 2).getLsbD 5 = decide (c ∈ t.waitQueue) ∧
      (byteAt bs 2).getLsbD 4 = (t.recordOf c).isSome ∧
      (byteAt bs 2).getLsbD 3 = (t.liveOf c).isSome ∧
      ((byteAt bs 2).getLsbD 2 = true ↔ ∃ l h, t.liveOf c = some l ∧ l.hold = some h ∧ 0 < h) ∧
      (byteAt bs 2).getLsbD 1 = false ∧ (byteAt bs 2).getLsbD 0 = false := by
  have first : standsAt bs 2 [flagByte [(t.circuit c).calendarRow.isSome, (t.rowPlace c).isSome,
    (placeIn c t.waitQueue).isSome, (t.recordOf c).isSome, ((t.recordOf c).bind FallbackRecord.settle?).isSome,
    ((t.recordOf c).bind FallbackRecord.hold?).isSome]] := h.part (j := 1) rfl
  rw [placeIn_isSome, t.recordOf_settle, t.recordOf_hold] at first
  refine ⟨flag_of_standsAt first (by decide), flag_of_standsAt first (by decide), flag_of_standsAt first (by decide),
    flag_of_standsAt first (by decide), ?_, ?_, flag_of_standsAt first (by decide), flag_of_standsAt first (by decide)⟩
  · exact (flag_of_standsAt first (by decide)).trans Option.isSome_map
  · rw [flag_of_standsAt first (by decide)]
    show ((t.liveOf c).bind LiveFields.holdShown).isSome = true ↔ _
    cases t.liveOf c with
    | none => simp
    | some l => simpa using l.holdShown_isSome_iff

/-- The record items of Table 12.9. -/
theorem Trunk.record1 (h : laidOut (t.parts1 c) lengths1 bs) :
    (∀ f, t.recordOf c = some f → (byteAt bs 14).toNat = if f.live.isSome then 1 else 0) ∧
      (∀ l, t.liveOf c = some l → l.settle ≤ 120000 → fieldAt bs 15 3 = l.settle) ∧
      (∀ l h, t.liveOf c = some l → l.hold = some h → h ≤ 2000 → fieldAt bs 18 2 = h) ∧
      (t.recordOf c = none → byteAt bs 14 = 0) ∧
      (t.liveOf c = none → fieldAt bs 15 3 = 0 ∧ fieldAt bs 18 2 = 0) ∧
      ∀ l, t.liveOf c = some l → l.hold = none → fieldAt bs 18 2 = 0 := by
  have status : standsAt bs 14 (optBytes 1 ((t.recordOf c).map FallbackRecord.statusCode)) := h.part (j := 9) rfl
  have settle : standsAt bs 15 (optBytes 3 ((t.recordOf c).bind FallbackRecord.settle?)) := h.part (j := 10) rfl
  have hold : standsAt bs 18 (optBytes 2 ((t.recordOf c).bind FallbackRecord.hold?)) := h.part (j := 11) rfl
  rw [t.recordOf_settle] at settle
  rw [t.recordOf_hold] at hold
  refine ⟨fun f hf => ?_, fun l hl hle => ?_, fun l n hl => ?_, fun hf => ?_, fun hl => ⟨?_, ?_⟩, fun l hl => ?_⟩
  · refine byteAt_some status (congrArg (Option.map FallbackRecord.statusCode) hf) ?_
    split <;> decide
  · exact fieldAt_some settle (congrArg (Option.map LiveFields.settle) hl) (by omega)
  · rw [hl] at hold
    exact (fieldAt_hold hold).1 n
  · exact byteAt_none status (congrArg (Option.map FallbackRecord.statusCode) hf)
  · exact fieldAt_none settle (congrArg (Option.map LiveFields.settle) hl)
  · exact fieldAt_none hold (congrArg (Option.bind · LiveFields.holdShown) hl)
  · rw [hl] at hold
    exact (fieldAt_hold hold).2

/-- The calendar and queue items of Table 12.9. -/
theorem Trunk.places1 (h : laidOut (t.parts1 c) lengths1 bs) (hrow : ∀ k, (t.circuit c).calendarRow = some k → k < 40) :
    (∀ k, (t.circuit c).calendarRow = some k → (byteAt bs 11).toNat = k) ∧
      (∀ k before after, (t.circuit c).calendarRow = some k → t.row k = before ++ c :: after → c ∉ before → before.length < 6 →
        (byteAt bs 12).toNat = before.length + 1) ∧
      (∀ before after, t.waitQueue = before ++ c :: after → c ∉ before → before.length < 240 →
        (byteAt bs 13).toNat = before.length + 1) ∧
      ((t.circuit c).calendarRow = none → byteAt bs 11 = 0) ∧ (t.rowPlace c = none → byteAt bs 12 = 0) ∧
      (c ∉ t.waitQueue → byteAt bs 13 = 0) := by
  have row : standsAt bs 11 (optBytes 1 (t.circuit c).calendarRow) := h.part (j := 6) rfl
  have place : standsAt bs 12 (optBytes 1 (t.rowPlace c)) := h.part (j := 7) rfl
  have queued : standsAt bs 13 (optBytes 1 (placeIn c t.waitQueue)) := h.part (j := 8) rfl
  refine ⟨fun k hk => byteAt_some row hk (Nat.lt_trans (hrow k hk) (by decide)), fun k before after hk hsplit hnot hlt => ?_,
    fun before after hsplit hnot hlt => ?_, byteAt_none row, byteAt_none place, fun hnot => byteAt_none queued (placeIn_of_notMem hnot)⟩
  · rw [Trunk.rowPlace_of_row hk, hsplit] at place
    exact byteAt_some place (placeIn_of_split hnot) (by omega)
  · rw [hsplit] at queued
    exact byteAt_some queued (placeIn_of_split hnot) (by omega)

/-! ## The order -/

theorem exec_queryCircuit (h : s.headIs o rest) (hv : o.value = 7) (hk : o.kind = 1) (hseg : o.segment ≤ 1)
    (hbad : s.stationState ≠ .configBad) :
    exec .queryCircuit s = .next (s.answeredWith o rest s.trunk
      ⟨if (s.circuit o.operand).state = .vacant then .refused else .done,
        if (s.circuit o.operand).state = .vacant then some .notBound else none, s.trunk.circuitSegment o.operand o.segment⟩) := by
  have ok : o.operandOk .queryCircuit = true := by
    unfold Order.operandOk
    simp [hk, hseg]
  have done : ({ s with orderQueue := rest } : State).act .queryCircuit o = ({ s with orderQueue := rest },
      ⟨if (s.circuit o.operand).state = .vacant then .refused else .done,
        if (s.circuit o.operand).state = .vacant then some .notBound else none,
        s.trunk.circuitSegment o.operand o.segment⟩) := by
    show (if (s.circuit o.operand).state = .vacant then _ else _) = _
    split <;> rfl
  exact exec_order_of_ok (row := .queryCircuit) h (Order.row_of_value hv nofun nofun) hbad ok done

theorem State.answeredWith_ownTrunk (o : Order) (rest : List Order) (a : Answer) (s : State) :
    { s.answeredWith o rest s.trunk a with orderQueue := s.orderQueue, replyQueue := s.replyQueue } = s := rfl

end Sys2Proof.Machine

end

section
/-! QUERY CIRCUIT and QUERY STATION: the fields behind the presence bits (R150, R151, Tables 12.6 and 12.8 to 12.12). -/

namespace Sys2Proof.Machine

variable {s : State} {t : Trunk} {o : Order} {rest : List Order} {r : Circuit} {c i j : Nat} {bs : List Byte}

/-! ## Optional items of two bytes -/

theorem wordItem {item : Option Word} (h : standsAt bs i (optBytes 2 (item.map BitVec.toNat))) :
    (∀ x, item = some x → fieldAt bs i 2 = x.toNat) ∧ (item = none → fieldAt bs i 2 = 0) :=
  ⟨fun _ hx => fieldAt_someWord h hx, fun hx => fieldAt_none h (congrArg (Option.map BitVec.toNat) hx)⟩

theorem leadItem {item : Option Int} (h : standsAt bs i (optBytes 2 (item.map signed16))) :
    (∀ m, item = some m → fieldAt bs i 2 = (BitVec.ofInt 16 m).toNat) ∧ (item = none → fieldAt bs i 2 = 0) :=
  ⟨fun m hm => fieldAt_some h (congrArg (Option.map signed16) hm) (BitVec.ofInt 16 m).isLt,
    fun hm => fieldAt_none h (congrArg (Option.map signed16) hm)⟩

theorem fieldAt_be_two {v : Nat} (h : standsAt bs i (be 2 v)) (hv : v ≤ 65535) : fieldAt bs i 2 = v :=
  fieldAt_of_lt h (Nat.lt_of_le_of_lt hv (by norm_num))

/-! ## Supervision and guard of segment 1 -/

theorem Trunk.codes1 (h : laidOut (t.parts1 c) lengths1 bs) (hguard : ∀ g, (t.circuit c).guard = some g → g.left ≤ 40) :
    (byteAt bs 3).toNat = (t.circuit c).copperCode.toNat * 16 + (t.circuit c).fibreCode.toNat ∧
      (byteAt bs 4).toNat = (t.circuit c).deliveredCode.toNat ∧
      (byteAt bs 5).toNat = ((t.circuit c).guard.map Guard.left).getD 0 := by
  have copper := (t.circuit c).copperCode.isLt
  have fibre := (t.circuit c).fibreCode.isLt
  have delivered := (t.circuit c).deliveredCode.isLt
  refine ⟨byteAt_byteOf (h.within (j := 2) (k := 0) rfl rfl) (by omega),
    byteAt_byteOf (h.within (j := 2) (k := 1) rfl rfl) (by omega), byteAt_byteOf (h.within (j := 2) (k := 2) rfl rfl) ?_⟩
  cases hg : (t.circuit c).guard with
  | none => decide
  | some g =>
    have le := hguard g hg
    show g.left < 256
    omega

/-! ## QUERY STATION: the summary -/

/-- The parts of Table 12.10 in order. -/
def State.summaryParts (s : State) : List (List Byte) :=
  [presenceBytes 1 [s.configFault.isSome], [byteOf (stationCode s.stage)], [byteOf (s.stationNo.getD 0)],
   [byteOf (causeCode s.startCause)], be 6 s.cycleCount, optBytes 1 (s.configFault.map configFaultCode),
   [byteOf s.clampCount], be 2 (clampedField s.clampedItems), [byteOf s.trunk.placesHeld], [byteOf s.trunk.fullRows],
   [byteOf s.presentPeers], [byteOf s.matchedWindows], [byteOf s.trunk.reports.length], [byteOf s.trunk.reportOverflow],
   [byteOf s.orderOverflow]]

/-- The lengths of the parts of Table 12.10. -/
def summaryLengths : List Nat := [1, 1, 1, 1, 6, 1, 1, 2, 1, 1, 1, 1, 1, 1, 1]

theorem State.laidOutSummary (s : State) : laidOut s.summaryParts summaryLengths s.summary := by
  refine ⟨?_, rfl⟩
  unfold State.summary State.summaryParts
  simp only [List.flatten_cons, List.flatten_nil, List.append_assoc, List.append_nil, List.cons_append, List.nil_append]

theorem stationCode_lt (st : StationState) : stationCode st < 256 := by cases st <;> decide

theorem causeCode_lt (k : StartCause) : causeCode k < 256 := by cases k <;> decide

theorem configFaultCode_lt (e : ConfigFault) : configFaultCode e < 256 := by cases e <;> decide

theorem peerStateCode_lt (st : PeerState) : peerStateCode st < 256 := by cases st <;> decide

theorem Trunk.placesHeld_le (h : ∀ k, (t.row k).length ≤ 6) : t.placesHeld ≤ 240 := by
  have bound := List.sum_le_card_nsmul ((List.range Config.calendarRows).map (fun k => (t.row k).length)) 6 (by
    intro n hn
    obtain ⟨k, -, rfl⟩ := List.mem_map.mp hn
    exact h k)
  rwa [List.length_map, List.length_range] at bound

theorem Trunk.fullRows_le (t : Trunk) : t.fullRows ≤ 40 := (List.length_filter_le _ _).trans_eq List.length_range

theorem State.presentPeers_le (s : State) : s.presentPeers ≤ 15 := (List.length_filter_le _ _).trans_eq List.length_range

theorem State.matchedWindows_le (h : s.windows.length = 8) : s.matchedWindows ≤ 8 := (List.length_filter_le _ _).trans_eq h

/-! ## QUERY STATION: the windows and the peers -/

theorem Window.bytes_length (w : Window) : w.bytes.length = 6 := rfl

theorem digestBytes_length (d : DigestEntry) : (digestBytes d).length = 4 := rfl

/-- The digest of Table 12.11, zeros where there is none. -/
def peerDigestBytes (ds : Option (List DigestEntry)) : List Byte :=
  match ds with
  | some ds => (ds.map digestBytes).flatten
  | none => List.replicate 32 0

theorem peerDigestBytes_length {ds : Option (List DigestEntry)} (h : ∀ d, ds = some d → d.length = 8) :
    (peerDigestBytes ds).length = 32 := by
  cases ds with
  | none => rfl
  | some ds =>
    show (ds.map digestBytes).flatten.length = 32
    rw [flatten_length_of_forall digestBytes_length, h ds rfl]

/-- The parts of Table 12.11 in order. -/
def State.peerParts (s : State) (p : Nat) : List (List Byte) :=
  [presenceBytes 1 [(s.peer p).cycles.isSome, (s.peer p).digest.isSome], [byteOf (peerStateCode (s.peer p).state)],
   [byteOf (s.peer p).miss], optBytes 6 (s.peer p).cycles, [byteOf (s.peer p).unbound], [byteOf (s.peer p).headerErrors],
   peerDigestBytes (s.peer p).digest]

/-- The lengths of the parts of Table 12.11. -/
def peerLengths : List Nat := [1, 1, 1, 6, 1, 1, 32]

theorem State.laidOutPeer {p : Nat} (h : ∀ ds, (s.peer p).digest = some ds → ds.length = 8) :
    laidOut (s.peerParts p) peerLengths (s.peerPart p) := by
  constructor
  · unfold State.peerPart State.peerParts peerDigestBytes
    dsimp only
    cases (s.peer p).digest <;> simp only [List.flatten_cons, List.flatten_nil, List.append_assoc, List.append_nil,
      List.cons_append, List.nil_append]
  · unfold State.peerParts
    rw [List.map_cons, List.map_cons, List.map_cons, List.map_cons, List.map_cons, List.map_cons, List.map_cons,
      peerDigestBytes_length h]
    rfl

/-! ## QUERY STATION: the fallback list -/

variable {ps : List (Option FallbackRecord)} {p : Option FallbackRecord} {f : FallbackRecord} {l : LiveFields}

/-- A segment of Table 12.12: the presence bits, the items before the record places, and the places. -/
def fallbackLayout (flags : List Bool) (items : List Byte) (ps : List (Option FallbackRecord)) : List Byte :=
  presenceBytes 2 (flags ++ (ps.map recordFlags).flatten) ++ (items ++ (ps.map recordBytes).flatten)

/-- The items of segment 0 before the record places. -/
def State.fallbackItems (s : State) : List Byte :=
  [byteOf (policyCode s.settings.policy), if s.paused then 1 else 0, byteOf s.trunk.fallback.length,
   byteOf s.trunk.waitQueue.length] ++ optBytes 1 s.trunk.waitQueue.head?

theorem State.fallbackPart0_eq (s : State) :
    s.fallbackPart0 = fallbackLayout [!s.trunk.waitQueue.isEmpty] s.fallbackItems (s.trunk.recordPlaces 0) := by
  unfold State.fallbackPart0 fallbackLayout State.fallbackItems
  simp only [List.append_assoc, List.cons_append, List.nil_append]

theorem State.fallbackPart1_eq (s : State) : s.fallbackPart1 = fallbackLayout [] [] (s.trunk.recordPlaces 4) := rfl

theorem recordBytes_length (p : Option FallbackRecord) : (recordBytes p).length = 9 := by cases p <;> rfl

theorem recordFlags_length (p : Option FallbackRecord) : (recordFlags p).length = 3 := by cases p <;> rfl

theorem recordFlags_flatten_length : ∀ ps : List (Option FallbackRecord), (ps.map recordFlags).flatten.length = 3 * ps.length
  | [] => rfl
  | p :: ps => by
    rw [List.map_cons, List.flatten_cons, List.length_append, recordFlags_length, recordFlags_flatten_length ps, List.length_cons]
    omega

/-- The three presence bits of the `j`-th record place. -/
theorem recordFlags_getD {m : Nat} (hm : m < 3) : ∀ (ps : List (Option FallbackRecord)) (j : Nat) (p : Option FallbackRecord),
    ps[j]? = some p → (ps.map recordFlags).flatten.getD (3 * j + m) false = (recordFlags p).getD m false
  | q :: ps, 0, p, h => by
    obtain rfl : q = p := Option.some.inj h
    rw [List.map_cons, List.flatten_cons, List.getD_append _ _ _ _ (by rw [recordFlags_length]; omega), Nat.mul_zero, Nat.zero_add]
  | q :: ps, j + 1, p, h => by
    have behind : 3 * (j + 1) + m - (recordFlags q).length = 3 * j + m := by rw [recordFlags_length]; omega
    rw [List.map_cons, List.flatten_cons, List.getD_append_right _ _ _ _ (by rw [recordFlags_length]; omega), behind]
    exact recordFlags_getD hm ps j p h

theorem fallbackLayout_length (flags : List Bool) (items : List Byte) (ps : List (Option FallbackRecord)) :
    (fallbackLayout flags items ps).length = 2 + items.length + 9 * ps.length := by
  unfold fallbackLayout
  rw [List.length_append, List.length_append, presenceBytes_length, flatten_length_of_forall recordBytes_length, Nat.add_assoc]

/-- The record place `j` stands behind the items and the places before it. -/
theorem fallbackLayout_record {flags : List Bool} {items : List Byte} (h : ps[j]? = some p) {pos : Nat}
    (hpos : pos = 2 + items.length + 9 * j) : standsAt (fallbackLayout flags items ps) pos (recordBytes p) := by
  have place := flatten_standsAt recordBytes_length ps j p h
  refine standsAt_append_right (standsAt_append_right place rfl) ?_
  rw [presenceBytes_length, hpos]
  omega

theorem fallbackLayout_presence (flags : List Bool) (items : List Byte) (h : ps[j]? = some p) {m : Nat} (hm : m < 3)
    (hi : i = flags.length + 3 * j) (h16 : i + m < 16) :
    presenceBit (fallbackLayout flags items ps) (i + m) = (recordFlags p).getD m false := by
  unfold fallbackLayout
  rw [presenceBit_presenceBytes h16, List.getD_append_right _ _ _ _ (by omega), ← recordFlags_getD hm ps j p h]
  congr 1
  omega

theorem fallbackLayout_presence_behind (flags : List Bool) (items : List Byte) (h : flags.length + 3 * ps.length ≤ i) (h16 : i < 16) :
    presenceBit (fallbackLayout flags items ps) i = false := by
  unfold fallbackLayout
  rw [presenceBit_presenceBytes h16]
  exact List.getD_eq_default _ _ (by rw [List.length_append, recordFlags_flatten_length]; exact h)

/-! ## A record place -/

theorem recordFlags_live_iff (p : Option FallbackRecord) :
    ((recordFlags p).getD 0 false = true ↔ ∃ f l, p = some f ∧ f.live = some l) ∧
      ((recordFlags p).getD 1 false = true ↔ ∃ f l, p = some f ∧ f.live = some l) ∧
      ((recordFlags p).getD 2 false = true ↔ ∃ f l h, p = some f ∧ f.live = some l ∧ l.hold = some h ∧ 0 < h) := by
  cases p with
  | none => simp [recordFlags]
  | some f =>
    show (f.frame?.isSome = true ↔ _) ∧ (f.settle?.isSome = true ↔ _) ∧ (f.hold?.isSome = true ↔ _)
    unfold FallbackRecord.frame? FallbackRecord.settle? FallbackRecord.hold?
    cases hl : f.live with
    | none => simp [hl]
    | some l =>
      have shown := l.holdShown_isSome_iff
      simp [hl, shown]

theorem recordBytes_pending (h : f.live = none) : standsAt (recordBytes (some f)) 2 (List.replicate 7 0) := by
  unfold recordBytes FallbackRecord.frame? FallbackRecord.settle? FallbackRecord.hold?
  dsimp only
  rw [h]
  rfl

theorem recordBytes_head (h : standsAt bs i (recordBytes (some f))) (hc : f.circuit < 256) :
    (byteAt bs i).toNat = f.circuit ∧ (byteAt bs (i + 1)).toNat = if f.live.isSome then 1 else 0 := by
  refine ⟨byteAt_byteOf (standsAt_within (k := 0) h rfl rfl) hc, byteAt_byteOf (standsAt_within (k := 1) h rfl rfl) ?_⟩
  split <;> decide

theorem recordBytes_live (h : standsAt bs i (recordBytes (some f))) (hl : f.live = some l) :
    fieldAt bs (i + 2) 2 = l.frame.toNat ∧ (l.settle ≤ 120000 → fieldAt bs (i + 4) 3 = l.settle) ∧
      (∀ h, l.hold = some h → h ≤ 2000 → fieldAt bs (i + 7) 2 = h) ∧ (l.hold = none → fieldAt bs (i + 7) 2 = 0) := by
  have frame : standsAt bs (i + 2) (optBytes 2 f.frame?) := standsAt_within (k := 2) h rfl rfl
  have settle : standsAt bs (i + 4) (optBytes 3 f.settle?) := standsAt_within (k := 4) h rfl rfl
  have hold : standsAt bs (i + 7) (optBytes 2 f.hold?) := standsAt_within (k := 7) h rfl rfl
  have shown : f.hold? = l.holdShown := congrArg (Option.bind · LiveFields.holdShown) hl
  rw [shown] at hold
  refine ⟨fieldAt_some frame (congrArg (Option.map (fun l : LiveFields => l.frame.toNat)) hl) l.frame.isLt, fun hle => ?_, fieldAt_hold hold⟩
  exact fieldAt_some settle (congrArg (Option.map LiveFields.settle) hl) (Nat.lt_of_le_of_lt hle (by norm_num))

theorem Trunk.recordPlaces_getElem? (t : Trunk) (n : Nat) (hj : j < 4) : (t.recordPlaces n)[j]? = some t.fallback[n + j]? := by
  unfold Trunk.recordPlaces
  rw [List.getElem?_map, List.getElem?_range hj]
  rfl

/-! ## The order -/

theorem exec_queryStation (h : s.headIs o rest) (hv : o.value = 8) (hk : o.kind = 5)
    (hpart : (o.operand = 0 ∧ o.segment = 0) ∨ (o.operand = 1 ∧ o.segment = 0) ∨ (o.operand = 2 ∧ o.segment ≤ 14) ∨
      (o.operand = 3 ∧ o.segment ≤ 1)) :
    exec .queryStation s = .next (s.answeredWith o rest s.trunk (.done (s.stationSegment o.operand o.segment))) := by
  have hrow : o.row = some .queryStation := Order.row_of_value hv nofun nofun
  have ok : o.operandOk .queryStation = true := by
    rw [Order.queryStationOk_iff]
    rcases hpart with ⟨hp, hs⟩ | ⟨hp, hs⟩ | ⟨hp, hs⟩ | ⟨hp, hs⟩
    all_goals
      rw [hp]
      exact ⟨hk, by decide, by unfold lastSegment; omega⟩
  have carried : ({ s with orderQueue := rest } : State).carryOut o =
      ({ s with orderQueue := rest }, .done (s.stationSegment o.operand o.segment)) := by
    by_cases hbad : s.stationState = .configBad
    · unfold State.carryOut State.carryOutUnconfigured
      rw [if_pos (show ({ s with orderQueue := rest } : State).stationState = .configBad from hbad), hrow]
      exact if_pos ok
    · exact State.carryOut_of_ok (s := { s with orderQueue := rest }) hbad hrow ok
  exact (exec_order (row := .queryStation) h hrow).trans (congrArg (fun d => Host.Outcome.next (s.replied o d)) carried)

end Sys2Proof.Machine

end

section
/-! QUERY CIRCUIT and QUERY STATION settled (R150, R151). -/

namespace Sys2Proof.Machine

variable {s : State} {t : Trunk} {o : Order} {rest : List Order} {r : Circuit} {c i j : Nat} {bs : List Byte}
  {ps : List (Option FallbackRecord)}

/-! ## The record places of a FALLBACK segment -/

/-- The bytes of the `j`-th record place of a segment, by the record that stands there. -/
theorem fallbackLayout_place {flags : List Bool} {items : List Byte} {q : Option FallbackRecord} (h : ps[j]? = some q) {pos : Nat}
    (hpos : pos = 2 + items.length + 9 * j) (hbs : bs = fallbackLayout flags items ps) :
    (q = none → (bs.drop pos).take 9 = List.replicate 9 0) ∧
      ∀ f, q = some f → f.circuit < 256 →
        (byteAt bs pos).toNat = f.circuit ∧ (byteAt bs (pos + 1)).toNat = (if f.live.isSome then 1 else 0) ∧
          (f.live = none → (bs.drop (pos + 2)).take 7 = List.replicate 7 0) ∧
          ∀ l, f.live = some l → fieldAt bs (pos + 2) 2 = l.frame.toNat ∧
            (l.settle ≤ 120000 → fieldAt bs (pos + 4) 3 = l.settle) ∧
            (∀ h, l.hold = some h → h ≤ 2000 → fieldAt bs (pos + 7) 2 = h) ∧ (l.hold = none → fieldAt bs (pos + 7) 2 = 0) := by
  subst hbs
  have place := fallbackLayout_record (flags := flags) h hpos
  refine ⟨fun hq => ?_, fun f hq hc => ?_⟩
  · subst hq
    exact place
  · subst hq
    obtain ⟨circuit, status⟩ := recordBytes_head place hc
    exact ⟨circuit, status, fun hl => standsAt_within place (recordBytes_pending hl) rfl, fun l hl => recordBytes_live place hl⟩

/-- The presence bits of the `j`-th record place of a segment. -/
theorem fallbackLayout_bits {flags : List Bool} {items : List Byte} {q : Option FallbackRecord} (h : ps[j]? = some q)
    (hi : i = flags.length + 3 * j) (h16 : i + 2 < 16) (hbs : bs = fallbackLayout flags items ps) :
    (presenceBit bs i = true ↔ ∃ f l, q = some f ∧ f.live = some l) ∧
      (presenceBit bs (i + 1) = true ↔ ∃ f l, q = some f ∧ f.live = some l) ∧
      (presenceBit bs (i + 2) = true ↔ ∃ f l h, q = some f ∧ f.live = some l ∧ l.hold = some h ∧ 0 < h) := by
  subst hbs
  obtain ⟨first, second, third⟩ := recordFlags_live_iff q
  have bit (m : Nat) (hm : m < 3) := fallbackLayout_presence flags items h hm hi (by omega)
  rw [← bit 0 (by decide)] at first
  rw [← bit 1 (by decide)] at second
  rw [← bit 2 (by decide)] at third
  exact ⟨first, second, third⟩

/-- The layout of the FALLBACK segment an operand names. -/
theorem State.stationSegment_fallback (s : State) {segment : Nat} (h : segment ≤ 1) :
    ∃ flags items, s.stationSegment 3 segment = fallbackLayout flags items (s.trunk.recordPlaces (4 * segment)) ∧
      flags.length = (if segment = 0 then 1 else 0) ∧ 2 + items.length = if segment = 0 then 7 else 2 := by
  rcases Nat.le_one_iff_eq_zero_or_eq_one.mp h with rfl | rfl
  · exact ⟨_, _, s.fallbackPart0_eq, rfl, rfl⟩
  · exact ⟨_, _, s.fallbackPart1_eq, rfl, rfl⟩

/-- The presence bits of segment 0 of FALLBACK. -/
def State.fallbackFlags0 (s : State) : List Bool :=
  (!s.trunk.waitQueue.isEmpty) :: ((s.trunk.recordPlaces 0).map recordFlags).flatten

/-- The parts of segment 0 of FALLBACK in order. -/
def State.fallbackParts0 (s : State) : List (List Byte) :=
  [presenceBytes 2 s.fallbackFlags0, [byteOf (policyCode s.settings.policy)], [if s.paused then 1 else 0],
   [byteOf s.trunk.fallback.length], [byteOf s.trunk.waitQueue.length], optBytes 1 s.trunk.waitQueue.head?,
   ((s.trunk.recordPlaces 0).map recordBytes).flatten]

/-- The lengths of the parts of segment 0 of FALLBACK. -/
def fallbackLengths0 : List Nat := [2, 1, 1, 1, 1, 1, 36]

theorem State.laidOutFallback0 (s : State) : laidOut s.fallbackParts0 fallbackLengths0 s.fallbackPart0 := by
  constructor
  · unfold State.fallbackPart0 State.fallbackParts0 State.fallbackFlags0
    simp only [List.flatten_cons, List.flatten_nil, List.append_assoc, List.append_nil, List.cons_append, List.nil_append]
  · have places : ((s.trunk.recordPlaces 0).map recordBytes).flatten.length = 36 := flatten_length_of_forall recordBytes_length _
    unfold State.fallbackParts0
    rw [List.map_cons, List.map_cons, List.map_cons, List.map_cons, List.map_cons, List.map_cons, List.map_cons, places]
    rfl

/-! ## The parts of QUERY STATION fit a reply -/

theorem State.stationSegment_length (hwin : s.windows.length = 8) (hdigest : ∀ p ds, (s.peer p).digest = some ds → ds.length = 8)
    (segment : Nat) :
    (s.stationSegment 0 segment).length = 21 ∧ (s.stationSegment 1 segment).length = 48 ∧
      (s.stationSegment 2 segment).length = 43 ∧ (s.stationSegment 3 0).length = 43 ∧ (s.stationSegment 3 1).length = 38 := by
  refine ⟨s.laidOutSummary.length, ?_, (State.laidOutPeer (hdigest segment)).length, ?_, ?_⟩
  · show (s.windows.map Window.bytes).flatten.length = 48
    rw [flatten_length_of_forall Window.bytes_length, hwin]
  · show s.fallbackPart0.length = 43
    rw [s.fallbackPart0_eq, fallbackLayout_length]
    rfl
  · show s.fallbackPart1.length = 38
    rw [s.fallbackPart1_eq, fallbackLayout_length]
    rfl

/-- Settles O54: every item stands in its part of the segment, and the parts follow one another by their lengths. -/
theorem queriesCarryRecords : Obligations.QueriesCarryRecords := by
  refine ⟨fun s o rest r h hv hk hseg hc hbad hr hrange => ?_, fun s o rest h hv hk hcap hpart hdigest => ?_⟩
  · subst hr
    refine ⟨_, _, exec_queryCircuit h hv hk hseg hbad, (s.answeredWith_answered o rest s.trunk _).1, s.answeredWith_ownTrunk o rest _,
      rfl, rfl, fun hzero => ?_, fun hone => ?_⟩
    · rw [hzero]
      have out : laidOut ((s.circuit o.operand).parts0 o.operand) lengths0 (s.trunk.circuitSegment o.operand 0) :=
        s.trunk.laidOut0 o.operand
      have hstate := circuitStateCode_lt (s.circuit o.operand).state
      generalize s.trunk.circuitSegment o.operand 0 = bs at out ⊢
      generalize s.circuit o.operand = r at *
      obtain ⟨candidates, contributing, verifyMiss, idleQualify, -, -, deficit, -, quietRun, -, -, -, -, -, -, -, -, -,
        mismatches, -, -, -, bound⟩ := hrange
      obtain ⟨b27, b26, b25, b24, b23, b22, b21, b20, b37, b3⟩ := Circuit.presence0 out
      obtain ⟨⟨b80, b81, b8⟩, b280, b281, b282, b28⟩ := Circuit.flags0 out
      obtain ⟨binding, unbound⟩ := Circuit.binding0 out bound
      obtain ⟨obase, noObase⟩ := wordItem (out.part (i := 10) (j := 6) rfl)
      obtain ⟨lowest, noLowest⟩ := wordItem (out.part (i := 14) (j := 8) rfl)
      obtain ⟨offset, noOffset⟩ := wordItem (out.part (i := 17) (j := 10) rfl)
      obtain ⟨play, noPlay⟩ := wordItem (out.part (i := 24) (j := 14) rfl)
      obtain ⟨least, noLeast⟩ := leadItem (out.part (i := 31) (j := 19) rfl)
      obtain ⟨most, noMost⟩ := leadItem (out.part (i := 33) (j := 20) rfl)
      have phase : (byteAt bs 9).toNat = (r.peerPhase.map phaseCode).getD 0 := by
        refine byteAt_byteOf (out.part (j := 5) rfl) ?_
        cases r.peerPhase with
        | none => decide
        | some ph => exact phaseCode_lt ph
      have kind : standsAt bs 27 (optBytes 1 (r.splice.lastKind.map lastKindCode)) := out.part (j := 16) rfl
      have fill : standsAt bs 26 (optBytes 1 r.splice.deficit) := out.part (j := 15) rfl
      have size := Candidates.size_le candidates
      refine ⟨out.length, b27, b26, b25, b24, b23, b22, b21, b20, b37, byteAt_byteOf (out.part (j := 2) rfl) hstate, binding, b80, b81, ?_,
        obase, fieldAt_be_two (out.part (j := 7) rfl) (by omega), lowest, byteAt_byteOf (out.part (j := 9) rfl) (by omega), offset,
        byteAt_byteOf (out.part (j := 11) rfl) (by omega), fieldAt_be_two (out.part (j := 12) rfl) (by omega),
        fieldAt_be_two (out.part (j := 13) rfl) mismatches, play, fun d hd => byteAt_some fill hd (Nat.lt_of_le_of_lt (deficit d hd) (by decide)),
        fun k hk => byteAt_some kind (congrArg (Option.map lastKindCode) hk) (lastKindCode_lt k), b280, b281, b282,
        fieldAt_be_two (out.part (j := 18) rfl) (by omega), least, most, b3, b8, b28, unbound, noObase, noLowest, noOffset, noPlay,
        byteAt_none fill, fun hk => byteAt_none kind (congrArg (Option.map lastKindCode) hk), noLeast, noMost⟩
      rw [phase]
      cases r.peerPhase <;> rfl
    · rw [hone]
      have out : laidOut (s.trunk.parts1 o.operand) lengths1 (s.trunk.circuitSegment o.operand 1) := s.trunk.laidOut1 o.operand
      generalize s.trunk.circuitSegment o.operand 1 = bs at out ⊢
      obtain ⟨-, -, -, -, -, -, -, -, -, guard, stateTimer, silence, releaseCells, row, received, late, early, concealed, mismatches,
        fills, -, -, -⟩ := hrange
      obtain ⟨b27, b26, b25, b24, b23, b22, b21, b20⟩ := Trunk.presence1 out
      obtain ⟨supervision, delivered, left⟩ := Trunk.codes1 out guard
      obtain ⟨hrow, hplace, hqueued, noRow, noPlace, noQueue⟩ := Trunk.places1 out row
      obtain ⟨status, settle, hold, noRecord, noLive, noHold⟩ := Trunk.record1 out
      refine ⟨out.length, b27, b26, b25, b24, b23, b22, supervision, delivered, ?_,
        fieldAt_be_two (out.part (j := 3) rfl) (Nat.le_trans stateTimer (by norm_num)), fieldAt_be_two (out.part (j := 4) rfl) silence,
        byteAt_byteOf (out.part (j := 5) rfl) (Nat.lt_of_le_of_lt releaseCells (by decide)), hrow, hplace, hqueued, status, settle, hold,
        fieldAt_be_two (out.part (j := 12) rfl) received, fieldAt_be_two (out.part (j := 13) rfl) late,
        fieldAt_be_two (out.part (j := 14) rfl) early, fieldAt_be_two (out.part (j := 15) rfl) concealed,
        fieldAt_be_two (out.part (j := 16) rfl) mismatches, fieldAt_be_two (out.part (j := 17) rfl) fills, b21, b20, noRow, noPlace,
        noQueue, noRecord, noLive, noHold⟩
      rw [left]
      show _ = match (s.trunk.circuit o.operand).guard with | some g => g.left | none => 0
      cases (s.trunk.circuit o.operand).guard <;> rfl
  · obtain ⟨-, orderOverflow, -, reports, reportOverflow, fallback, rows, windows, -, cycles, peers⟩ := hcap
    obtain ⟨length0, length1, length2, length30, length31⟩ := State.stationSegment_length windows hdigest o.segment
    refine ⟨_, s.stationSegment o.operand o.segment, exec_queryStation h hv hk hpart, (s.answeredWith_answered o rest s.trunk (.done _)).1,
      s.answeredWith_ownTrunk o rest _, ?_, fun hp => ?_, fun hp => ?_, fun hp => ?_, fun hp hs => ?_, fun hp hs => ?_,
      fun hp j i hj hi => ?_, fun hp j pos hj hpos hnone => ?_, fun hp j pos f hj hf hpos hc => ?_⟩
    · show (s.stationSegment o.operand o.segment).length ≤ 56
      rcases hpart with ⟨hp, -⟩ | ⟨hp, -⟩ | ⟨hp, -⟩ | ⟨hp, hs⟩
      · rw [hp, length0]; decide
      · rw [hp, length1]; decide
      · rw [hp, length2]; decide
      · rcases Nat.le_one_iff_eq_zero_or_eq_one.mp hs with hs | hs
        · rw [hp, hs, length30]; decide
        · rw [hp, hs, length31]; decide
    · rw [hp]
      have out : laidOut s.summaryParts summaryLengths (s.stationSegment 0 o.segment) := s.laidOutSummary
      generalize s.stationSegment 0 o.segment = bs at out ⊢
      have faulty : standsAt bs 0 [flagByte [s.configFault.isSome]] := out.part (j := 0) rfl
      have fault : standsAt bs 10 (optBytes 1 (s.configFault.map configFaultCode)) := out.part (j := 5) rfl
      have number : standsAt bs 2 [byteOf (s.stationNo.getD 0)] := out.part (j := 2) rfl
      have held := Trunk.placesHeld_le rows
      have full := s.trunk.fullRows_le
      have present := s.presentPeers_le
      have matched := State.matchedWindows_le windows
      refine ⟨out.length, flag_of_standsAt faulty (by decide), byteAt_byteOf (out.part (j := 1) rfl) (stationCode_lt _),
        fun n hn hlt => ?_, byteAt_byteOf (out.part (j := 3) rfl) (causeCode_lt _),
        fieldAt_of_lt (out.part (j := 4) rfl) (Nat.lt_of_lt_of_le cycles (by norm_num)),
        fun e he => byteAt_some fault (congrArg (Option.map configFaultCode) he) (configFaultCode_lt e),
        fun hlt => byteAt_byteOf (out.part (j := 6) rfl) hlt, fieldAt_of_standsAt (out.part (j := 7) rfl),
        byteAt_byteOf (out.part (j := 8) rfl) (by omega), byteAt_byteOf (out.part (j := 9) rfl) (by omega),
        byteAt_byteOf (out.part (j := 10) rfl) (Nat.lt_of_le_of_lt present (by decide)),
        byteAt_byteOf (out.part (j := 11) rfl) (Nat.lt_of_le_of_lt matched (by decide)),
        byteAt_byteOf (out.part (j := 12) rfl) (by omega), byteAt_byteOf (out.part (j := 13) rfl) (by omega),
        byteAt_byteOf (out.part (j := 14) rfl) (by omega), fun i hi => ?_,
        fun he => byteAt_none fault (congrArg (Option.map configFaultCode) he)⟩
      · rw [hn] at number
        exact byteAt_byteOf number hlt
      · obtain ⟨m, hm⟩ : ∃ m, 7 - i = m + 1 := ⟨6 - i, by omega⟩
        rw [flag_of_standsAt faulty (by omega), hm]
        rfl
    · rw [hp]
      exact ⟨length1, fun j w hw => flatten_standsAt Window.bytes_length s.windows j w hw⟩
    · rw [hp]
      have out : laidOut (s.peerParts o.segment) peerLengths (s.stationSegment 2 o.segment) :=
        State.laidOutPeer (hdigest o.segment)
      generalize s.stationSegment 2 o.segment = bs at out ⊢
      obtain ⟨miss, unbound, headerErrors⟩ := peers o.segment
      have flags : standsAt bs 0 [flagByte [(s.peer o.segment).cycles.isSome, (s.peer o.segment).digest.isSome]] :=
        out.part (j := 0) rfl
      have count : standsAt bs 3 (optBytes 6 (s.peer o.segment).cycles) := out.part (j := 3) rfl
      have digest : standsAt bs 11 (peerDigestBytes (s.peer o.segment).digest) := out.part (j := 6) rfl
      refine ⟨out.length, flag_of_standsAt flags (by decide), flag_of_standsAt flags (by decide),
        byteAt_byteOf (out.part (j := 1) rfl) (peerStateCode_lt _), byteAt_byteOf (out.part (j := 2) rfl) (by omega),
        fun n hn hlt => fieldAt_some count hn (Nat.lt_of_lt_of_le hlt (by norm_num)),
        byteAt_byteOf (out.part (j := 4) rfl) (by omega), byteAt_byteOf (out.part (j := 5) rfl) (by omega),
        fun ds hds j d hd => ?_, fun i hi => ?_, fieldAt_none count, fun hds => ?_⟩
      · rw [hds] at digest
        exact standsAt_within digest (flatten_standsAt digestBytes_length ds j d hd) rfl
      · obtain ⟨m, hm⟩ : ∃ m, 7 - i = m + 2 := ⟨5 - i, by omega⟩
        rw [flag_of_standsAt flags (by omega), hm]
        rfl
      · rw [hds] at digest
        have whole : (bs.drop 11).length = 32 := by rw [List.length_drop, out.length]; rfl
        rw [← List.take_of_length_le whole.le]
        exact digest
    · rw [hp, hs]
      have out : laidOut s.fallbackParts0 fallbackLengths0 (s.stationSegment 3 0) := s.laidOutFallback0
      have behind (i : Nat) := fallbackLayout_presence_behind (i := i) [!s.trunk.waitQueue.isEmpty] s.fallbackItems
        (ps := s.trunk.recordPlaces 0)
      rw [← s.fallbackPart0_eq] at behind
      have waiting : standsAt (s.stationSegment 3 0) 0 [flagByte s.fallbackFlags0] := out.within (j := 0) (k := 0) rfl rfl
      have head : standsAt (s.stationSegment 3 0) 6 (optBytes 1 s.trunk.waitQueue.head?) := out.part (j := 5) rfl
      refine ⟨length30, (flag_of_standsAt waiting (by decide)).trans ?_, byteAt_byteOf (out.part (j := 1) rfl) ?_, ?_,
        byteAt_byteOf (out.part (j := 3) rfl) (by omega), fun hle => byteAt_byteOf (out.part (j := 4) rfl) (by omega),
        fun n hn hlt => byteAt_some head hn hlt, fun hnil => byteAt_none head (congrArg List.head? hnil),
        fun i hi h16 => behind i hi h16⟩
      · show (!s.trunk.waitQueue.isEmpty) = _
        cases s.trunk.waitQueue <;> rfl
      · cases s.settings.policy <;> decide
      · rw [byteAt_of_standsAt (out.part (j := 2) rfl)]
        cases s.paused <;> rfl
    · rw [hp, hs]
      refine ⟨length31, fun i hi h16 => ?_⟩
      exact fallbackLayout_presence_behind [] [] (ps := s.trunk.recordPlaces 4) hi h16
    · have hs : o.segment ≤ 1 := by omega
      obtain ⟨flags, items, heq, hflags, -⟩ := s.stationSegment_fallback hs
      rw [hp]
      refine fallbackLayout_bits (s.trunk.recordPlaces_getElem? (4 * o.segment) hj) (by rw [hflags]; exact hi) ?_ heq
      rw [hi]
      split <;> omega
    · have hs : o.segment ≤ 1 := by omega
      obtain ⟨flags, items, heq, -, hitems⟩ := s.stationSegment_fallback hs
      rw [hp]
      exact (fallbackLayout_place (s.trunk.recordPlaces_getElem? (4 * o.segment) hj) (by rw [hitems]; exact hpos) heq).1 hnone
    · have hs : o.segment ≤ 1 := by omega
      obtain ⟨flags, items, heq, -, hitems⟩ := s.stationSegment_fallback hs
      rw [hp]
      exact (fallbackLayout_place (s.trunk.recordPlaces_getElem? (4 * o.segment) hj) (by rw [hitems]; exact hpos) heq).2 f hf hc

end Sys2Proof.Machine

end

section
/-! The cells a station builds, read back by the station that hears them: bearer cells and beacons (R112, R119, R122, R158,
Tables 12.1 and 12.2). -/

namespace Sys2Proof.Machine

variable {s : State} {n c k v : Nat} {place header body bs : List Byte} {r : Circuit} {ph : Phase}

/-! ## The header of a place -/

theorem byteOf_getLsbD (v i : Nat) : (byteOf v).getLsbD i = (decide (i < 8) && v.testBit i) := BitVec.getLsbD_ofNat 8 v i

theorem isEmptyPlace_of_first (h : byteAt place 0 ≠ 0) : isEmptyPlace place = false := by
  show (byteAt place 0 == 0 && _) = false
  rw [beq_eq_false_iff_ne.mpr h]
  rfl

theorem bytesFrom_header (h : standsAt place 0 header) (hlen : header.length = 5) : bytesFrom place 0 5 = header := by
  rw [← hlen]
  exact bytesFrom_eq_of_standsAt h

/-- The first byte gives the kind and the sender. -/
theorem kindOf_of_first (h : (byteAt place 0).toNat = 32 * k + n) (hn : n < 15) :
    kindOf place = k ∧ senderOf place = n := by
  unfold kindOf senderOf lowNibble
  omega

/-- A place whose header was built with its check passes the header check. -/
theorem headerOk_of_built (h : standsAt place 0 header) (hlen : header.length = 5) (hcheck : byteAt place 5 = crc8 header)
    (hfirst : (byteAt place 0).toNat = 32 * k + n) (hn : n < 15) (h1 : 1 ≤ k) (h4 : k ≤ 4)
    (hphase : k = 1 → (phaseOf place).isSome = true) :
    isEmptyPlace place = false ∧ headerOk n place = true ∧ kindOf place = k := by
  obtain ⟨kind, sender⟩ := kindOf_of_first hfirst hn
  refine ⟨isEmptyPlace_of_first fun hzero => ?_, (headerOk_iff n place).mpr ⟨?_, ?_, sender, ?_, ?_⟩, kind⟩
  · rw [hzero] at hfirst
    have zero : (0 : Byte).toNat = 0 := rfl
    omega
  · omega
  · omega
  · rw [kind]
    exact hphase
  · rw [bytesFrom_header h hlen, hcheck]

/-! ## Bearer cells -/

/-- The header of a bearer cell, without its check. -/
def bearerHeader (n : Nat) (f : Word) (c : Nat) (ph : Phase) (r : Circuit) : List Byte :=
  [BitVec.ofNat 8 (32 + n % 16), BitVec.ofNat 8 c] ++ be 2 (f - 39).toNat ++ [BitVec.ofNat 8 (phaseCode ph * 16 + r.captureCode.toNat)]

theorem bearerCellBytes_of_announces (h : r.state.announces = some ph) (n : Nat) (f : Word) (c : Nat) :
    bearerCellBytes n f c r = withHeaderCheck (bearerHeader n f c ph r) ++ r.capture := by
  unfold bearerCellBytes
  rw [h]
  rfl

/-- The parts of a bearer cell in order. -/
def bearerParts (n : Nat) (f : Word) (c : Nat) (ph : Phase) (r : Circuit) : List (List Byte) :=
  [[byteOf (32 + n % 16)], [byteOf c], be 2 (f - 39).toNat, [byteOf (phaseCode ph * 16 + r.captureCode.toNat)],
   [crc8 (bearerHeader n f c ph r)], r.capture]

/-- The lengths of the parts of a bearer cell. -/
def bearerLengths : List Nat := [1, 1, 2, 1, 1, 40]

theorem laidOutBearer (h : r.state.announces = some ph) (hlen : r.capture.length = 40) (n : Nat) (f : Word) (c : Nat) :
    laidOut (bearerParts n f c ph r) bearerLengths (padTo 46 (bearerCellBytes n f c r)) := by
  have lengths : (bearerParts n f c ph r).map List.length = bearerLengths := by
    unfold bearerParts
    rw [List.map_cons, List.map_cons, List.map_cons, List.map_cons, List.map_cons, List.map_cons, hlen]
    rfl
  have bytes : bearerCellBytes n f c r = (bearerParts n f c ph r).flatten := by
    rw [bearerCellBytes_of_announces h]
    unfold withHeaderCheck bearerParts
    simp only [List.flatten_cons, List.flatten_nil, List.append_assoc, List.append_nil, List.cons_append, List.nil_append]
    rfl
  have whole : (bearerCellBytes n f c r).length = 46 := laidOut.length ⟨bytes, lengths⟩
  exact ⟨(padTo_of_length whole).trans bytes, lengths⟩

theorem phaseOfCode_phaseCode (ph : Phase) : phaseOfCode (phaseCode ph) = some ph := by cases ph <;> rfl

theorem phaseCode_le (ph : Phase) : phaseCode ph ≤ 6 := by cases ph <;> decide

/-- The phase and the supervision share a byte. -/
theorem phase_and_code {code : Code} (h : (byteAt place 4).toNat = phaseCode ph * 16 + code.toNat) :
    phaseOf place = some ph ∧ codeOf place = code := by
  have le := phaseCode_le ph
  have lt := code.isLt
  constructor
  · have high : (byteAt place 4).toNat / 16 % 8 = phaseCode ph := by omega
    unfold phaseOf highNibble
    rw [high, phaseOfCode_phaseCode]
  · have low : (byteAt place 4).toNat % 16 = code.toNat := by omega
    unfold codeOf
    rw [low, BitVec.ofNat_toNat, BitVec.setWidth_eq]

theorem ssnOf_of_standsAt {w : Word} (h : standsAt place 2 (be 2 w.toNat)) : ssnOf place = w := by
  have field : ssnOf place = BitVec.ofNat 16 (fieldAt place 2 2) := by
    rw [fieldAt_succ, fieldAt_succ]
    show _ = BitVec.ofNat 16 ((0 * 256 + (byteAt place (2 + 0)).toNat) * 256 + (byteAt place (2 + 1)).toNat)
    rw [Nat.zero_mul, Nat.zero_add]
    rfl
  rw [field, fieldAt_word h, BitVec.ofNat_toNat, BitVec.setWidth_eq]

/-- Settles O43: each item of a bearer cell is read where it was put. -/
theorem bearerCellsReadAsBuilt : Obligations.BearerCellsReadAsBuilt := by
  intro n c f r ph place hn hc hph hlen hplace
  have out := laidOutBearer hph hlen n f c
  rw [← hplace] at out
  have header : standsAt place 0 (bearerHeader n f c ph r) := by
    rw [out.bytes]
    exact standsAt_zero
  have first : (byteAt place 0).toNat = 32 * 1 + n := by
    rw [byteAt_byteOf (out.part (j := 0) rfl) (by omega)]
    omega
  have le := phaseCode_le ph
  have lt := r.captureCode.isLt
  obtain ⟨phase, code⟩ := phase_and_code (ph := ph) (byteAt_byteOf (out.part (i := 4) (j := 3) rfl) (by omega))
  obtain ⟨nonempty, ok, kind⟩ := headerOk_of_built header rfl (byteAt_of_standsAt (out.part (j := 4) rfl)) first hn le_rfl (by decide)
    (fun _ => by rw [phase]; rfl)
  have ssn := ssnOf_of_standsAt (out.part (i := 2) (j := 2) rfl)
  have capture : standsAt place 6 r.capture := out.part (j := 5) rfl
  have samples : bytesFrom place 6 40 = r.capture := by
    rw [← hlen]
    exact bytesFrom_eq_of_standsAt capture
  refine ⟨out.length, nonempty, ok, kind, phase, byteAt_byteOf (out.part (j := 1) rfl) hc, ssn, code, fun i hi => ?_, fun d => ?_⟩
  · have hi' : i < r.capture.length := by omega
    unfold sampleOf
    rw [byteAt_add_of_standsAt capture hi', List.getElem?_eq_getElem hi']
    exact congrArg some (List.getD_eq_getElem (l := r.capture) (d := 0) hi')
  · unfold bearerOf
    rw [samples, fieldAt_word (out.part (i := 2) (j := 2) rfl), BitVec.ofNat_toNat, BitVec.setWidth_eq]
    exact congrArg (fun code => BearerCell.mk d (f - 39) code ph r.capture) code

end Sys2Proof.Machine

end

section
/-! The beacon, read back by the station that hears it (R119, R122, Tables 12.1 and 12.2). -/

namespace Sys2Proof.Machine

variable {s : State} {n : Nat} {place bs : List Byte} {w : Window} {i : Nat}

/-! ## The parts of a beacon -/

/-- The flags and the count of byte 2. -/
def State.beaconFlags (s : State) : Nat :=
  (if s.paused then 128 else 0) + (if s.stationState = .configBad then 64 else 0) + s.trunk.fallback.length

/-- The header of a beacon, without its check. -/
def State.beaconHeader (s : State) : List Byte :=
  [byteOf (64 + s.stationNo.getD 15 % 16), byteOf (stationCode s.stage * 16 + causeCode s.startCause), byteOf s.beaconFlags, 0, 0]

/-- The window digest of a beacon, zeros in CONFIG_BAD. -/
def State.beaconDigest (s : State) : List Byte :=
  if s.stationState = .configBad then List.replicate 32 0 else (s.windows.map (fun w => digestBytes w.digest)).flatten

theorem State.beaconBytes_eq (s : State) :
    s.beaconBytes = withHeaderCheck s.beaconHeader ++ s.beaconBody ++ be 2 (crc16 s.beaconBody).toNat := rfl

theorem State.beaconBody_eq (s : State) : s.beaconBody = be 6 s.cycleCount ++ s.beaconDigest := rfl

theorem State.beaconDigest_length (h : s.windows.length = 8) : s.beaconDigest.length = 32 := by
  unfold State.beaconDigest
  split
  · rfl
  · rw [flatten_length_of_forall (fun w : Window => digestBytes_length w.digest), h]

/-- The parts of a beacon's place in order. -/
def State.beaconParts (s : State) : List (List Byte) :=
  [[byteOf (64 + s.stationNo.getD 15 % 16)], [byteOf (stationCode s.stage * 16 + causeCode s.startCause)], [byteOf s.beaconFlags],
   [0], [0], [crc8 s.beaconHeader], be 6 s.cycleCount, s.beaconDigest, be 2 (crc16 s.beaconBody).toNat, List.replicate 22 0]

/-- The lengths of the parts of a beacon's place. -/
def beaconLengths : List Nat := [1, 1, 1, 1, 1, 1, 6, 32, 2, 22]

theorem State.beaconBytes_length (h : s.windows.length = 8) : s.beaconBytes.length = 46 := by
  rw [s.beaconBytes_eq, s.beaconBody_eq, List.length_append, List.length_append, List.length_append, be_length, be_length,
    State.beaconDigest_length h]
  rfl

theorem State.laidOutBeacon (h : s.windows.length = 8) : laidOut s.beaconParts beaconLengths (padTo 68 s.beaconBytes) := by
  constructor
  · unfold padTo
    rw [State.beaconBytes_length h, s.beaconBytes_eq, s.beaconBody_eq]
    unfold withHeaderCheck State.beaconHeader State.beaconParts
    simp only [List.flatten_cons, List.flatten_nil, List.append_assoc, List.append_nil, List.cons_append, List.nil_append]
    rfl
  · unfold State.beaconParts
    simp only [List.map_cons, State.beaconDigest_length h]
    rfl

/-! ## The header fields -/

theorem stationCode_le (st : StationState) : stationCode st ≤ 3 := by cases st <;> decide

theorem causeCode_le (k : StartCause) : 1 ≤ causeCode k ∧ causeCode k ≤ 4 := by cases k <;> decide

theorem State.beaconFlags_lt (h : s.trunk.fallback.length ≤ 8) : s.beaconFlags < 256 := by
  unfold State.beaconFlags
  split <;> split <;> omega

/-- Bit 6 of byte 2 marks CONFIG_BAD. -/
theorem State.beaconFlags_configBad (h : s.trunk.fallback.length ≤ 8) :
    (byteOf s.beaconFlags).getLsbD 6 = decide (s.stationState = .configBad) := by
  rw [byteOf_getLsbD, Nat.testBit_eq_decide_div_mod_eq, Bool.eq_iff_iff]
  unfold State.beaconFlags
  split <;> split <;> simp_all <;> omega

/-! ## The digest -/

/-- What is read of a window's entry. -/
def Window.entry (w : Window) : DigestEntry :=
  ⟨decide (w.enabled = true ∧ w.validity = .valid), w.peer, w.localBase, w.peerBase, w.length⟩

/-- The window's items fit its entry. -/
def Window.fitsEntry (w : Window) : Prop := w.peer < 16 ∧ w.localBase < 256 ∧ w.peerBase < 256 ∧ 1 ≤ w.length ∧ w.length ≤ 256

theorem Window.digest_valid (w : Window) : w.digest.valid = decide (w.enabled = true ∧ w.validity = .valid) := by
  rw [Bool.decide_and, Bool.decide_eq_true]
  rfl

/-- The valid flag and the peer share a byte. -/
theorem validAndPeer (valid : Bool) {peer : Nat} (h : peer < 16) :
    bitOf (byteOf ((if valid then 128 else 0) + peer % 16)) 7 = valid ∧
      lowNibble (byteOf ((if valid then 128 else 0) + peer % 16)) = peer := by
  constructor
  · unfold bitOf
    rw [byteOf_getLsbD, Nat.testBit_eq_decide_div_mod_eq, Bool.eq_iff_iff]
    cases valid <;> simp <;> omega
  · unfold lowNibble
    rw [byteOf_toNat (by split <;> omega)]
    split <;> omega

theorem digestEntryAt_of_standsAt (h : standsAt bs i (digestBytes w.digest)) (hw : w.fitsEntry) : digestEntryAt bs i = w.entry := by
  obtain ⟨hpeer, hlocal, hbase, h1, h256⟩ := hw
  have first : byteAt bs i = byteOf ((if w.digest.valid then 128 else 0) + w.peer % 16) :=
    byteAt_of_standsAt (standsAt_within (k := 0) h rfl rfl)
  obtain ⟨valid, peer⟩ := validAndPeer w.digest.valid hpeer
  have localBase : (byteAt bs (i + 1)).toNat = w.localBase := byteAt_byteOf (standsAt_within (k := 1) h rfl rfl) hlocal
  have peerBase : (byteAt bs (i + 2)).toNat = w.peerBase := byteAt_byteOf (standsAt_within (k := 2) h rfl rfl) hbase
  have length : (byteAt bs (i + 3)).toNat = w.length - 1 := byteAt_byteOf (standsAt_within (k := 3) h rfl rfl) (by omega)
  unfold digestEntryAt Window.entry
  rw [first, valid, peer, localBase, peerBase, length, w.digest_valid, Nat.sub_add_cancel h1]

theorem digestAt_of_standsAt {ws : List Window} (h : standsAt bs i (ws.map (fun w => digestBytes w.digest)).flatten)
    (hlen : ws.length = 8) (hws : ∀ w ∈ ws, w.fitsEntry) : digestAt bs i = ws.map Window.entry := by
  unfold digestAt
  refine List.ext_getElem (by rw [List.length_map, List.length_map, List.length_range, hlen]) fun k hk hk' => ?_
  have inside : k < ws.length := by rwa [List.length_map] at hk'
  rw [List.getElem_map, List.getElem_map, List.getElem_range]
  refine digestEntryAt_of_standsAt (standsAt_within h ?_ rfl) (hws _ (List.getElem_mem inside))
  exact flatten_standsAt (fun w : Window => digestBytes_length w.digest) ws k ws[k] (List.getElem?_eq_getElem inside)

/-- Settles O44: the header, the count and the digest of a beacon are read where they were put. -/
theorem beaconsReadAsBuilt : Obligations.BeaconsReadAsBuilt := by
  intro s n place hn hno hfallback hwin hcycles hfits hplace
  have out := State.laidOutBeacon hwin
  rw [← hplace] at out
  have station : s.stationNo.getD 15 = n := by rw [hno]; rfl
  have header : standsAt place 0 s.beaconHeader := by
    rw [out.bytes]
    exact standsAt_zero
  have first : (byteAt place 0).toNat = 32 * 2 + n := by
    rw [byteAt_byteOf (out.part (j := 0) rfl) (by omega)]
    omega
  obtain ⟨nonempty, ok, kind⟩ := headerOk_of_built header rfl (byteAt_of_standsAt (out.part (j := 5) rfl)) first hn (by decide)
    (by decide) nofun
  have body : standsAt place 6 s.beaconBody := by
    have split : place = withHeaderCheck s.beaconHeader ++ (s.beaconBody ++ (be 2 (crc16 s.beaconBody).toNat ++
        List.replicate (68 - s.beaconBytes.length) 0)) := by
      rw [hplace]
      unfold padTo
      rw [s.beaconBytes_eq, List.append_assoc, List.append_assoc]
    rw [split]
    exact standsAt_append_right standsAt_zero rfl
  have bodyLength : s.beaconBody.length = 38 := by
    rw [s.beaconBody_eq, List.length_append, be_length, State.beaconDigest_length hwin]
  have bodyRead : bytesFrom place 6 38 = s.beaconBody := by
    rw [← bodyLength]
    exact bytesFrom_eq_of_standsAt body
  have check : beaconBodyOk place = true := by
    unfold beaconBodyOk
    rw [bodyRead, fieldAt_word (out.part (j := 8) rfl)]
    exact beq_self_eq_true _
  have codeLe := stationCode_le s.stage
  obtain ⟨cause1, cause4⟩ := causeCode_le s.startCause
  have codes : (byteAt place 1).toNat = stationCode s.stage * 16 + causeCode s.startCause :=
    byteAt_byteOf (out.part (j := 1) rfl) (by omega)
  have flags : byteAt place 2 = byteOf s.beaconFlags := byteAt_of_standsAt (out.part (j := 2) rfl)
  have digest : standsAt place 12 s.beaconDigest := out.part (j := 7) rfl
  have marked : bitOf (byteAt place 2) 6 = decide (s.stationState = .configBad) := by
    rw [flags]
    exact State.beaconFlags_configBad hfallback
  refine ⟨out.length, nonempty, ok, kind, check, first, fun st k hk hst => ?_, fun why k hk hwhy => ?_,
    byteAt_byteOf (out.part (j := 2) rfl) (State.beaconFlags_lt hfallback), byteAt_of_standsAt (out.part (j := 3) rfl),
    byteAt_of_standsAt (out.part (j := 4) rfl), fun i hi => ?_,
    fieldAt_of_lt (out.part (j := 6) rfl) (Nat.lt_of_lt_of_le hcycles (by norm_num)), fun hbad => ⟨?_, ?_⟩, fun hbad => ?_⟩
  · have code : stationCode st = k := by
      simp only [List.mem_cons, Prod.mk.injEq, List.not_mem_nil, or_false] at hk
      rcases hk with ⟨rfl, rfl⟩ | ⟨rfl, rfl⟩ | ⟨rfl, rfl⟩ <;> rfl
    rw [hst] at codes
    omega
  · have code : causeCode why = k := by
      simp only [List.mem_cons, Prod.mk.injEq, List.not_mem_nil, or_false] at hk
      rcases hk with ⟨rfl, rfl⟩ | ⟨rfl, rfl⟩ | ⟨rfl, rfl⟩ | ⟨rfl, rfl⟩ <;> rfl
    rw [hwhy] at codes cause4
    omega
  · rw [hplace]
    exact byteAt_padTo_of_le (by rw [State.beaconBytes_length hwin]; exact hi)
  · show (if bitOf (byteAt place 2) 6 then _ else _) = _
    rw [marked, hbad]
    rfl
  · unfold State.beaconDigest at digest
    rw [if_pos hbad] at digest
    exact digest
  · unfold State.beaconDigest at digest
    rw [if_neg hbad] at digest
    show (if bitOf (byteAt place 2) 6 then _ else _) = _
    rw [marked, decide_eq_false hbad, digestAt_of_standsAt digest hwin hfits]
    rfl

end Sys2Proof.Machine

end

section
/-! The lane frame and the service place (R117, R118): what fills the place, what the rest of a frame leaves of it, and the bytes
of a reply (R142, Table 12.1). -/

namespace Sys2Proof.Machine

variable {s t v : State} {x : Ctx}

/-! ## The filling of the service place -/

theorem State.fillService_of_beacon (hd : s.todo.service = true) (hs : s.stationState.onStar = true)
    (hp : cyclePos (s.frameCount.getD 0) = 0) :
    s.fillService = { s with todo := { s.todo with service := false }, servicePlace := .beacon s.beaconBytes } := by
  unfold State.fillService
  rw [if_pos (by simp [hd, hs])]
  exact if_pos hp

theorem State.fillService_of_none (hd : s.todo.service = true) (hs : s.stationState.onStar = true)
    (hp : cyclePos (s.frameCount.getD 0) ≠ 0) (hq : s.replyQueue = []) :
    s.fillService = { s with todo := { s.todo with service := false } } := by
  unfold State.fillService
  rw [if_pos (by simp [hd, hs])]
  dsimp only
  rw [if_neg hp, hq]

/-- A place is filled once, and by a station on the star only. -/
theorem State.fillService_of_not (h : s.todo.service = false ∨ s.stationState.onStar = false) : s.fillService = s := by
  rcases h with h | h
  · exact State.fillService_done s h
  · exact State.fillService_offStar h

/-- What fills the service place of the open frame, by the cycle position. -/
structure State.ServiceFilled (s t : State) : Prop where
  beacon : s.frame.toNat % 40 = 0 → t.servicePlace = .beacon s.beaconBytes ∧ t.replyQueue = s.replyQueue
  none : s.frame.toNat % 40 ≠ 0 → s.replyQueue = [] → t.servicePlace = s.servicePlace ∧ t.replyQueue = []
  reply : ∀ r rest, s.frame.toNat % 40 ≠ 0 → s.replyQueue = r :: rest → t.servicePlace = .reply r ∧ t.replyQueue = rest

theorem State.fillService_filled (hd : s.todo.service = true) (hs : s.stationState.onStar = true) : s.ServiceFilled s.fillService where
  beacon hp := by
    rw [State.fillService_of_beacon hd hs hp]
    exact ⟨rfl, rfl⟩
  none hp hq := by
    rw [State.fillService_of_none hd hs hp hq]
    exact ⟨rfl, hq⟩
  reply r rest hp hq := by
    rw [State.fillService_of_reply hd hs hp hq]
    exact ⟨rfl, rfl⟩

/-- The filling touches the place, the reply queue and the mark of the work alone. -/
theorem State.fillService_frame (s : State) :
    { s.fillService with servicePlace := s.servicePlace, replyQueue := s.replyQueue, todo := s.todo } = s ∧
      s.fillService.todo = { s.todo with service := s.todo.service && !s.stationState.onStar } := by
  cases hd : s.todo.service with
  | false =>
    rw [State.fillService_of_not (.inl hd)]
    exact ⟨rfl, by rw [Bool.false_and, ← hd]⟩
  | true =>
    cases hs : s.stationState.onStar with
    | false =>
      rw [State.fillService_of_not (.inr hs)]
      exact ⟨rfl, by rw [Bool.not_false, Bool.and_true, ← hd]⟩
    | true =>
      by_cases hp : cyclePos (s.frameCount.getD 0) = 0
      · rw [State.fillService_of_beacon hd hs hp]
        exact ⟨rfl, rfl⟩
      · cases hq : s.replyQueue with
        | nil =>
          rw [State.fillService_of_none hd hs hp hq]
          exact ⟨by rw [← hq], rfl⟩
        | cons r rest =>
          rw [State.fillService_of_reply hd hs hp hq]
          exact ⟨by rw [← hq], rfl⟩

/-- What the beacon says is not touched by the filling. -/
theorem State.fillService_beaconBytes (s : State) : s.fillService.beaconBytes = s.beaconBytes := by
  obtain ⟨same, todo⟩ := s.fillService_frame
  have boundary : s.fillService.todo.boundary = s.todo.boundary := congrArg (fun w => w.boundary) todo
  generalize s.fillService = v at same boundary
  rw [← same]
  unfold State.beaconBytes State.stage State.beaconBody
  dsimp only
  rw [boundary]

/-! ## What is held ready for the lane, before the row and the place are made -/

/-- The lane's places and the marks of their works are the same, and replies have joined the tail alone. -/
structure State.SameLane (s t : State) : Prop where
  place : t.servicePlace = s.servicePlace
  bearer : t.bearerPlaces = s.bearerPlaces
  service : t.todo.service = s.todo.service
  build : t.todo.build = s.todo.build
  replies : s.replyQueue <+: t.replyQueue

theorem State.SameLane.refl (s : State) : s.SameLane s := ⟨rfl, rfl, rfl, rfl, List.prefix_refl _⟩

theorem State.SameLane.settleBoundary (h : s.SameLane t) : s.SameLane t.settleBoundary := by
  unfold State.settleBoundary
  split
  · exact ⟨h.place, h.bearer, h.service, h.build, h.replies⟩
  · exact h

theorem State.SameLane.countIdles (h : s.SameLane t) : s.SameLane t.countIdles := by
  unfold State.countIdles
  split
  · exact ⟨h.place, h.bearer, h.service, h.build, h.replies⟩
  · exact h

theorem State.SameLane.giveAll (h : s.SameLane t) : s.SameLane t.giveAll := by
  unfold State.giveAll
  split
  · exact ⟨h.place, h.bearer, h.service, h.build, h.replies⟩
  · exact h

theorem State.SameLane.onTrunk (h : s.SameLane t) (f : Ctx → Trunk → Trunk) : s.SameLane (t.onTrunk f) :=
  ⟨h.place, h.bearer, h.service, h.build, h.replies⟩

theorem State.SameLane.endListening (h : s.SameLane t) : s.SameLane t.endListening := by
  unfold State.endListening
  split
  · exact ⟨h.place, h.bearer, h.service, h.build, h.replies⟩
  · exact h

theorem State.SameLane.losePeer (h : s.SameLane t) (p : Nat) : s.SameLane (t.losePeer p) := by
  unfold State.losePeer
  split
  · exact ⟨h.place, h.bearer, h.service, h.build, h.replies⟩
  · exact h

theorem State.SameLane.losePeers (h : s.SameLane t) : s.SameLane t.losePeers := by
  unfold State.losePeers
  generalize List.range 15 = ps
  induction ps generalizing t with
  | nil => exact h
  | cons p ps ih => exact ih (h.losePeer p)

theorem State.SameLane.takeEvents (h : s.SameLane t) : s.SameLane t.takeEvents :=
  (h.losePeers.onTrunk _).endListening.onTrunk _

theorem State.SameLane.takeHead (h : s.SameLane t) : s.SameLane t.takeHead := by
  unfold State.takeHead
  split
  · exact h
  next o rest _ =>
    have same := State.carryOut_sameButAct o { t with orderQueue := rest }
    have replies : (({ t with orderQueue := rest } : State).carryOut o).1.replyQueue = t.replyQueue := same.replyQueue
    refine ⟨(congrArg State.servicePlace same).trans h.place, (congrArg State.bearerPlaces same).trans h.bearer,
      (congrArg (fun w => w.todo.service) same).trans h.service, (congrArg (fun w => w.todo.build) same).trans h.build, ?_⟩
    show s.replyQueue <+: (({ t with orderQueue := rest } : State).carryOut o).1.replyQueue ++ _
    rw [replies]
    exact h.replies.trans (List.prefix_append _ _)

theorem State.SameLane.takeOrders (n : Nat) : ∀ {t : State}, s.SameLane t → s.SameLane (t.takeOrders n) := by
  induction n with
  | zero => exact fun h => h
  | succ n ih =>
    intro t h
    unfold State.takeOrders
    split
    · exact ih h.takeHead
    · exact h

theorem State.SameLane.takeAll (h : s.SameLane t) : s.SameLane t.takeAll := h.takeOrders _

theorem State.SameLane.takeRest (h : s.SameLane t) : s.SameLane t.takeRest := by
  unfold State.takeRest
  split
  · exact (h.countIdles.giveAll.onTrunk _).takeEvents.takeAll
  · exact h.takeEvents.takeAll.countIdles.giveAll.onTrunk _

/-- The rest of the frame up to the row. -/
theorem State.sameLane_beforeRow (s : State) : s.SameLane s.settleBoundary.takeRest :=
  ((State.SameLane.refl s).settleBoundary).takeRest

theorem State.buildRow_service (s : State) : s.buildRow.todo.service = s.todo.service := by
  unfold State.buildRow
  split <;> rfl

/-! ## The lane frame -/

theorem State.finishFrame_sent (s : State) :
    s.finishFrame.laneOut = if s.finishFrame.stationState.onStar then some s.finishFrame.laneFrame else none := rfl

theorem State.earlyWorks_laneOut (o : FrameOrder) (s : State) : (s.earlyWorks o).laneOut = s.laneOut := by
  simp [State.earlyWorks, apply_ite State.laneOut]

theorem State.openFrame_laneOut (sw lg : Highway) (o : FrameOrder) (s : State) : (s.openFrame sw lg o).laneOut = s.laneOut := by
  rw [State.openFrame, State.earlyWorks_laneOut, State.onTrunk_laneOut, State.beginFrame_laneOut]

theorem replicate_zero_padTo (n : Nat) : padTo n [] = List.replicate n 0 := rfl

/-- The six bearer places of a lane frame. -/
theorem State.laneFrame_bearer (h : s.bearerPlaces.length ≤ 6) :
    s.laneFrame.bearer.length = 6 ∧
      (∀ (i : Nat) (cell : List Byte), s.bearerPlaces[i]? = some cell → s.laneFrame.bearer[i]? = some (padTo 46 cell)) ∧
      ∀ i : Nat, s.bearerPlaces.length ≤ i → i < 6 → s.laneFrame.bearer[i]? = some (List.replicate 46 0) := by
  have places : s.laneFrame.bearer = (s.bearerPlaces ++ List.replicate (6 - s.bearerPlaces.length) []).map (padTo 46) := rfl
  rw [places]
  refine ⟨?_, fun i cell hi => ?_, fun i hi h6 => ?_⟩
  · rw [List.length_map, List.length_append, List.length_replicate]
    omega
  · have lt : i < s.bearerPlaces.length := (List.getElem?_eq_some_iff.mp hi).1
    rw [List.getElem?_map, List.getElem?_append_left lt, hi]
    rfl
  · rw [List.getElem?_map, List.getElem?_append_right hi, List.getElem?_replicate, if_pos (by omega)]
    rfl

/-! ## The bytes of a reply -/

variable {n : Nat} {r : Reply} {place : List Byte}

/-- The header of a reply, without its check. -/
def Reply.header (n : Nat) (r : Reply) : List Byte :=
  [byteOf (128 + n % 16), byteOf (outcomeCode r.outcome * 16 + r.addressee % 16), r.tag, byteOf r.value,
   byteOf ((r.reason.map reasonCode).getD 0)]

theorem Reply.bytes_eq (n : Nat) (r : Reply) :
    r.bytes n = withHeaderCheck (r.header n) ++ r.body ++ be 2 (crc16 r.body).toNat := rfl

theorem Reply.bytes_length (n : Nat) (r : Reply) : (r.bytes n).length = 9 + r.payload.length := by
  rw [r.bytes_eq, List.length_append, List.length_append, be_length]
  show 6 + (r.payload.length + 1) + 2 = _
  omega

/-- The parts of a reply's place in order. -/
def Reply.parts (n : Nat) (r : Reply) : List (List Byte) :=
  [[byteOf (128 + n % 16)], [byteOf (outcomeCode r.outcome * 16 + r.addressee % 16)], [r.tag], [byteOf r.value],
   [byteOf ((r.reason.map reasonCode).getD 0)], [crc8 (r.header n)], [byteOf r.payload.length], r.payload,
   be 2 (crc16 r.body).toNat, List.replicate (68 - (r.bytes n).length) 0]

/-- The lengths of the parts of a reply's place. -/
def Reply.lengths (n : Nat) (r : Reply) : List Nat :=
  [1, 1, 1, 1, 1, 1, 1, r.payload.length, 2, 68 - (r.bytes n).length]

theorem Reply.laidOut_place (n : Nat) (r : Reply) : laidOut (r.parts n) (r.lengths n) (padTo 68 (r.bytes n)) := by
  constructor
  · unfold padTo
    rw [r.bytes_eq]
    unfold withHeaderCheck Reply.header Reply.body Reply.parts
    simp only [List.flatten_cons, List.flatten_nil, List.append_assoc, List.append_nil, List.cons_append, List.nil_append]
    rfl
  · unfold Reply.parts Reply.lengths
    simp only [List.map_cons, List.map_nil, List.length_replicate, List.length_singleton, be_length]

theorem outcomeCode_lt (k : ReplyOutcome) : outcomeCode k < 16 := by cases k <;> decide

theorem reasonCode_lt (k : Reason) : reasonCode k < 256 := by cases k <;> decide

theorem replyReasons_code : ∀ w ∈ replyReasons, reasonCode w.1 = w.2 := by decide

theorem outcomes_code : ∀ w ∈ [(ReplyOutcome.done, 0), (.partialDone, 1), (.refused, 2)], outcomeCode w.1 = w.2 := by decide

/-- The place of a reply passes the header check and reads by field as it was built. -/
theorem Reply.place_laidOutAs (hn : n < 15) (hadd : r.addressee < 16) (hvalue : r.value < 256) (hlen : r.payload.length ≤ 56)
    (hplace : place = padTo 68 (r.bytes n)) :
    place.length = 68 ∧ isEmptyPlace place = false ∧ headerOk n place = true ∧ kindOf place = 4 ∧ r.laidOutAs n place := by
  have out := r.laidOut_place n
  rw [← hplace] at out
  have total := r.bytes_length n
  have header : standsAt place 0 (r.header n) := by
    rw [out.bytes]
    exact standsAt_zero
  have first : (byteAt place 0).toNat = 128 + n := by
    rw [byteAt_byteOf (out.part (i := 0) (j := 0) rfl rfl) (by omega)]
    omega
  have check : byteAt place 5 = crc8 (r.header n) := byteAt_of_standsAt (out.part (j := 5) rfl rfl)
  obtain ⟨nonempty, ok, kind⟩ := headerOk_of_built (k := 4) header rfl check first hn (by decide) (by decide) nofun
  have outcome := outcomeCode_lt r.outcome
  have codes : (byteAt place 1).toNat = outcomeCode r.outcome * 16 + r.addressee % 16 :=
    byteAt_byteOf (out.part (j := 1) rfl rfl) (by omega)
  have reason : standsAt place 4 [byteOf ((r.reason.map reasonCode).getD 0)] := out.part (j := 4) rfl rfl
  have body : standsAt place 6 r.body := by
    have split : place = withHeaderCheck (r.header n) ++ (r.body ++ (be 2 (crc16 r.body).toNat ++
        List.replicate (68 - (r.bytes n).length) 0)) := by
      rw [hplace]
      unfold padTo
      rw [r.bytes_eq, List.append_assoc, List.append_assoc]
    rw [split]
    exact standsAt_append_right standsAt_zero rfl
  refine ⟨?_, nonempty, ok, kind, first, by omega, fun w hw hwo => ?_, byteAt_of_standsAt (out.part (j := 2) rfl rfl),
    byteAt_byteOf (out.part (j := 3) rfl rfl) hvalue, fun w hw hwr => ?_, fun hnone => ?_, ?_,
    byteAt_byteOf (out.part (j := 6) rfl rfl) (by omega), out.part (i := 7) (j := 7) rfl rfl, ?_, fun i hi => ?_⟩
  · rw [hplace]
    exact padTo_length (by omega)
  · rw [← outcomes_code w hw, hwo]
    omega
  · rw [hwr] at reason
    rw [← replyReasons_code w hw]
    exact byteAt_byteOf reason (reasonCode_lt _)
  · rw [hnone] at reason
    exact byteAt_of_standsAt reason
  · rw [check]
    exact congrArg crc8 header.symm
  · have wide : 1 + r.payload.length = r.body.length := Nat.add_comm _ _
    have covered : (place.drop 6).take (1 + r.payload.length) = r.body := by
      rw [wide]
      exact body
    have sum : ((r.lengths n).take 8).sum = 7 + r.payload.length := by
      simp [Reply.lengths]
      omega
    rw [covered]
    exact fieldAt_word (out.part (j := 8) rfl sum)
  · rw [hplace]
    exact byteAt_padTo_of_le (by omega)

end Sys2Proof.Machine

end

section
/-! The lane frame after a frame, and the service place at every point where it is filled (R117, R118, R122). -/

namespace Sys2Proof.Machine

variable {s t : State} {i : Instr} {sw lg : Highway} {straps : BitVec 4} {o : FrameOrder} {f : Word}

/-! ## What a marker sends -/

/-- A marker that is no start shows the lane frame of the frame it closes. -/
theorem exec_marker_laneOut (hi : i = .frameMarker sw lg straps o ∨ i = .missedFrameMarker sw lg o) (hs : s.stationState ≠ .reset)
    (hm : s.missCount < 16) (hr : s.finishFrame.sendsRestart = false) :
    ∃ t, exec i s = .next t ∧
      t.laneOut = if s.finishFrame.stationState.onStar then some s.finishFrame.laneFrame else none :=
  ⟨_, exec_marker_of_no_start hi hs hm hr, (State.openFrame_laneOut sw lg o _).trans s.finishFrame_sent⟩

theorem State.laneFrame_service (s : State) : s.laneFrame.service = padTo 68 (s.servicePlace.bytes (s.stationNo.getD 15)) := rfl

/-! ## The place filled as a frame begins -/

/-- The works of a frame's beginning, without the service place. -/
def beforeService (o : FrameOrder) : FrameOrder := { o with serviceFirst := false }

theorem State.earlyWorks_serviceFirst (h : o.serviceFirst = true) (s : State) :
    s.earlyWorks o = (s.earlyWorks (beforeService o)).fillService := by
  unfold State.earlyWorks
  dsimp only
  rw [if_pos h]
  rfl

theorem State.SameService.ite {u v : State} {q : Prop} [Decidable q] (hu : s.SameService u) (hv : s.SameService v) :
    s.SameService (if q then u else v) := by
  split
  · exact hu
  · exact hv

theorem State.earlyWorks_sameService (o : FrameOrder) (s : State) : s.SameService (s.earlyWorks (beforeService o)) := by
  have h0 : s.SameService s := ⟨rfl, rfl, rfl, rfl⟩
  have h1 : s.SameService (if o.boundaryLast then s else s.settleBoundary) := h0.ite h0.settleBoundary
  have h2 := h1.countIdles.ite h1 (q := o.idleFirst = true)
  have h3 := State.SameService.ite (h2.onTrunk (fun x t => t.mapCircuits (fun c r => r.giveEarly x c))) h2 (q := o.selectFirst = true)
  exact h3.buildRow.ite h3 (q := o.buildFirst = true)

/-- A frame that fills its service place at once fills it from what it finds as it begins. -/
theorem State.openFrame_serviceFirst (h : o.serviceFirst = true) (hs : s.stationState.onStar = true) (sw lg : Highway) :
    ∃ v : State, v.ServiceFilled (s.openFrame sw lg o) ∧ v.frame = nextFrame s.frameCount ∧ v.servicePlace = .empty ∧
      v.replyQueue = s.replyQueue ∧ (s.openFrame sw lg o).beaconBytes = v.beaconBytes := by
  have begun : s.openFrame sw lg o =
      (((s.beginFrame sw lg o.eventsLast o.between).onTrunk Trunk.openSlots).earlyWorks (beforeService o)).fillService :=
    State.earlyWorks_serviceFirst h _
  have same := State.earlyWorks_sameService o ((s.beginFrame sw lg o.eventsLast o.between).onTrunk Trunk.openSlots)
  have setup := ((State.InFrame.refl ((s.beginFrame sw lg o.eventsLast o.between).onTrunk Trunk.openSlots)).earlyWorks
    (beforeService o) (e := False)).sameSetup
  refine ⟨_, begun ▸ State.fillService_filled (same.due.trans rfl) (setup.onStar.trans hs), ?_, same.place, same.replies, ?_⟩
  · unfold State.frame
    rw [setup.frameCount]
    rfl
  · rw [begun]
    exact State.fillService_beaconBytes _

/-! ## The place filled at the close -/

/-- A service place still to be filled is filled from what the rest of the frame has left. -/
theorem State.finishFrame_service (hs : s.stationState.onStar = true) (hd : s.todo.service = true) :
    ∃ v, s.settleBoundary.takeRest.buildRow.ServiceFilled v ∧ s.settleBoundary.takeRest.buildRow.frame = s.frame ∧
      s.settleBoundary.takeRest.buildRow.servicePlace = s.servicePlace ∧
      s.finishFrame.servicePlace = v.servicePlace ∧ v.replyQueue <+: s.finishFrame.replyQueue := by
  have lane := s.sameLane_beforeRow
  have setup := (((State.InFrame.refl s).settleBoundary.takeRest).buildRow).sameSetup
  have due : s.settleBoundary.takeRest.buildRow.todo.service = true := by rw [State.buildRow_service, lane.service, hd]
  have after := (State.SameLane.refl s.settleBoundary.takeRest.buildRow.fillService).takeAll
  refine ⟨_, State.fillService_filled due (setup.onStar.trans hs), ?_, ?_, ?_, ?_⟩
  · unfold State.frame
    rw [setup.frameCount]
  · rw [State.buildRow_servicePlace, lane.place]
  · exact (State.sendLane_servicePlace _).trans after.place
  · unfold State.finishFrame
    rw [State.sendLane_replyQueue]
    exact after.replies

/-! ## The obligation -/

theorem StationState.onStar_iff (st : StationState) : st.onStar = true ↔ st = .configBad ∨ st = .listening ∨ st = .operating := by
  cases st <;> decide

/-- Settles O42: the lane frame is laid out as the frame is closed; its service place is filled once, from what it finds. -/
theorem laneFrameAndServicePlace : Obligations.LaneFrameAndServicePlace := by
  refine ⟨?_, ?_, ?_, fun s ws hp hb => ?_,
    fun n r place hn hadd hvalue hlen hplace => Reply.place_laidOutAs hn hadd hvalue hlen hplace⟩
  · intro s f sw lg straps o i w hi hs hm hf hr
    obtain ⟨t, done, sent⟩ := exec_marker_laneOut hi hs hm hr
    refine ⟨t, done, fun hstate => ?_, fun hstate hlen => ?_⟩
    · rw [sent]
      rcases hstate with hstate | hstate <;> (rw [hstate]; rfl)
    · rw [if_pos ((StationState.onStar_iff _).mpr hstate)] at sent
      obtain ⟨six, cells, zeros⟩ := State.laneFrame_bearer hlen
      refine ⟨_, sent, six, cells, zeros, fun hp => ?_, fun bs hp => ?_, fun r hp => ?_⟩
      all_goals
        rw [State.laneFrame_service, s.finishFrame_sameSetup.stationNo]
        exact congrArg (fun p => padTo 68 (ServicePlace.bytes (s.stationNo.getD 15) p)) hp
  · intro s f sw lg straps o i w hi hs hm hf hr hstar hfirst
    have opened := State.openFrame_serviceFirst (s := { s.finishFrame with missCount := Instr.markerMiss s.missCount i }) hfirst hstar
      sw lg
    obtain ⟨v, ⟨beacon, none, reply⟩, frame, place, replies, bytes⟩ := opened
    have next : v.frame = f + 1 := by
      rw [frame]
      show nextFrame s.finishFrame.frameCount = _
      rw [s.finishFrame_sameSetup.frameCount, hf]
      rfl
    rw [next] at beacon none reply
    rw [replies] at none reply beacon
    rw [place] at none
    refine ⟨_, exec_marker_of_no_start hi hs hm hr, fun hpos => ?_, none, reply⟩
    rw [bytes]
    exact beacon hpos
  · intro s f sw lg straps o i v hi hstar hm hf hr hd
    obtain ⟨t, done, sent⟩ := exec_marker_laneOut hi (State.ne_reset_of_onStar hstar) hm hr
    obtain ⟨u, ⟨beacon, none, reply⟩, frame, place, carried, replies⟩ := State.finishFrame_service hstar hd
    have setup := s.finishFrame_sameSetup
    rw [if_pos (setup.onStar.trans hstar)] at sent
    have now : s.frame = f := by
      unfold State.frame
      rw [hf]
      rfl
    rw [frame, now] at beacon none reply
    rw [place] at none
    have service : s.finishFrame.laneFrame.service = padTo 68 (u.servicePlace.bytes (s.stationNo.getD 15)) := by
      rw [State.laneFrame_service, setup.stationNo, carried]
    refine ⟨t, _, done, sent, fun hpos => ?_, fun hpos hq hempty => ?_, fun r rest hpos hq => ?_⟩
    · obtain ⟨hplace, hqueue⟩ := beacon hpos
      rw [service, hplace]
      rw [hqueue] at replies
      obtain ⟨more, hmore⟩ := replies
      exact ⟨rfl, more, hmore.symm⟩
    · rw [service, (none hpos hq).1, hempty]
      rfl
    · obtain ⟨hplace, hqueue⟩ := reply r rest hpos hq
      rw [service, hplace]
      rw [hqueue] at replies
      obtain ⟨more, hmore⟩ := replies
      exact ⟨rfl, more, hmore.symm⟩
  · let u : State := { s with todo := { s.todo with between := ws } }
    obtain ⟨same, todo⟩ := u.fillService_frame
    refine ⟨u.fillService, (step_of_no_command hp).trans (congrArg Host.Outcome.next (State.tick_work hb)), ?_, todo, fun hnot => ?_,
      fun hdue hstar => ?_⟩
    · show { ({ u.fillService with servicePlace := u.servicePlace, replyQueue := u.replyQueue, todo := u.todo } : State) with
          todo := s.todo } = s
      rw [same]
    · rw [State.fillService_of_not (s := u) hnot]
      exact ⟨rfl, rfl⟩
    · obtain ⟨beacon, none, reply⟩ := State.fillService_filled (s := u) hdue hstar
      exact ⟨beacon, none, reply⟩

end Sys2Proof.Machine

end

section
/-! The build of a row: its cells, the release cells counted, and the circuits that leave (R109, R111, R114). -/

namespace Sys2Proof.Machine

variable {s t : State} {u v w : Trunk} {x : Ctx} {c k n : Nat} {cs : List Nat} {r : Circuit}

/-! ## One circuit of the row -/

/-- The build makes the circuit's fourth release cell. -/
def Circuit.leavesRow (r : Circuit) : Bool := decide (r.state = .copper ∧ r.releaseCells = 1)

/-- The circuit's record after its cell has been built. -/
def Circuit.countedRelease (r : Circuit) : Circuit :=
  if r.state = .copper ∧ 0 < r.releaseCells then
    if r.releaseCells = 1 then { r with releaseCells := 0, calendarRow := none } else { r with releaseCells := r.releaseCells - 1 }
  else r

theorem Circuit.countedRelease_of_none (h : r.state ≠ .copper ∨ r.releaseCells = 0) : r.countedRelease = r :=
  if_neg fun hr => h.elim (fun hs => hs hr.1) (fun hn => by omega)

theorem Circuit.countedRelease_of_last (hs : r.state = .copper) (hn : r.releaseCells = 1) :
    r.countedRelease = { r with releaseCells := 0, calendarRow := none } := by
  unfold Circuit.countedRelease
  rw [if_pos ⟨hs, by omega⟩, if_pos hn]

theorem Circuit.countedRelease_of_more (hs : r.state = .copper) (hn : 1 < r.releaseCells) :
    r.countedRelease = { r with releaseCells := r.releaseCells - 1 } := by
  unfold Circuit.countedRelease
  rw [if_pos ⟨hs, by omega⟩, if_neg (by omega)]

theorem Trunk.circuit_of_ge (h : 256 ≤ c) (t : Trunk) : t.circuit c = Circuit.start := if_neg (Nat.not_lt.mpr h)

/-- A circuit with a calendar row is one of the 256. -/
theorem Trunk.lt_of_calendarRow (h : (u.circuit c).calendarRow = some k) : c < 256 := by
  by_contra hc
  rw [Trunk.circuit_of_ge (Nat.not_lt.mp hc)] at h
  cases h

/-! ## The circuits of the row, one after another -/

/-- The cells of the circuits of row `k` that stand in `cs` have been counted. -/
structure Trunk.ReleasesCounted (k : Nat) (cs : List Nat) (u v : Trunk) : Prop where
  counted : ∀ d ∈ cs, v.circuit d = (u.circuit d).countedRelease
  others : ∀ d, d ∉ cs → v.circuit d = u.circuit d
  row : v.row k = (u.row k).filter (fun d => !(decide (d ∈ cs) && (u.circuit d).leavesRow))
  rows : ∀ j, j ≠ k → v.row j = u.row j
  fallback : v.fallback = u.fallback
  waitQueue : v.waitQueue = u.waitQueue
  reports : u.sameReports v

theorem Trunk.ReleasesCounted.refl (k : Nat) (u : Trunk) : u.ReleasesCounted k [] u where
  counted _ h := absurd h List.not_mem_nil
  others _ _ := rfl
  row := (List.filter_eq_self.mpr fun _ _ => rfl).symm
  rows _ _ := rfl
  fallback := rfl
  waitQueue := rfl
  reports := ⟨rfl, rfl⟩

/-- The row after the cell of one of its circuits. -/
theorem Trunk.countRelease_counted (hk : (u.circuit c).calendarRow = some k) : u.ReleasesCounted k [c] (u.countRelease c) := by
  have hc := Trunk.lt_of_calendarRow hk
  have alone (b : Bool) (hb : (u.circuit c).leavesRow = b) :
      (u.row k).filter (fun d => !(decide (d ∈ [c]) && (u.circuit d).leavesRow)) =
        (u.row k).filter (fun d => !(decide (d = c) && b)) := by
    refine List.filter_congr fun d _ => ?_
    by_cases hd : d = c
    · subst hd
      rw [hb]
      simp
    · simp [hd]
  by_cases hdue : (u.circuit c).state = .copper ∧ 0 < (u.circuit c).releaseCells
  · obtain ⟨hs, hpos⟩ := hdue
    by_cases hlast : (u.circuit c).releaseCells = 1
    · have left : u.countRelease c = (u.modify c (fun r => { r with releaseCells := r.releaseCells - 1 })).leaveCalendar c := by
        unfold Trunk.countRelease
        rw [if_pos ⟨hs, hpos⟩, if_pos hlast]
      have own : (u.modify c (fun r => { r with releaseCells := r.releaseCells - 1 })).circuit c =
          { u.circuit c with releaseCells := 0 } := by
        rw [Trunk.circuit_modify_same _ _ hc, hlast]
      obtain ⟨others, fallback, queue, reports, inRow, outRow⟩ :=
        (u.modify c (fun r => { r with releaseCells := r.releaseCells - 1 })).leaveCalendar_rest c
      rw [left]
      refine ⟨fun d hd => ?_, fun d hd => ?_, ?_, fun j hj => ?_, fallback, queue, reports⟩
      · rw [List.mem_singleton.mp hd, Trunk.leaveCalendar_circuit hc, own, Circuit.countedRelease_of_last hs hlast]
      · have hne : d ≠ c := fun h => hd (List.mem_singleton.mpr h)
        exact (others d hne).trans (Trunk.circuit_modify_ne _ _ hne)
      · rw [alone true (decide_eq_true ⟨hs, hlast⟩), inRow k (by rw [own]; exact hk), Trunk.row_modify]
        exact List.filter_congr fun d _ => by simp
      · refine (outRow j ?_).trans (Trunk.row_modify _ _ _ _)
        rw [own]
        intro h
        exact hj (Option.some.inj (h.symm.trans hk))
    · have kept : u.countRelease c = u.modify c (fun r => { r with releaseCells := r.releaseCells - 1 }) := by
        unfold Trunk.countRelease
        rw [if_pos ⟨hs, hpos⟩, if_neg hlast]
      rw [kept]
      refine ⟨fun d hd => ?_, fun d hd => Trunk.circuit_modify_ne _ _ fun h => hd (List.mem_singleton.mpr h), ?_,
        fun j _ => Trunk.row_modify _ _ _ _, rfl, rfl, ⟨rfl, rfl⟩⟩
      · rw [List.mem_singleton.mp hd, Trunk.circuit_modify_same _ _ hc, Circuit.countedRelease_of_more hs (by omega)]
      · rw [alone false (decide_eq_false fun h => hlast h.2), Trunk.row_modify]
        exact (List.filter_eq_self.mpr fun _ _ => by simp).symm
  · have kept : u.countRelease c = u := if_neg hdue
    rw [kept]
    refine ⟨fun d hd => ?_, fun _ _ => rfl, ?_, fun _ _ => rfl, rfl, rfl, ⟨rfl, rfl⟩⟩
    · rw [List.mem_singleton.mp hd, Circuit.countedRelease_of_none]
      by_contra h
      rw [not_or, not_not] at h
      exact hdue ⟨h.1, Nat.pos_of_ne_zero h.2⟩
    · rw [alone false (decide_eq_false fun h => hdue ⟨h.1, by omega⟩)]
      exact (List.filter_eq_self.mpr fun _ _ => by simp).symm

theorem Trunk.ReleasesCounted.cons (h : u.ReleasesCounted k [c] v) (g : v.ReleasesCounted k cs w) (hc : c ∉ cs) :
    u.ReleasesCounted k (c :: cs) w where
  counted d hd := by
    rcases List.mem_cons.mp hd with rfl | hd
    · rw [g.others _ hc]
      exact h.counted _ (List.mem_singleton.mpr rfl)
    · rw [g.counted d hd, h.others d fun hm => hc (List.mem_singleton.mp hm ▸ hd)]
  others d hd := by
    obtain ⟨hne, hd⟩ := not_or.mp fun hm => hd (List.mem_cons.mpr hm)
    rw [g.others d hd, h.others d fun hm => hne (List.mem_singleton.mp hm)]
  row := by
    rw [g.row, h.row, List.filter_filter]
    refine List.filter_congr fun d _ => ?_
    by_cases hd : d = c
    · subst hd
      simp [hc]
    · rw [h.others d fun hm => hd (List.mem_singleton.mp hm)]
      simp [hd]
  rows j hj := (g.rows j hj).trans (h.rows j hj)
  fallback := g.fallback.trans h.fallback
  waitQueue := g.waitQueue.trans h.waitQueue
  reports := ⟨g.reports.1.trans h.reports.1, g.reports.2.trans h.reports.2⟩

theorem Trunk.foldl_countRelease (k : Nat) : ∀ (cs : List Nat) (u : Trunk), cs.Nodup →
    (∀ d ∈ cs, (u.circuit d).calendarRow = some k) → u.ReleasesCounted k cs (cs.foldl (fun t c => t.countRelease c) u)
  | [], u, _, _ => .refl k u
  | c :: cs, u, hn, hk => by
    obtain ⟨hc, hn⟩ := List.nodup_cons.mp hn
    have first := Trunk.countRelease_counted (hk c List.mem_cons_self)
    refine first.cons (Trunk.foldl_countRelease k cs (u.countRelease c) hn fun d hd => ?_) hc
    rw [first.others d fun hm => hc (List.mem_singleton.mp hm ▸ hd)]
    exact hk d (List.mem_cons_of_mem c hd)

/-! ## The build of the frame's row -/

theorem State.buildRow_due (h : s.todo.build = true) :
    s.buildRow = { s with
      bearerPlaces := s.trunk.rowCells (s.stationNo.getD 15) (s.frameCount.getD 0)
      trunk := s.trunk.countRow s.ctx
      todo := { s.todo with build := false } } := if_pos h

theorem State.buildRow_rowBuilt (hk : k = s.frame.toNat % 40) (hn : s.stationNo = some n) (hb : s.todo.build = true)
    (hsound : s.rowSound k) : s.rowBuilt n k s.buildRow := by
  obtain ⟨nodup, rows⟩ := hsound
  have place : cyclePos (s.frameCount.getD 0) = k := hk.symm
  have counted : s.trunk.ReleasesCounted k (s.trunk.row k) (s.trunk.countRow s.ctx) := by
    show s.trunk.ReleasesCounted k (s.trunk.row k) ((s.trunk.row (cyclePos (s.frameCount.getD 0))).foldl _ s.trunk)
    rw [place]
    exact Trunk.foldl_countRelease k _ _ nodup rows
  rw [State.buildRow_due hb]
  refine ⟨?_, rfl, rfl, ?_, counted.rows, counted.others, fun d hd h => ?_, fun d hd hs h1 => ?_, fun d hd hs h1 => ?_,
    counted.fallback, counted.waitQueue, counted.reports⟩
  · show s.trunk.rowCells (s.stationNo.getD 15) (s.frameCount.getD 0) = _
    unfold Trunk.rowCells
    rw [place, hn]
    rfl
  · rw [show (({ s with trunk := s.trunk.countRow s.ctx } : State).trunk.row k) = _ from counted.row]
    refine List.filter_congr fun d hd => ?_
    rw [decide_eq_true hd, Bool.true_and]
    exact (decide_not ..).symm
  · exact (counted.counted d hd).trans (Circuit.countedRelease_of_none h)
  · exact (counted.counted d hd).trans (Circuit.countedRelease_of_last hs h1)
  · exact (counted.counted d hd).trans (Circuit.countedRelease_of_more hs h1)

/-! ## The command -/

theorem State.lastReleaseDue_iff (c : Nat) (s : State) :
    s.lastReleaseDue c = true ↔ s.todo.build = true ∧ c ∈ s.trunk.row (s.frame.toNat % 40) ∧ (s.circuit c).state = .copper ∧
      (s.circuit c).releaseCells = 1 := by
  unfold State.lastReleaseDue
  rw [Bool.and_eq_true, Bool.and_eq_true, Bool.and_eq_true, List.contains_iff_mem, beq_iff_eq, decide_eq_true_iff, and_assoc, and_assoc]
  rfl

theorem exec_lastReleaseCell_due (h : s.lastReleaseDue c = true) : exec (.lastReleaseCell c) s = .next s.buildRow :=
  congrArg Host.Outcome.next (if_pos h)

theorem exec_lastReleaseCell_not_due (h : s.lastReleaseDue c = false) : exec (.lastReleaseCell c) s = .next s :=
  congrArg Host.Outcome.next (if_neg (by simp [h]))

/-! ## The lane frame that carries the row -/

/-- The lane frame carries the cells of the row that was built as the frame was closed. -/
theorem State.finishFrame_bearerPlaces (s : State) :
    s.finishFrame.bearerPlaces = s.settleBoundary.takeRest.buildRow.bearerPlaces := by
  have after := (State.SameLane.refl s.settleBoundary.takeRest.buildRow.fillService).takeAll
  have filled : s.settleBoundary.takeRest.buildRow.fillService.bearerPlaces = s.settleBoundary.takeRest.buildRow.bearerPlaces :=
    (congrArg State.bearerPlaces s.settleBoundary.takeRest.buildRow.fillService_frame.1 :)
  exact after.bearer.trans filled

/-- Settles O41: the row is built cell by cell, and the circuits whose last release cell it holds leave it. -/
theorem lastReleaseCellLeavesCalendar : Obligations.LastReleaseCellLeavesCalendar := by
  refine ⟨fun s c n k hk hn => ⟨fun hb hmem hs h1 hsound => ?_, fun hnot => ?_⟩, fun s n k hk hn hb => ⟨?_, fun ws hp hbetween hsound => ?_⟩⟩
  · have due : s.lastReleaseDue c = true := (s.lastReleaseDue_iff c).mpr ⟨hb, hk ▸ hmem, hs, h1⟩
    have built := State.buildRow_rowBuilt hk hn hb hsound
    have ⟨_, _, _, row, _, _, _, last, _⟩ := built
    refine ⟨_, exec_lastReleaseCell_due due, built, ?_, last c hmem hs h1⟩
    rw [row]
    intro hc
    exact of_decide_eq_true (List.mem_filter.mp hc).2 ⟨hs, h1⟩
  · refine exec_lastReleaseCell_not_due (Bool.eq_false_iff.mpr fun hdue => ?_)
    obtain ⟨hb, hmem, hs, h1⟩ := (s.lastReleaseDue_iff c).mp hdue
    rcases hnot with h | h | h | h
    · rw [h] at hb
      cases hb
    · exact h (hk ▸ hmem)
    · exact h hs
    · exact h h1
  · intro sw lg straps o i u hs hm hf hr hsound hlen hi
    have setup := ((State.InFrame.refl s).settleBoundary.takeRest).sameSetup
    have frame : u.frame = s.frame := by
      unfold State.frame
      rw [setup.frameCount]
    have build : u.todo.build = true := s.sameLane_beforeRow.build.trans hb
    have built := State.buildRow_rowBuilt (s := u) (by rw [frame]; exact hk) (setup.stationNo.trans hn) build hsound
    have star : s.stationState.onStar = true := by rw [hs]; rfl
    obtain ⟨t, done, sent⟩ := exec_marker_laneOut hi (State.ne_reset_of_onStar star) hm hr
    rw [if_pos (s.finishFrame_sameSetup.onStar.trans star)] at sent
    have places : s.finishFrame.bearerPlaces = (u.trunk.row k).map (fun d => bearerCellBytes n s.frame d (u.circuit d)) := by
      rw [s.finishFrame_bearerPlaces, ← frame]
      exact built.1
    obtain ⟨-, cells, -⟩ := State.laneFrame_bearer (s := s.finishFrame) (by rw [places, List.length_map]; exact hlen)
    refine ⟨built, rfl, t, _, done, sent, fun j d hd => cells j _ ?_⟩
    rw [places, List.getElem?_map, hd]
    rfl
  · refine ⟨_, (step_of_no_command hp).trans (congrArg Host.Outcome.next (State.tick_work hbetween)),
      State.buildRow_rowBuilt (s := { s with todo := { s.todo with between := ws } }) hk hn hb hsound, ?_⟩
    show (State.buildRow _).todo.between = ws
    rw [State.buildRow_due (s := { s with todo := { s.todo with between := ws } }) hb]

end Sys2Proof.Machine

end
